-- ==== Sys2Proof/Word.lean ====
section
/-! DEFINITION. The word types of the Plovis Z8 and their plainest arithmetic. -/

namespace Sys2Proof

/-- The smallest addressable unit (R149: a location is one byte). -/
abbrev Byte := BitVec 8

/-- A scalar register (Table 6-1: x0-x31). -/
abbrev Word := BitVec 64

/-- A vector register of 2 KiB (R2, Table 0-1); byte j is bits [8j+7 : 8j] (R166). -/
abbrev Tile := BitVec 16384

/-- A predicate register of 2,048 bits (R313). -/
abbrev PredReg := BitVec 2048

end Sys2Proof
end

