-- ==== Sys2Proof/Syntax.lean ====
section
/-! DEFINITION. The steps of the Plovis Z8 as syntax: one constructor of `Instr` per row of
spec/opcode_table.json. Encoded instructions carry their operands; the other rows are events of the
module and carry the data that comes with the event. -/

namespace Sys2Proof

/-- Ordering annotation (R151). -/
inductive OrdK | none | acq | rel | ar
deriving DecidableEq, Repr

/-- Scope codes of Table 8-1 (R150). -/
inductive ScopeK | ctx | core | clu | die | mod | pod | sys
deriving DecidableEq, Repr

/-- Address spaces of Table 7-1 (R120). -/
inductive SpaceK | g | sp | nb
deriving DecidableEq, Repr

/-- Format codes of Table 9-1 (R165); `stored` is 0xF, kiln operand fields only. -/
inductive Fmt
  | int8 | uint8 | int16 | uint16 | int32 | uint32 | fp32 | fp16 | bf16
  | e4m3 | e5m2 | e2m1 | lns6 | e8m0 | stored
deriving DecidableEq, Repr

/-- Rounding codes (R174). -/
inductive RndK | rne | rz | rdn | rup | rna | sr | dyn
deriving DecidableEq, Repr

/-- A scalar register number, x0-x31. -/
abbrev XReg := BitVec 5

/-- Constant ports 80-87 of Table 13-2 (R257, R260). -/
inductive ConstK | zero | one | rowi | coli | flati | pinf | ninf | maxf
deriving DecidableEq, Repr

/-- A source port of a VC syllable (Table 13-2). -/
inductive VSrc
  | v (n : BitVec 6)      -- register, through RRB
  | s (n : BitVec 2)      -- stream port
  | va (n : BitVec 2)     -- age of slot VA
  | vb (n : BitVec 2)     -- age of slot VB
  | const (k : ConstK)
  | x (n : XReg)          -- broadcast of K's xn, n from 1 to 31
  | none
deriving DecidableEq, Repr

/-- A destination port of a VC syllable (Table 13-2). -/
inductive VDst
  | v (n : BitVec 6)
  | s (n : BitVec 2)
  | none
deriving DecidableEq, Repr

/-- Ordering and scope of an engine word or of FSET and FINC. -/
structure OS where
  ord   : OrdK
  scope : ScopeK
deriving DecidableEq, Repr

/-- Three register operands of an R form (R253). -/
structure R3 where
  xd : XReg
  xa : XReg
  xb : XReg
deriving DecidableEq, Repr

/-- Two register operands of an R form. -/
structure R2 where
  xd : XReg
  xa : XReg
deriving DecidableEq, Repr

/-- An I form with one source (R253). -/
structure I2 where
  xd  : XReg
  xa  : XReg
  imm : BitVec 30
deriving DecidableEq, Repr

/-- A shift immediate: imm30[5:0], the rest zero (R279). -/
structure Sh where
  xd : XReg
  xa : XReg
  n  : BitVec 6
deriving DecidableEq, Repr

/-- The address part of an MC syllable (R254). -/
structure MAddr where
  xbase : XReg
  xpol  : XReg
  ord   : OrdK
  scope : ScopeK
  space : SpaceK
  disp  : BitVec 23
deriving DecidableEq, Repr

/-- A scalar load: destination and address (R308). -/
structure LdOp where
  xd : XReg
  m  : MAddr
deriving DecidableEq, Repr

/-- A scalar store: source and address (R309). -/
structure StOp where
  xs : XReg
  m  : MAddr
deriving DecidableEq, Repr

/-- An atomic; the data register stands in the xpol field (R319). -/
structure AtOp where
  xd : XReg
  m  : MAddr
deriving DecidableEq, Repr

/-- The common fields of a VC syllable (R255); a port that the entry does not use is `none`. -/
structure VOp where
  fmt : Fmt
  rnd : RndK
  d   : VDst
  a   : VSrc
  b   : VSrc
  c   : VSrc
  p   : BitVec 4
deriving DecidableEq, Repr

/-- Compare conditions (R343). -/
inductive CondK | eq | ne | lt | le | gt | ge | un | ord
deriving DecidableEq, Repr

/-- Reduction operations (R350). -/
inductive RedK | add | max | min
deriving DecidableEq, Repr

/-- A counted engine word on one register: reg, step, repeat (R261). -/
structure EW where
  r : BitVec 4
  v : BitVec 17
  n : BitVec 16
deriving DecidableEq, Repr

/-- The same with ordering and scope. -/
structure EWO where
  os : OS
  r  : BitVec 4
  v  : BitVec 17
  n  : BitVec 16
deriving DecidableEq, Repr

/-- Flue register operands fd, fa, fb, fc (R262). -/
structure F2 where
  d : BitVec 4
  a : BitVec 4
  b : BitVec 4
deriving DecidableEq, Repr

/-- Flue register operands with a third source. -/
structure F3 where
  d : BitVec 4
  a : BitVec 4
  b : BitVec 4
  c : BitVec 4
deriving DecidableEq, Repr

/-- Atomic operations, as a UALink peer sends them (Table 1-3, Table 15-3). -/
inductive AtomK | add | and | or | xor | min | max | minu | maxu | swap | cas | fadd | fmax
deriving DecidableEq, Repr

/-- A request from a peer module (R15). -/
inductive PeerReq
  | read   (n : Nat)
  | write  (data : List Byte)
  | atomic (op : AtomK) (arg cmp : Word)
deriving DecidableEq, Repr

/-- The data that comes with an event that is no encoded instruction: what the host, a peer, the pins or
another unit puts on the module's inputs with it. The step sets it in State before it executes the event's
row; each event reads the fields its docstring in Machine/ names. -/
structure Inp where
  fn      : BitVec 6 := 0            -- Zeldan function number
  core    : BitVec 9 := 0            -- core id
  idx     : Nat := 0                 -- queue, slot, kiln, port, group or operation number
  idx2    : Nat := 0                 -- a second number (step, field, rival)
  world   : BitVec 10 := 0
  accel   : BitVec 10 := 0           -- accelerator id of a peer
  tag     : BitVec 16 := 0           -- request tag of the management channel
  addr    : Word := 0
  len     : Nat := 0                 -- a length or access size
  val     : Word := 0                -- a value written
  ok      : Bool := false            -- a yes/no input
  wide    : BitVec 256 := 0          -- a nonce
  data    : List Byte := []
  images  : List (List Byte) := []   -- firmware images
  peer    : PeerReq := .read 0
deriving DecidableEq, Repr

/-- One row of spec/opcode_table.json each. The encoded instructions carry their operands; the rows from
`coldReset` on are events and take their data from `Inp`. -/
inductive Instr
  -- SC class, Table 13-5
  | add (o : R3) | sub (o : R3) | and (o : R3) | or (o : R3) | xor (o : R3) | andn (o : R3)
  | shl (o : R3) | shr (o : R3) | sra (o : R3) | rotr (o : R3)
  | mul (o : R3) | mulh (o : R3) | mulhu (o : R3)
  | div (o : R3) | divu (o : R3) | rem (o : R3) | remu (o : R3)
  | min (o : R3) | max (o : R3) | minu (o : R3) | maxu (o : R3)
  | seq (o : R3) | sne (o : R3) | slt (o : R3) | sltu (o : R3)
  | sel (o : R3) (xc : XReg)
  | clz (o : R2) | ctz (o : R2) | popc (o : R2)
  | bfx (o : R2) (sx : Bool) (pos len1 : BitVec 6)
  | bfi (o : R3) (pos len1 : BitVec 6)
  | addi (o : I2) | andi (o : I2) | ori (o : I2) | xori (o : I2)
  | shli (o : Sh) | shri (o : Sh) | srai (o : Sh)
  | muli (o : I2) | slti (o : I2) | sltui (o : I2) | seqi (o : I2)
  | li (xd : XReg) (imm : BitVec 30)
  | lic (o : I2)
  | addpc (xd : XReg) (imm : BitVec 30)
  | lea (o : R3) (s : BitVec 3) (d : BitVec 27)
  | br (off : BitVec 30)
  | brz (xa : XReg) (off : BitVec 30) | brnz (xa : XReg) (off : BitVec 30)
  | brlt (xa xb : XReg) (off : BitVec 30) | brge (xa xb : XReg) (off : BitVec 30)
  | brltu (xa xb : XReg) (off : BitVec 30) | brgeu (xa xb : XReg) (off : BitVec 30)
  | jr (xa : XReg)
  | call (off : BitVec 30)
  | brlc (o : I2)
  | loop (xa : XReg) (len : BitVec 30)
  | loopm (xa : XReg) (ns1 : BitVec 3) (ii1 : BitVec 10)
  | qpush (q : BitVec 3) (xa : XReg)
  | qpop (xd : XReg) (q : BitVec 3)
  | qpeek (xd : XReg) (q : BitVec 3)
  | fset (os : OS) (f : BitVec 6) (xa : XReg)
  | finc (os : OS) (f : BitVec 6) (xa xb : XReg)
  | fwait (xd : XReg) (f : BitVec 6) (xb : XReg)
  | safept (idx : BitVec 16)
  | gbar (xd : XReg) (g : BitVec 2)
  | gred (op : BitVec 4) (xd : XReg) (g : BitVec 2) (xb xc : XReg)
  | gstep (xd : XReg) (g : BitVec 2)
  | launch (o : R3)
  | mwait (xd : XReg)
  | fork (xd : XReg) (g : BitVec 2) (xb : XReg)
  | sreward (o : R2)
  | sgwait (xd : XReg) (g : BitVec 2)
  | sgcancel (xd : XReg) (g : BitVec 2) (xb : XReg)
  | sginfo (xd : XReg) (g : BitVec 2) (sel : BitVec 2)
  | tscore (o : R2)
  | tgrow (o : R2)
  | tinfo (xd : XReg) (sel : BitVec 2)
  | klease (xd : XReg)
  | krel (xd : XReg)
  | kstart (o : R2)
  | cstart (o : R2) (e : BitVec 1)
  | estop (xd : XReg) (sel : BitVec 2)
  | estat (xd : XReg) (sel : BitVec 2)
  | flueld (o : R2) (slot : BitVec 3)
  | rds (xd : XReg) (n : BitVec 12)
  | wrs (n : BitVec 12) (xa : XReg)
  | trap (imm : BitVec 8)
  | icinv (xd : XReg) (scope : ScopeK)
  | iclock (o : R3)
  | icunlk (xa xb : XReg)
  | split (s : BitVec 5)
  | bkpt (imm : BitVec 8)
  -- MC class, Table 13-6
  | ldb (o : LdOp) | ldbu (o : LdOp) | ldh (o : LdOp) | ldhu (o : LdOp)
  | ldw (o : LdOp) | ldwu (o : LdOp) | ldd (o : LdOp)
  | stb (o : StOp) | sth (o : StOp) | stw (o : StOp) | std (o : StOp)
  | ldq (q : BitVec 3) (m : MAddr)
  | pref (l2 : Bool) (xbase xpol : XReg) (disp : BitVec 23)
  | ldv (v : BitVec 6) (m : MAddr)
  | stv (v : BitVec 6) (m : MAddr)
  | ldp (p : BitVec 4) (m : MAddr)
  | stp (p : BitVec 4) (m : MAddr)
  | bind (wr : Bool) (s : BitVec 2) (m : MAddr)
  | unbind (s : BitVec 2)
  | spstat (xd : XReg) (s : BitVec 2)
  | aadd (o : AtOp) | aand (o : AtOp) | aor (o : AtOp) | axor (o : AtOp)
  | amin (o : AtOp) | amax (o : AtOp) | aminu (o : AtOp) | amaxu (o : AtOp)
  | aswap (o : AtOp) | acas (o : AtOp) | afadd (o : AtOp) | afmax (o : AtOp)
  | fence (os : OS)
  | syncg (scope : ScopeK)
  | cinv (scope : ScopeK) (xbase xlen : XReg) (disp : BitVec 23)
  -- VC class, Table 13-7
  | vadd (o : VOp) | vsub (o : VOp) | vmul (o : VOp) | vfma (o : VOp) | vfms (o : VOp)
  | vfnma (o : VOp) | vmin (o : VOp) | vmax (o : VOp) | vabs (o : VOp) | vneg (o : VOp)
  | vdiv (o : VOp) | vsqrt (o : VOp)
  | vrcp (o : VOp) | vrsq (o : VOp) | vexp2 (o : VOp) | vlog2 (o : VOp) | vtanh (o : VOp) | vsigm (o : VOp)
  | vrnd (o : VOp) | vclass (o : VOp)
  | viadd (o : VOp) | visub (o : VOp) | vimul24 (o : VOp) | vimulh24 (o : VOp)
  | vimul32 (o : VOp) | vimulh32 (o : VOp) | vimac24 (o : VOp)
  | vimin (o : VOp) | vimax (o : VOp) | viabs (o : VOp)
  | vand (o : VOp) | vor (o : VOp) | vxor (o : VOp)
  | vshl (o : VOp) | vshr (o : VOp) | vsra (o : VOp) | vrshr (o : VOp)
  | vsat (o : VOp) (tfmt : Fmt)
  | viadds (o : VOp)
  | vcmp (pd : BitVec 4) (cond : CondK) (o : VOp)
  | vsel (o : VOp)
  | pand (pd pa pb : BitVec 4) | por (pd pa pb : BitVec 4) | pxor (pd pa pb : BitVec 4)
  | pnot (pd pa : BitVec 4)
  | vcvt (o : VOp) (dfmt : Fmt)
  | vpack (o : VOp) (dfmt : Fmt)
  | vunpk (o : VOp) (hi : Bool) (dfmt : Fmt)
  | vqmx (o : VOp) (dfmt : Fmt)
  | vdqmx (o : VOp) (dfmt : Fmt)
  | vmov (o : VOp)
  | vbrd (o : VOp) (col : Bool) (k : BitVec 6)
  | vredr (o : VOp) (op : RedK) | vredc (o : VOp) (op : RedK)
  | vtrn (o : VOp)
  | vrotc (o : VOp) (k : BitVec 9) | vshc (o : VOp) (k : BitVec 9)
  | vgath (o : VOp)
  | vsetsh (x : XReg)
  | viota (o : VOp)
  -- copy words, Table 18-1
  | cnop (n : BitVec 16)
  | csetl (w : EW) | cseth (w : EW) | cadv (w : EW)
  | cshape (w : EWO) | cmove (w : EWO) | cbox (w : EWO) | cgath (w : EWO) | cscat (w : EWO)
  | cfill (w : EWO) | cred (w : EWO) | csend (w : EWO) | crecv (w : EWO)
  | csig (os : OS) (f : BitVec 6) (n : BitVec 16)
  | cwait (os : OS) (r : BitVec 4) (f : BitVec 6) (n : BitVec 16)
  | csync (os : OS) (rdv : Bool) (n : BitVec 16)
  | cloop (w : EW)
  | cend (n : BitVec 16)
  -- kiln words, Table 17-1
  | knop (n : BitVec 16)
  | ksetl (w : EW) | kseth (w : EW)
  | kfmt (f : BitVec 8) (n : BitVec 16)
  | ktile (r : BitVec 4) (n : BitVec 16)
  | kzero (n : BitVec 16)
  | kldc (w : EWO)
  | kmma (w : EW)
  | kdrain (w : EW)
  | kswap (n : BitVec 16)
  | ksig (os : OS) (f : BitVec 6) (n : BitVec 16)
  | kwait (os : OS) (r : BitVec 4) (f : BitVec 6) (n : BitVec 16)
  | ksync (w : EWO)
  | kloop (w : EW)
  | kend (n : BitVec 16)
  -- flue instructions, Table 17-6
  | fld (d f : BitVec 4) (j : BitVec 2)
  | fadd (o : F2) | fmul (o : F2)
  | ffma (o : F3)
  | fmax (o : F2) | fmin (o : F2)
  | fbias (o : F3)
  | fscale (o : F3) (n : BitVec 8)
  | fact (o : F2) (t : BitVec 4)
  | fclamp (o : F3)
  | fq (d a : BitVec 4) (r : BitVec 3) (f : BitVec 4)
  | fst (a : BitVec 4) (k j : BitVec 2) (r : BitVec 3) (f : BitVec 4)
  | fstat (d a : BitVec 4) (op : BitVec 2)
  -- encoded instructions without operands
  | scNop
  | lexit
  | rdv
  | tyield
  | resume
  | halt
  | genbump
  | mcNop
  | rcfence
  | vnop
  | fnop
  | fend
  -- reset, power and links (R9-R16)
  | coldReset
  | warmReset
  | resetStepComplete
  | resetStepTimeout
  | moduleTrip
  | throttleDown
  | throttleUp
  | eccUncorrectableError
  | podTimeOffsetMeasure
  | hostMemoryWrite
  | hostMemoryRead
  | registerWrite
  | blkctlWrite
  | ptstatWrite
  | moduleHostReadTimeout
  | ualinkPortFail
  | ualinkDeliveryTimeout
  | peerModuleRequest
  -- management channel (R37, R59, R60, R249)
  | summary
  | getVersion
  | getCapabilities
  | negotiateAlgorithms
  | getDigests
  | getCertificate
  | challenge
  | getMeasurements
  | spdmUnsupportedRequest
  | certificateSlotWrite
  | certificateWriteDeferralExpiry
  | imgseal
  | imgcheck
  | icinvw
  -- queues and the scheduler (R30-R81)
  | queueEnable
  | queueDisable
  | queueDrain
  | notifyWrite
  | queueMap
  | opbFetch
  | waitCounterReread
  | dispatchOpportunity
  | stepClaim
  | coreWorldClear
  | jobStart
  | jobCompletionRelease
  | stepComplete
  | opbComplete
  | launchPacket
  | reservationExpiry
  -- worlds, logs, evidence (R46-R61, R139, R172)
  | create
  | rotate
  | retire
  | lockcfg
  | teardown
  | scrubComplete
  | reencryptWalkerStart
  | reencryptWalkerComplete
  | rlctlWrite
  | lockedRegisterWalkPass
  | formatRangeWrite
  | kilnLtabWrite
  -- paging, debug, trace, replay (R206-R222)
  | fqdoneOk
  | fqdoneFail
  | faultEnqueue
  | attach
  | detach
  | debugHalt
  | debugResume
  | copyout
  | copyin
  | breakpointWrite
  | trctlWrite
  | cntvalWrite
  | traceSample
  | replayStart
  | replayEnd
  -- holds, memory and kiln events
  | tlbMissHold
  | translationHoldEnd
  | bankConflictHold
  | refreshHold
  | splitGranuleHold
  | splitDrainEnd
  | genbumpSweepEnd
  | variableLatencyCompletion
  | storeApplyAtHome
  | remoteFincArrival
  | portTileTransfer
  | kilnLeaseGrant
  | kilnWorldClear
  | tileFetchChunkArrival
  | flueRowRun
  | drainComplete
  | channelUnitArrival
  | linkWordSlotReached
  | coreStop
  | stopCaptureComplete
  | jobWatchdogExpiry
  | barrierWatchdogExpiry
  | preemptRequest
  | preemptStop
  | contextSwitchIn
  | allowanceReached
  | sampleDeadlineExpiry
  | hubStateUncorrectableError
  | managementCoreWatchdogExpiry
  | pagingTlbInvalidation
  | readServedAtHome
  | hubRequestArrival
deriving DecidableEq, Repr

end Sys2Proof
end

