-- ==== Sys2Proof/Config.lean ====
section
/-! DEFINITION. What one implementation fixes and what the spec leaves open: constants with no body, so
that nothing can be proved of a value the spec does not give. -/

namespace Sys2Proof.Config

/-- A latency or wait the spec does not bound (R322; Table 13-11 "token"), in cycles; the argument numbers
the draw (log 5). -/
opaque latency : Nat → Nat

/-- A byte the spec calls undefined (R195: the rest of a capture slot); the argument numbers the draw (log 5). -/
opaque freeByte : Nat → Byte

/-- Bytes that a scrub receipt counts per item of a class (Table 3-3 does not say; log 21). -/
opaque scrubBytes : Nat → Nat

/-- A vector register that a context switch does not keep (R203); the argument numbers the draw (log 5). -/
opaque freeTile : Nat → BitVec 16384

/-- A choice the spec leaves open between two outcomes (log 5). -/
opaque freeBool : Nat → Bool

/-- A special function's result code in a format, from the operand's code (R186, Table 9-5): 0 VRCP, 1 VRSQ,
2 VEXP2, 3 VLOG2, 4 VTANH, 5 VSIGM; it counts where it lies within the bound. On one stepping one input always gives the same
output (log 6). -/
opaque special : Nat → Fmt → Nat → Nat

/-- The fused digest of the key that signs images, and whether an image, with its SHA-512, carries a signature that verifies against it
(R58; log 38). -/
opaque imageKey : BitVec 512
opaque verifies : BitVec 512 → BitVec 512 → List Byte → Bool

/-- The images that a reset step had come to when it missed its bound (R58; log 38); the argument numbers the draw (log 5). -/
opaque lateImages : Nat → List (List Byte)

/-- Where the scheduler puts the save area of a job that it switches out (R203; log 24); the argument numbers the draw (log 5). -/
opaque saveAddr : Nat → Nat

/-- The stepping of this part, read as system register 0x00B and compared with images (R114, R299; log 15). -/
opaque stepping : BitVec 16

/-- The shared x-coordinate of ECDH between the device's key-wrap key and a public point (R49; log 9). -/
opaque ecdh : List Byte → BitVec 528

/-- The attestation signature over a message (R55, R59; log 9). -/
opaque sign : List Byte → List Byte

/-- The signature of a certificate slot's key over a message (R59; log 9). -/
opaque slotSign : Nat → List Byte → List Byte

/-- The key of the image cache's TAG, derived from a fused secret (R248; log 9). -/
opaque sealKey : BitVec 512

/-- The fused device certificate chain of slot 0 (R60; log 14). -/
opaque deviceChain : List Byte

/-- The fused device serial (R55; log 9). -/
opaque deviceSerial : BitVec 128

/-- The device key-wrap public key of WKEYPUB (Table 3-1; log 9). -/
opaque wrapKey : List Byte

/-- By how much pod time is slewed in a cycle, modulo what 100 ppm allows (R18); the argument numbers the cycle (log 5). -/
opaque slew : Nat → Nat

/-- The set of an L1 line, and of an L2 line in its slice, modulo their numbers of sets (R129, R133 do not say; log 68). -/
opaque l1Set : Nat → Nat
opaque l2Set : Nat → Nat

/-- The line of a full instruction cache that gives way: a position among those not locked (R2 does not say; log 68). -/
opaque icVictim : Nat → Nat

/-- How long an L1 sweep takes, less one, modulo 8,192 (R131: it ends within 8,192 cycles); the argument is GEN (log 5). -/
opaque sweepTime : Nat → Nat

end Sys2Proof.Config
end

