-- ==== Sys2Proof/WellFormed.lean ====
section
/-! DEFINITION. Which instruction terms are legal encodings: the field restrictions that the entries of
chapters 13-18 state. An instruction whose fields decode but that is not well-formed is an ILLEGAL stop
with DETAIL 0 (R269), or the ILLEGAL stop of R261 or R263 for engine words and flue programs. -/

namespace Sys2Proof

/-- Element bits (Table 9-1). -/
def Fmt.bits : Fmt → Nat
  | .int8 | .uint8 | .e4m3 | .e5m2 | .lns6 | .e8m0 => 8
  | .int16 | .uint16 | .fp16 | .bf16 => 16
  | .int32 | .uint32 | .fp32 => 32
  | .e2m1 => 4
  | .stored => 8

def Fmt.isFP : Fmt → Bool
  | .fp32 | .fp16 | .bf16 => true
  | _ => false

def Fmt.isInt : Fmt → Bool
  | .int8 | .uint8 | .int16 | .uint16 | .int32 | .uint32 => true
  | _ => false

/-- The formats an MX block may take (R348). -/
def Fmt.isMX : Fmt → Bool
  | .e2m1 | .e4m3 | .e5m2 | .lns6 => true
  | _ => false

/-- ord none takes scope ctx (R151). -/
def OS.ok (o : OS) : Bool := o.ord != .none || o.scope == .ctx

def OS.acqOk (o : OS) : Bool := o.ok && (o.ord == .none || o.ord == .acq)
def OS.relOk (o : OS) : Bool := o.ok && (o.ord == .none || o.ord == .rel)

def MAddr.os (m : MAddr) : OS := ⟨m.ord, m.scope⟩

/-- A source port used or unused (R256, R257): 127 exactly when unused. -/
def VSrc.useOk (used : Bool) (s : VSrc) : Bool :=
  match s with
  | .none => !used
  | .x n => used && n != 0
  | _ => used

/-- The common checks of a VC entry with `n` sources (R256, R327, R329, R331). -/
def VOp.ok (o : VOp) (n : Nat) (fmtOk : Fmt → Bool) (rndOk : RndK → Bool) (predicated : Bool) : Bool :=
  o.a.useOk (1 ≤ n) && o.b.useOk (2 ≤ n) && o.c.useOk (3 ≤ n) && fmtOk o.fmt && rndOk o.rnd
    && (predicated || o.p == 0)

def anyRnd (_ : RndK) : Bool := true
def noRnd (r : RndK) : Bool := r == .rne
def anyFmt (f : Fmt) : Bool := f != .stored
/-- The modes of VRSHR (R341). -/
def rnd04 : RndK → Bool
  | .sr | .dyn => false
  | _ => true
/-- FP or integer (R343, R350). -/
def fpInt (f : Fmt) : Bool := f.isFP || f.isInt

/-- VREDR and VREDC (R350): FP add takes modes 0-4 or 6; the others carry rnd 0. -/
def VOp.redOk (o : VOp) (op : RedK) : Bool :=
  o.ok 1 fpInt (fun r => if o.fmt.isFP && op == .add then r != .sr else r == .rne) true

/-- Repeat mode single: 0 or 1 (R352). -/
def single (n : BitVec 16) : Bool := n.toNat ≤ 1

/-- The step field of CSETH and KSETH (R353). -/
def sethOk (v : BitVec 17) : Bool := v.toNat < 2 ^ 16 || v.toNat == 2 ^ 16

/-- Codes KFMT takes (R354). -/
def kfmtCode (n : Nat) : Bool :=
  n == 0 || n == 1 || (7 ≤ n && n ≤ 12) || n == 15

/-- The operand pairs of Table 17-2, by code. -/
def kpairOk (a b : Nat) : Bool :=
  ((a == 7 || a == 8) && (b == 7 || b == 8)) || ((a == 9 || a == 10) && (b == 9 || b == 10))
    || (a ≤ 1 && b ≤ 1) || (a == 11 && b == 11) || (a == 12 && b == 12)

def isE (r : BitVec 4) : Bool := r.toNat < 8
def isM (r : BitVec 4) : Bool := 12 ≤ r.toNat

/-- The legal terms. Events are always well-formed. -/
def Instr.wf (i : Instr) : Bool :=
  match i with
  -- SC
  | .bfx _ _ pos len1 | .bfi _ pos len1 => pos.toNat + len1.toNat + 1 ≤ 64
  | .fset os _ _ | .finc os _ _ _ => os.relOk
  | .safept idx => idx.toNat ≤ 65534
  | .gred op _ _ _ _ => op.toNat ≤ 8
  | .estop _ e | .estat _ e => e.toNat ≤ 2
  | .icinv _ scope => scope != .ctx
  | .split s => s.toNat ≤ 27
  -- MC
  | .ldb o | .ldbu o | .ldh o | .ldhu o | .ldw o | .ldwu o | .ldd o => o.m.os.acqOk
  | .stb o | .sth o | .stw o | .std o => o.m.os.relOk
  | .ldq _ m | .ldv _ m => m.os.acqOk
  | .stv _ m | .stp _ m => m.os.relOk
  | .ldp p m => m.os.acqOk && p != 0
  | .bind wr _ m => if wr then m.os.relOk else m.os.acqOk
  | .aadd o | .aand o | .aor o | .axor o | .amin o | .amax o | .aminu o | .amaxu o | .aswap o | .acas o
  | .afadd o | .afmax o => o.m.os.ok
  | .fence os => os.ord != .none
  | .cinv scope _ _ _ => scope == .core || scope == .clu || scope == .die || scope == .mod
  -- VC
  | .vadd o | .vsub o | .vmul o | .vdiv o => o.ok 2 Fmt.isFP anyRnd true
  | .vfma o | .vfms o | .vfnma o => o.ok 3 Fmt.isFP anyRnd true
  | .vmin o | .vmax o => o.ok 2 Fmt.isFP noRnd true
  | .vabs o | .vneg o | .vclass o => o.ok 1 Fmt.isFP noRnd true
  | .vsqrt o | .vrnd o => o.ok 1 Fmt.isFP anyRnd true
  | .vrcp o | .vrsq o | .vexp2 o | .vlog2 o | .vtanh o | .vsigm o => o.ok 1 Fmt.isFP noRnd true
  | .viadd o | .visub o | .vimul24 o | .vimulh24 o | .vimin o | .vimax o | .vand o | .vor o | .vxor o
  | .vshl o | .vshr o | .vsra o | .viadds o => o.ok 2 Fmt.isInt noRnd true
  | .vimul32 o | .vimulh32 o => o.ok 2 (fun f => f == .int32 || f == .uint32) noRnd true
  | .vimac24 o => o.ok 3 Fmt.isInt noRnd true
  | .viabs o => o.ok 1 Fmt.isInt noRnd true
  | .vrshr o => o.ok 2 Fmt.isInt rnd04 true
  | .vsat o t => o.ok 1 Fmt.isInt noRnd true && t.isInt
  | .vcmp pd cond o =>
      o.ok 2 (fun f => f.isFP || (f.isInt && cond != .un && cond != .ord)) noRnd true && pd != 0 && o.d == .none
  | .vsel o => o.ok 2 Fmt.isInt noRnd true
  | .pand pd _ _ | .por pd _ _ | .pxor pd _ _ | .pnot pd _ => pd != 0
  | .vcvt o t => o.ok 1 anyFmt anyRnd true && anyFmt t
  | .vpack o t => o.ok 2 anyFmt anyRnd false && anyFmt t && t.bits * 2 == o.fmt.bits
  | .vunpk o _ t => o.ok 1 anyFmt noRnd false && anyFmt t && o.fmt.bits * 2 == t.bits
  | .vqmx o t => o.ok 2 Fmt.isFP anyRnd false && t.isMX
      && (match o.b, o.d with
          | .v n, .v d => n != d
          | .v _, _ => true
          | _, _ => false)
  | .vdqmx o t => o.ok 2 Fmt.isMX anyRnd true && t.isFP
  | .vmov o => o.ok 1 Fmt.isInt noRnd true
  | .vbrd o _ _ | .vtrn o | .vrotc o _ => o.ok 1 Fmt.isInt noRnd false
  | .vshc o _ => o.ok 2 Fmt.isInt noRnd false
  | .vgath o => o.ok 2 Fmt.isInt noRnd true
  | .vredr o op | .vredc o op => o.redOk op
  | .vsetsh x => x != 0
  | .viota o => o.ok 0 Fmt.isInt noRnd true
  -- copy words (Table 18-1)
  | .cseth w | .kseth w => sethOk w.v
  | .cshape w => w.os.acqOk && w.v == 0 && single w.n
  | .cmove w => w.os.ok && w.r.toNat ≤ 13
  | .cbox w | .cgath w | .cscat w => w.os.ok && w.r.toNat ≤ 12
  | .cfill w => w.os.relOk && w.r.toNat ≤ 14
  | .cred w => w.os.ok && w.r.toNat ≤ 13 && w.v.toNat < 8
  | .csend w => w.os.relOk && w.r.toNat ≤ 13 && w.v.toNat < 8
  | .crecv w => w.os.acqOk && w.r.toNat ≤ 13 && w.v.toNat < 8
  | .csig os _ _ | .ksig os _ _ => os.relOk
  | .cwait os _ _ n | .kwait os _ _ n => os.acqOk && single n
  | .csync os _ n => os.ok && single n
  | .cloop w | .kloop w => single w.n
  | .cend n | .kend n | .kzero n | .kswap n => single n
  -- kiln words (Table 17-1)
  | .kfmt f n => single n && kfmtCode (f.toNat % 16) && kfmtCode (f.toNat / 16)
      && (f.toNat % 16 == 15 || f.toNat / 16 == 15 || kpairOk (f.toNat % 16) (f.toNat / 16))
  | .ktile r n => single n && r.toNat ≤ 13
  | .kldc w => w.os.acqOk && single w.n && w.r.toNat ≤ 14 && w.v.toNat < 2
  | .kmma w => w.r.toNat ≤ 14 && w.v.toNat < 2
  | .kdrain w => single w.n && w.r.toNat ≤ 10 && w.v.toNat < 128
  | .ksync w => w.os.ok && single w.n && w.v.toNat < 16 && (w.v.toNat / 4 % 2 == 1 || w.v.toNat / 8 == 0)
  -- flue instructions (Table 17-6, R372)
  | .fld d f _ => isE d && f.toNat ≤ 10
  | .fadd o | .fmul o | .fmax o | .fmin o => isE o.d
  | .ffma o | .fbias o | .fclamp o | .fscale o _ => isE o.d
  | .fact o t => isE o.d && t.toNat ≤ 6 && (t.toNat == 6 || o.b == 0)
  | .fq d a r f => isE d && isE a && r.toNat ≤ 5 && (f.toNat == 9 || f.toNat == 10 || f.toNat == 11 || f.toNat == 12)
  | .fst a k _ r f => k.toNat ≤ 2 && r.toNat ≤ 4 && f.toNat ≤ 12
      && (if k.toNat == 2 then isM a && f.toNat != 11 else !isM a)
  | .fstat d a _ => isM d && isE a
  | _ => true

end Sys2Proof
end

