-- ==== Sys2Proof/Decode.lean ====
section
/-! DEFINITION. Decoding of syllables, engine words and flue instructions from the layouts of R250-R268,
and the encoder written from the same tables. A word is a natural number; its fields are taken by
division and remainder. What no decoding accepts is rejected by name. -/

namespace Sys2Proof

/-- Why a word is no instruction. Each one is an ILLEGAL stop with DETAIL 0 (R269). -/
inductive Reject
  | reservedOpcode   -- the opcode is a dash of Tables 13-5 to 13-9
  | badField         -- a reserved field value, or a non-zero unused field (R256, R269)
  | slotBits         -- bits [63:48] of an engine word's slot are not zero (R261)
deriving DecidableEq, Repr

/-- Bits [lo + len - 1 : lo] of a word. -/
def fldN (w lo len : Nat) : Nat := w / 2 ^ lo % 2 ^ len

/-- Continue only when the condition holds. -/
def need {α : Type} (p : Prop) [Decidable p] (x : Option α) : Option α := if p then x else none

/-- A register number field: x0-x31 (R253); larger values are reserved. -/
def xr (n : Nat) : Option XReg := if n < 32 then some (BitVec.ofNat 5 n) else none

/-- A number field of k bits; larger values are reserved (R274, R303). -/
def bv (k n : Nat) : Option (BitVec k) := if n < 2 ^ k then some (BitVec.ofNat k n) else none

/-- A flag bit as a number. -/
def bit (b : Bool) : Nat := if b then 1 else 0

def ordOf : Nat → Option OrdK
  | 0 => some .none | 1 => some .acq | 2 => some .rel | 3 => some .ar | _ => none
def OrdK.code : OrdK → Nat
  | .none => 0 | .acq => 1 | .rel => 2 | .ar => 3

def scopeOf : Nat → Option ScopeK
  | 0 => some .ctx | 1 => some .core | 2 => some .clu | 3 => some .die | 4 => some .mod
  | 5 => some .pod | 6 => some .sys | _ => none
def ScopeK.code : ScopeK → Nat
  | .ctx => 0 | .core => 1 | .clu => 2 | .die => 3 | .mod => 4 | .pod => 5 | .sys => 6

/-- func[4:3] ord and func[2:0] scope (R290). -/
def osOf (n : Nat) : Option OS := do pure ⟨← ordOf (n / 8), ← scopeOf (n % 8)⟩
def OS.code (o : OS) : Nat := o.ord.code * 8 + o.scope.code

def spaceOf : Nat → Option SpaceK
  | 0 => some .g | 1 => some .sp | 2 => some .nb | _ => none
def SpaceK.code : SpaceK → Nat
  | .g => 0 | .sp => 1 | .nb => 2

/-- Format codes of Table 9-1; 0xE and 0xF are reserved here. -/
def fmtOf : Nat → Option Fmt
  | 0 => some .int8 | 1 => some .uint8 | 2 => some .int16 | 3 => some .uint16 | 4 => some .int32
  | 5 => some .uint32 | 6 => some .fp32 | 7 => some .fp16 | 8 => some .bf16 | 9 => some .e4m3
  | 10 => some .e5m2 | 11 => some .e2m1 | 12 => some .lns6 | 13 => some .e8m0 | _ => none
def Fmt.code : Fmt → Nat
  | .int8 => 0 | .uint8 => 1 | .int16 => 2 | .uint16 => 3 | .int32 => 4 | .uint32 => 5 | .fp32 => 6
  | .fp16 => 7 | .bf16 => 8 | .e4m3 => 9 | .e5m2 => 10 | .e2m1 => 11 | .lns6 => 12 | .e8m0 => 13
  | .stored => 15

def rndOf : Nat → Option RndK
  | 0 => some .rne | 1 => some .rz | 2 => some .rdn | 3 => some .rup | 4 => some .rna | 5 => some .sr
  | 6 => some .dyn | _ => none
def RndK.code : RndK → Nat
  | .rne => 0 | .rz => 1 | .rdn => 2 | .rup => 3 | .rna => 4 | .sr => 5 | .dyn => 6

def condOf : Nat → CondK
  | 0 => .eq | 1 => .ne | 2 => .lt | 3 => .le | 4 => .gt | 5 => .ge | 6 => .un | _ => .ord
def CondK.code : CondK → Nat
  | .eq => 0 | .ne => 1 | .lt => 2 | .le => 3 | .gt => 4 | .ge => 5 | .un => 6 | .ord => 7

def redOf : Nat → Option RedK
  | 0 => some .add | 1 => some .max | 2 => some .min | _ => none
def RedK.code : RedK → Nat
  | .add => 0 | .max => 1 | .min => 2

def constOf : Nat → ConstK
  | 0 => .zero | 1 => .one | 2 => .rowi | 3 => .coli | 4 => .flati | 5 => .pinf | 6 => .ninf | _ => .maxf
def ConstK.code : ConstK → Nat
  | .zero => 0 | .one => 1 | .rowi => 2 | .coli => 3 | .flati => 4 | .pinf => 5 | .ninf => 6 | .maxf => 7

/-- A source port number (Table 13-2). -/
def srcOf (n : Nat) : Option VSrc :=
  if n < 64 then some (.v (BitVec.ofNat 6 n))
  else if n < 68 then some (.s (BitVec.ofNat 2 (n - 64)))
  else if n < 72 then some (.va (BitVec.ofNat 2 (n - 68)))
  else if n < 76 then some (.vb (BitVec.ofNat 2 (n - 72)))
  else if n < 80 then none
  else if n < 88 then some (.const (constOf (n - 80)))
  else if n < 96 then none
  else if n < 127 then some (.x (BitVec.ofNat 5 (n - 95)))
  else if n = 127 then some .none
  else none
def VSrc.code : VSrc → Nat
  | .v n => n.toNat | .s n => 64 + n.toNat | .va n => 68 + n.toNat | .vb n => 72 + n.toNat
  | .const k => 80 + k.code | .x n => 95 + n.toNat | .none => 127

/-- A destination port number (Table 13-2). -/
def dstOf (n : Nat) : Option VDst :=
  if n < 64 then some (.v (BitVec.ofNat 6 n))
  else if n < 68 then some (.s (BitVec.ofNat 2 (n - 64)))
  else if n = 127 then some .none
  else none
def VDst.code : VDst → Nat
  | .v n => n.toNat | .s n => 64 + n.toNat | .none => 127

/-- Fields of an SC syllable (R253); `low` is bits [29:0], imm30 or xc and func. -/
structure ScF where
  op : Nat
  xd : Nat
  xa : Nat
  xb : Nat
  low : Nat
deriving DecidableEq, Repr

/-- Fields of an MC syllable (R254). -/
structure McF where
  op : Nat
  xd : Nat
  xbase : Nat
  xpol : Nat
  ord : Nat
  scope : Nat
  space : Nat
  disp : Nat
deriving DecidableEq, Repr

/-- Fields of a VC syllable (R255). -/
structure VcF where
  op : Nat
  d : Nat
  a : Nat
  b : Nat
  c : Nat
  p : Nat
  fmt : Nat
  rnd : Nat
  func : Nat
deriving DecidableEq, Repr

/-- Fields of an engine word (R261). -/
structure EwF where
  op : Nat
  ord : Nat
  scope : Nat
  reg : Nat
  step : Nat
  rep : Nat
deriving DecidableEq, Repr

/-- Fields of a flue instruction (R262). -/
structure FlF where
  op : Nat
  d : Nat
  a : Nat
  b : Nat
  c : Nat
  md : Nat
deriving DecidableEq, Repr

def ScF.unpack (w : Nat) : ScF := ⟨fldN w 48 8, fldN w 42 6, fldN w 36 6, fldN w 30 6, fldN w 0 30⟩
def ScF.pack (f : ScF) : Nat := f.op * 2 ^ 48 + f.xd * 2 ^ 42 + f.xa * 2 ^ 36 + f.xb * 2 ^ 30 + f.low
def McF.unpack (w : Nat) : McF :=
  ⟨fldN w 48 8, fldN w 42 6, fldN w 36 6, fldN w 30 6, fldN w 28 2, fldN w 25 3, fldN w 23 2, fldN w 0 23⟩
def McF.pack (f : McF) : Nat :=
  f.op * 2 ^ 48 + f.xd * 2 ^ 42 + f.xbase * 2 ^ 36 + f.xpol * 2 ^ 30 + f.ord * 2 ^ 28 + f.scope * 2 ^ 25
    + f.space * 2 ^ 23 + f.disp
def VcF.unpack (w : Nat) : VcF :=
  ⟨fldN w 48 8, fldN w 41 7, fldN w 34 7, fldN w 27 7, fldN w 20 7, fldN w 16 4, fldN w 12 4, fldN w 9 3, fldN w 0 9⟩
def VcF.pack (f : VcF) : Nat :=
  f.op * 2 ^ 48 + f.d * 2 ^ 41 + f.a * 2 ^ 34 + f.b * 2 ^ 27 + f.c * 2 ^ 20 + f.p * 2 ^ 16 + f.fmt * 2 ^ 12
    + f.rnd * 2 ^ 9 + f.func
def EwF.unpack (w : Nat) : EwF :=
  ⟨fldN w 42 6, fldN w 40 2, fldN w 37 3, fldN w 33 4, fldN w 16 17, fldN w 0 16⟩
def EwF.pack (f : EwF) : Nat :=
  f.op * 2 ^ 42 + f.ord * 2 ^ 40 + f.scope * 2 ^ 37 + f.reg * 2 ^ 33 + f.step * 2 ^ 16 + f.rep
def FlF.unpack (w : Nat) : FlF :=
  ⟨fldN w 27 5, fldN w 23 4, fldN w 19 4, fldN w 15 4, fldN w 11 4, fldN w 0 11⟩
def FlF.pack (f : FlF) : Nat :=
  f.op * 2 ^ 27 + f.d * 2 ^ 23 + f.a * 2 ^ 19 + f.b * 2 ^ 15 + f.c * 2 ^ 11 + f.md

/-- The same fields with another destination port. -/
def VcF.setD (f : VcF) (n : Nat) : VcF := { f with d := n }

/-- The address fields of an MC syllable are all zero. -/
abbrev noM (f : McF) : Prop :=
  f.xbase = 0 ∧ f.xpol = 0 ∧ f.ord = 0 ∧ f.scope = 0 ∧ f.space = 0 ∧ f.disp = 0

def decR3 (mk : R3 → Instr) (f : ScF) : Option Instr :=
  need (f.low = 0) do pure (mk ⟨← xr f.xd, ← xr f.xa, ← xr f.xb⟩)
def decR2 (mk : R2 → Instr) (f : ScF) : Option Instr :=
  need (f.xb = 0 ∧ f.low = 0) do pure (mk ⟨← xr f.xd, ← xr f.xa⟩)
def decI2 (mk : I2 → Instr) (f : ScF) : Option Instr :=
  need (f.xb = 0) do pure (mk ⟨← xr f.xd, ← xr f.xa, BitVec.ofNat 30 f.low⟩)
def decSh (mk : Sh → Instr) (f : ScF) : Option Instr :=
  need (f.xb = 0) do pure (mk ⟨← xr f.xd, ← xr f.xa, ← bv 6 f.low⟩)
def decM (f : McF) : Option MAddr := do
  pure ⟨← xr f.xbase, ← xr f.xpol, ← ordOf f.ord, ← scopeOf f.scope, ← spaceOf f.space, BitVec.ofNat 23 f.disp⟩
def decV (f : VcF) : Option VOp := do
  pure ⟨← fmtOf f.fmt, ← rndOf f.rnd, ← dstOf f.d, ← srcOf f.a, ← srcOf f.b, ← srcOf f.c, BitVec.ofNat 4 f.p⟩


/-- The SC opcode map (Table 13-5, R264) with the entries of R274-R302. -/
def decSC (f : ScF) : Option Instr :=
  match f.op with
  | 0x00 => need (f.xd = 0 ∧ f.xa = 0 ∧ f.xb = 0 ∧ f.low = 0) do pure .scNop
  | 0x01 => decR3 .add f
  | 0x02 => decR3 .sub f
  | 0x03 => decR3 .and f
  | 0x04 => decR3 .or f
  | 0x05 => decR3 .xor f
  | 0x06 => decR3 .andn f
  | 0x07 => decR3 .shl f
  | 0x08 => decR3 .shr f
  | 0x09 => decR3 .sra f
  | 0x0a => decR3 .rotr f
  | 0x0b => decR3 .mul f
  | 0x0c => decR3 .mulh f
  | 0x0d => decR3 .mulhu f
  | 0x0e => decR3 .div f
  | 0x0f => decR3 .divu f
  | 0x10 => decR3 .rem f
  | 0x11 => decR3 .remu f
  | 0x12 => decR3 .min f
  | 0x13 => decR3 .max f
  | 0x14 => decR3 .minu f
  | 0x15 => decR3 .maxu f
  | 0x16 => decR3 .seq f
  | 0x17 => decR3 .sne f
  | 0x18 => decR3 .slt f
  | 0x19 => decR3 .sltu f
  | 0x1a => need (f.low % 2 ^ 24 = 0) do pure (.sel ⟨← xr f.xd, ← xr f.xa, ← xr f.xb⟩ (← xr (f.low / 2 ^ 24)))
  | 0x1b => decR2 .clz f
  | 0x1c => decR2 .ctz f
  | 0x1d => decR2 .popc f
  | 0x1e => need (f.xb = 0) do need (f.low < 8192) do pure (.bfx ⟨← xr f.xd, ← xr f.xa⟩ (f.low / 4096 == 1) (BitVec.ofNat 6 (f.low / 64)) (BitVec.ofNat 6 f.low))
  | 0x1f => need (f.low < 4096) do pure (.bfi ⟨← xr f.xd, ← xr f.xa, ← xr f.xb⟩ (BitVec.ofNat 6 (f.low / 64)) (BitVec.ofNat 6 f.low))
  | 0x20 => decI2 .addi f
  | 0x21 => decI2 .andi f
  | 0x22 => decI2 .ori f
  | 0x23 => decI2 .xori f
  | 0x24 => decSh .shli f
  | 0x25 => decSh .shri f
  | 0x26 => decSh .srai f
  | 0x27 => decI2 .muli f
  | 0x28 => decI2 .slti f
  | 0x29 => decI2 .sltui f
  | 0x2a => decI2 .seqi f
  | 0x2b => need (f.xa = 0 ∧ f.xb = 0) do pure (.li (← xr f.xd) (BitVec.ofNat 30 f.low))
  | 0x2c => decI2 .lic f
  | 0x2d => need (f.xa = 0 ∧ f.xb = 0) do pure (.addpc (← xr f.xd) (BitVec.ofNat 30 f.low))
  | 0x2e => do pure (.lea ⟨← xr f.xd, ← xr f.xa, ← xr f.xb⟩ (BitVec.ofNat 3 (f.low / 2 ^ 27)) (BitVec.ofNat 27 f.low))
  | 0x30 => need (f.xd = 0 ∧ f.xa = 0 ∧ f.xb = 0) do pure (.br (BitVec.ofNat 30 f.low))
  | 0x31 => need (f.xd = 0 ∧ f.xb = 0) do pure (.brz (← xr f.xa) (BitVec.ofNat 30 f.low))
  | 0x32 => need (f.xd = 0 ∧ f.xb = 0) do pure (.brnz (← xr f.xa) (BitVec.ofNat 30 f.low))
  | 0x33 => need (f.xd = 0) do pure (.brlt (← xr f.xa) (← xr f.xb) (BitVec.ofNat 30 f.low))
  | 0x34 => need (f.xd = 0) do pure (.brge (← xr f.xa) (← xr f.xb) (BitVec.ofNat 30 f.low))
  | 0x35 => need (f.xd = 0) do pure (.brltu (← xr f.xa) (← xr f.xb) (BitVec.ofNat 30 f.low))
  | 0x36 => need (f.xd = 0) do pure (.brgeu (← xr f.xa) (← xr f.xb) (BitVec.ofNat 30 f.low))
  | 0x37 => need (f.xd = 0 ∧ f.xb = 0 ∧ f.low = 0) do pure (.jr (← xr f.xa))
  | 0x38 => need (f.xd = 0 ∧ f.xa = 0 ∧ f.xb = 0) do pure (.call (BitVec.ofNat 30 f.low))
  | 0x39 => decI2 .brlc f
  | 0x3a => need (f.xd = 0 ∧ f.xb = 0) do pure (.loop (← xr f.xa) (BitVec.ofNat 30 f.low))
  | 0x3b => need (f.xd = 0 ∧ f.xb = 0) do need (f.low < 2 ^ 19 ∧ f.low / 2 ^ 10 % 64 = 0) do pure (.loopm (← xr f.xa) (BitVec.ofNat 3 (f.low / 2 ^ 16)) (BitVec.ofNat 10 f.low))
  | 0x3c => need (f.xd = 0 ∧ f.xa = 0 ∧ f.xb = 0 ∧ f.low = 0) do pure .lexit
  | 0x40 => need (f.xb = 0 ∧ f.low = 0) do pure (.qpush (← bv 3 f.xd) (← xr f.xa))
  | 0x41 => need (f.xb = 0 ∧ f.low = 0) do pure (.qpop (← xr f.xd) (← bv 3 f.xa))
  | 0x42 => need (f.xb = 0 ∧ f.low = 0) do pure (.qpeek (← xr f.xd) (← bv 3 f.xa))
  | 0x43 => need (f.xb = 0 ∧ f.low < 32) do pure (.fset (← osOf f.low) (BitVec.ofNat 6 f.xd) (← xr f.xa))
  | 0x44 => need (f.low < 32) do pure (.finc (← osOf f.low) (BitVec.ofNat 6 f.xd) (← xr f.xa) (← xr f.xb))
  | 0x45 => need (f.low = 0) do pure (.fwait (← xr f.xd) (BitVec.ofNat 6 f.xa) (← xr f.xb))
  | 0x46 => need (f.xd = 0 ∧ f.xa = 0 ∧ f.xb = 0 ∧ f.low = 0) do pure .rdv
  | 0x47 => need (f.xd = 0 ∧ f.xa = 0 ∧ f.xb = 0) do pure (.safept (← bv 16 f.low))
  | 0x48 => need (f.xb = 0 ∧ f.low = 0) do pure (.gbar (← xr f.xd) (← bv 2 f.xa))
  | 0x49 => need (f.low % 2 ^ 24 < 16) do pure (.gred (BitVec.ofNat 4 f.low) (← xr f.xd) (← bv 2 f.xa) (← xr f.xb) (← xr (f.low / 2 ^ 24)))
  | 0x4a => need (f.xb = 0 ∧ f.low = 0) do pure (.gstep (← xr f.xd) (← bv 2 f.xa))
  | 0x4b => decR3 .launch f
  | 0x4c => need (f.xa = 0 ∧ f.xb = 0 ∧ f.low = 0) do pure (.mwait (← xr f.xd))
  | 0x50 => need (f.low = 0) do pure (.fork (← xr f.xd) (← bv 2 f.xa) (← xr f.xb))
  | 0x51 => decR2 .sreward f
  | 0x52 => need (f.xb = 0 ∧ f.low = 0) do pure (.sgwait (← xr f.xd) (← bv 2 f.xa))
  | 0x53 => need (f.low = 0) do pure (.sgcancel (← xr f.xd) (← bv 2 f.xa) (← xr f.xb))
  | 0x54 => need (f.xb = 0) do pure (.sginfo (← xr f.xd) (← bv 2 f.xa) (← bv 2 f.low))
  | 0x55 => decR2 .tscore f
  | 0x56 => need (f.xd = 0 ∧ f.xa = 0 ∧ f.xb = 0 ∧ f.low = 0) do pure .tyield
  | 0x57 => decR2 .tgrow f
  | 0x58 => need (f.xa = 0 ∧ f.xb = 0) do pure (.tinfo (← xr f.xd) (← bv 2 f.low))
  | 0x60 => need (f.xa = 0 ∧ f.xb = 0 ∧ f.low = 0) do pure (.klease (← xr f.xd))
  | 0x61 => need (f.xa = 0 ∧ f.xb = 0 ∧ f.low = 0) do pure (.krel (← xr f.xd))
  | 0x62 => decR2 .kstart f
  | 0x63 => need (f.low = 0) do pure (.cstart ⟨← xr f.xd, ← xr f.xa⟩ (← bv 1 f.xb))
  | 0x64 => need (f.xb = 0 ∧ f.low = 0) do pure (.estop (← xr f.xd) (← bv 2 f.xa))
  | 0x65 => need (f.xb = 0 ∧ f.low = 0) do pure (.estat (← xr f.xd) (← bv 2 f.xa))
  | 0x66 => need (f.low = 0) do pure (.flueld ⟨← xr f.xd, ← xr f.xa⟩ (← bv 3 f.xb))
  | 0x70 => need (f.xa = 0 ∧ f.xb = 0) do pure (.rds (← xr f.xd) (← bv 12 f.low))
  | 0x71 => need (f.xd = 0 ∧ f.xb = 0) do pure (.wrs (← bv 12 f.low) (← xr f.xa))
  | 0x72 => need (f.xd = 0 ∧ f.xa = 0 ∧ f.xb = 0) do pure (.trap (← bv 8 f.low))
  | 0x73 => need (f.xd = 0 ∧ f.xa = 0 ∧ f.xb = 0 ∧ f.low = 0) do pure .resume
  | 0x74 => need (f.xd = 0 ∧ f.xa = 0 ∧ f.xb = 0 ∧ f.low = 0) do pure .halt
  | 0x75 => need (f.xa = 0 ∧ f.xb = 0) do pure (.icinv (← xr f.xd) (← scopeOf f.low))
  | 0x76 => decR3 .iclock f
  | 0x77 => need (f.xd = 0 ∧ f.low = 0) do pure (.icunlk (← xr f.xa) (← xr f.xb))
  | 0x78 => need (f.xd = 0 ∧ f.xa = 0 ∧ f.xb = 0) do pure (.split (← bv 5 f.low))
  | 0x79 => need (f.xd = 0 ∧ f.xa = 0 ∧ f.xb = 0 ∧ f.low = 0) do pure .genbump
  | 0x7a => need (f.xd = 0 ∧ f.xa = 0 ∧ f.xb = 0) do pure (.bkpt (← bv 8 f.low))
  | _ => none

/-- The fields of an instruction of this class, from the same tables. -/
def encSC (i : Instr) : Option ScF :=
  match i with
  | .scNop => some ⟨0x00, 0, 0, 0, 0⟩
  | .add o => some ⟨0x01, o.xd.toNat, o.xa.toNat, o.xb.toNat, 0⟩
  | .sub o => some ⟨0x02, o.xd.toNat, o.xa.toNat, o.xb.toNat, 0⟩
  | .and o => some ⟨0x03, o.xd.toNat, o.xa.toNat, o.xb.toNat, 0⟩
  | .or o => some ⟨0x04, o.xd.toNat, o.xa.toNat, o.xb.toNat, 0⟩
  | .xor o => some ⟨0x05, o.xd.toNat, o.xa.toNat, o.xb.toNat, 0⟩
  | .andn o => some ⟨0x06, o.xd.toNat, o.xa.toNat, o.xb.toNat, 0⟩
  | .shl o => some ⟨0x07, o.xd.toNat, o.xa.toNat, o.xb.toNat, 0⟩
  | .shr o => some ⟨0x08, o.xd.toNat, o.xa.toNat, o.xb.toNat, 0⟩
  | .sra o => some ⟨0x09, o.xd.toNat, o.xa.toNat, o.xb.toNat, 0⟩
  | .rotr o => some ⟨0x0a, o.xd.toNat, o.xa.toNat, o.xb.toNat, 0⟩
  | .mul o => some ⟨0x0b, o.xd.toNat, o.xa.toNat, o.xb.toNat, 0⟩
  | .mulh o => some ⟨0x0c, o.xd.toNat, o.xa.toNat, o.xb.toNat, 0⟩
  | .mulhu o => some ⟨0x0d, o.xd.toNat, o.xa.toNat, o.xb.toNat, 0⟩
  | .div o => some ⟨0x0e, o.xd.toNat, o.xa.toNat, o.xb.toNat, 0⟩
  | .divu o => some ⟨0x0f, o.xd.toNat, o.xa.toNat, o.xb.toNat, 0⟩
  | .rem o => some ⟨0x10, o.xd.toNat, o.xa.toNat, o.xb.toNat, 0⟩
  | .remu o => some ⟨0x11, o.xd.toNat, o.xa.toNat, o.xb.toNat, 0⟩
  | .min o => some ⟨0x12, o.xd.toNat, o.xa.toNat, o.xb.toNat, 0⟩
  | .max o => some ⟨0x13, o.xd.toNat, o.xa.toNat, o.xb.toNat, 0⟩
  | .minu o => some ⟨0x14, o.xd.toNat, o.xa.toNat, o.xb.toNat, 0⟩
  | .maxu o => some ⟨0x15, o.xd.toNat, o.xa.toNat, o.xb.toNat, 0⟩
  | .seq o => some ⟨0x16, o.xd.toNat, o.xa.toNat, o.xb.toNat, 0⟩
  | .sne o => some ⟨0x17, o.xd.toNat, o.xa.toNat, o.xb.toNat, 0⟩
  | .slt o => some ⟨0x18, o.xd.toNat, o.xa.toNat, o.xb.toNat, 0⟩
  | .sltu o => some ⟨0x19, o.xd.toNat, o.xa.toNat, o.xb.toNat, 0⟩
  | .sel o xc => some ⟨0x1a, o.xd.toNat, o.xa.toNat, o.xb.toNat, xc.toNat * 2 ^ 24⟩
  | .clz o => some ⟨0x1b, o.xd.toNat, o.xa.toNat, 0, 0⟩
  | .ctz o => some ⟨0x1c, o.xd.toNat, o.xa.toNat, 0, 0⟩
  | .popc o => some ⟨0x1d, o.xd.toNat, o.xa.toNat, 0, 0⟩
  | .bfx o sx pos len1 => some ⟨0x1e, o.xd.toNat, o.xa.toNat, 0, bit sx * 4096 + pos.toNat * 64 + len1.toNat⟩
  | .bfi o pos len1 => some ⟨0x1f, o.xd.toNat, o.xa.toNat, o.xb.toNat, pos.toNat * 64 + len1.toNat⟩
  | .addi o => some ⟨0x20, o.xd.toNat, o.xa.toNat, 0, o.imm.toNat⟩
  | .andi o => some ⟨0x21, o.xd.toNat, o.xa.toNat, 0, o.imm.toNat⟩
  | .ori o => some ⟨0x22, o.xd.toNat, o.xa.toNat, 0, o.imm.toNat⟩
  | .xori o => some ⟨0x23, o.xd.toNat, o.xa.toNat, 0, o.imm.toNat⟩
  | .shli o => some ⟨0x24, o.xd.toNat, o.xa.toNat, 0, o.n.toNat⟩
  | .shri o => some ⟨0x25, o.xd.toNat, o.xa.toNat, 0, o.n.toNat⟩
  | .srai o => some ⟨0x26, o.xd.toNat, o.xa.toNat, 0, o.n.toNat⟩
  | .muli o => some ⟨0x27, o.xd.toNat, o.xa.toNat, 0, o.imm.toNat⟩
  | .slti o => some ⟨0x28, o.xd.toNat, o.xa.toNat, 0, o.imm.toNat⟩
  | .sltui o => some ⟨0x29, o.xd.toNat, o.xa.toNat, 0, o.imm.toNat⟩
  | .seqi o => some ⟨0x2a, o.xd.toNat, o.xa.toNat, 0, o.imm.toNat⟩
  | .li xd imm => some ⟨0x2b, xd.toNat, 0, 0, imm.toNat⟩
  | .lic o => some ⟨0x2c, o.xd.toNat, o.xa.toNat, 0, o.imm.toNat⟩
  | .addpc xd imm => some ⟨0x2d, xd.toNat, 0, 0, imm.toNat⟩
  | .lea o s d => some ⟨0x2e, o.xd.toNat, o.xa.toNat, o.xb.toNat, s.toNat * 2 ^ 27 + d.toNat⟩
  | .br off => some ⟨0x30, 0, 0, 0, off.toNat⟩
  | .brz xa off => some ⟨0x31, 0, xa.toNat, 0, off.toNat⟩
  | .brnz xa off => some ⟨0x32, 0, xa.toNat, 0, off.toNat⟩
  | .brlt xa xb off => some ⟨0x33, 0, xa.toNat, xb.toNat, off.toNat⟩
  | .brge xa xb off => some ⟨0x34, 0, xa.toNat, xb.toNat, off.toNat⟩
  | .brltu xa xb off => some ⟨0x35, 0, xa.toNat, xb.toNat, off.toNat⟩
  | .brgeu xa xb off => some ⟨0x36, 0, xa.toNat, xb.toNat, off.toNat⟩
  | .jr xa => some ⟨0x37, 0, xa.toNat, 0, 0⟩
  | .call off => some ⟨0x38, 0, 0, 0, off.toNat⟩
  | .brlc o => some ⟨0x39, o.xd.toNat, o.xa.toNat, 0, o.imm.toNat⟩
  | .loop xa len => some ⟨0x3a, 0, xa.toNat, 0, len.toNat⟩
  | .loopm xa ns1 ii1 => some ⟨0x3b, 0, xa.toNat, 0, ns1.toNat * 2 ^ 16 + ii1.toNat⟩
  | .lexit => some ⟨0x3c, 0, 0, 0, 0⟩
  | .qpush q xa => some ⟨0x40, q.toNat, xa.toNat, 0, 0⟩
  | .qpop xd q => some ⟨0x41, xd.toNat, q.toNat, 0, 0⟩
  | .qpeek xd q => some ⟨0x42, xd.toNat, q.toNat, 0, 0⟩
  | .fset os f' xa => some ⟨0x43, f'.toNat, xa.toNat, 0, os.code⟩
  | .finc os f' xa xb => some ⟨0x44, f'.toNat, xa.toNat, xb.toNat, os.code⟩
  | .fwait xd f' xb => some ⟨0x45, xd.toNat, f'.toNat, xb.toNat, 0⟩
  | .rdv => some ⟨0x46, 0, 0, 0, 0⟩
  | .safept idx => some ⟨0x47, 0, 0, 0, idx.toNat⟩
  | .gbar xd g => some ⟨0x48, xd.toNat, g.toNat, 0, 0⟩
  | .gred op xd g xb xc => some ⟨0x49, xd.toNat, g.toNat, xb.toNat, xc.toNat * 2 ^ 24 + op.toNat⟩
  | .gstep xd g => some ⟨0x4a, xd.toNat, g.toNat, 0, 0⟩
  | .launch o => some ⟨0x4b, o.xd.toNat, o.xa.toNat, o.xb.toNat, 0⟩
  | .mwait xd => some ⟨0x4c, xd.toNat, 0, 0, 0⟩
  | .fork xd g xb => some ⟨0x50, xd.toNat, g.toNat, xb.toNat, 0⟩
  | .sreward o => some ⟨0x51, o.xd.toNat, o.xa.toNat, 0, 0⟩
  | .sgwait xd g => some ⟨0x52, xd.toNat, g.toNat, 0, 0⟩
  | .sgcancel xd g xb => some ⟨0x53, xd.toNat, g.toNat, xb.toNat, 0⟩
  | .sginfo xd g sel => some ⟨0x54, xd.toNat, g.toNat, 0, sel.toNat⟩
  | .tscore o => some ⟨0x55, o.xd.toNat, o.xa.toNat, 0, 0⟩
  | .tyield => some ⟨0x56, 0, 0, 0, 0⟩
  | .tgrow o => some ⟨0x57, o.xd.toNat, o.xa.toNat, 0, 0⟩
  | .tinfo xd sel => some ⟨0x58, xd.toNat, 0, 0, sel.toNat⟩
  | .klease xd => some ⟨0x60, xd.toNat, 0, 0, 0⟩
  | .krel xd => some ⟨0x61, xd.toNat, 0, 0, 0⟩
  | .kstart o => some ⟨0x62, o.xd.toNat, o.xa.toNat, 0, 0⟩
  | .cstart o e => some ⟨0x63, o.xd.toNat, o.xa.toNat, e.toNat, 0⟩
  | .estop xd sel => some ⟨0x64, xd.toNat, sel.toNat, 0, 0⟩
  | .estat xd sel => some ⟨0x65, xd.toNat, sel.toNat, 0, 0⟩
  | .flueld o slot => some ⟨0x66, o.xd.toNat, o.xa.toNat, slot.toNat, 0⟩
  | .rds xd n => some ⟨0x70, xd.toNat, 0, 0, n.toNat⟩
  | .wrs n xa => some ⟨0x71, 0, xa.toNat, 0, n.toNat⟩
  | .trap imm => some ⟨0x72, 0, 0, 0, imm.toNat⟩
  | .resume => some ⟨0x73, 0, 0, 0, 0⟩
  | .halt => some ⟨0x74, 0, 0, 0, 0⟩
  | .icinv xd scope => some ⟨0x75, xd.toNat, 0, 0, scope.code⟩
  | .iclock o => some ⟨0x76, o.xd.toNat, o.xa.toNat, o.xb.toNat, 0⟩
  | .icunlk xa xb => some ⟨0x77, 0, xa.toNat, xb.toNat, 0⟩
  | .split s => some ⟨0x78, 0, 0, 0, s.toNat⟩
  | .genbump => some ⟨0x79, 0, 0, 0, 0⟩
  | .bkpt imm => some ⟨0x7a, 0, 0, 0, imm.toNat⟩
  | _ => none

/-- The MC opcode map (Table 13-6, R265) with the entries of R303-R326. -/
def decMC (f : McF) : Option Instr :=
  match f.op with
  | 0x00 => need (f.xd = 0 ∧ noM f) do pure .mcNop
  | 0x01 => do pure (.ldb ⟨← xr f.xd, ← decM f⟩)
  | 0x02 => do pure (.ldbu ⟨← xr f.xd, ← decM f⟩)
  | 0x03 => do pure (.ldh ⟨← xr f.xd, ← decM f⟩)
  | 0x04 => do pure (.ldhu ⟨← xr f.xd, ← decM f⟩)
  | 0x05 => do pure (.ldw ⟨← xr f.xd, ← decM f⟩)
  | 0x06 => do pure (.ldwu ⟨← xr f.xd, ← decM f⟩)
  | 0x07 => do pure (.ldd ⟨← xr f.xd, ← decM f⟩)
  | 0x08 => do pure (.stb ⟨← xr f.xd, ← decM f⟩)
  | 0x09 => do pure (.sth ⟨← xr f.xd, ← decM f⟩)
  | 0x0a => do pure (.stw ⟨← xr f.xd, ← decM f⟩)
  | 0x0b => do pure (.std ⟨← xr f.xd, ← decM f⟩)
  | 0x0c => do pure (.ldq (← bv 3 f.xd) (← decM f))
  | 0x0d => need (f.xd < 2 ∧ f.ord = 0 ∧ f.scope = 0 ∧ f.space = 0) do pure (.pref (f.xd == 1) (← xr f.xbase) (← xr f.xpol) (← bv 23 f.disp))
  | 0x10 => do pure (.ldv (← bv 6 f.xd) (← decM f))
  | 0x11 => do pure (.stv (← bv 6 f.xd) (← decM f))
  | 0x12 => do pure (.ldp (← bv 4 f.xd) (← decM f))
  | 0x13 => do pure (.stp (← bv 4 f.xd) (← decM f))
  | 0x14 => need (f.xd < 64 ∧ f.xd % 32 < 4) do pure (.bind (f.xd / 32 == 1) (BitVec.ofNat 2 f.xd) (← decM f))
  | 0x15 => need (noM f) do pure (.unbind (← bv 2 f.xd))
  | 0x16 => need (f.xpol = 0 ∧ f.ord = 0 ∧ f.scope = 0 ∧ f.space = 0 ∧ f.disp = 0) do pure (.spstat (← xr f.xd) (← bv 2 f.xbase))
  | 0x20 => do pure (.aadd ⟨← xr f.xd, ← decM f⟩)
  | 0x21 => do pure (.aand ⟨← xr f.xd, ← decM f⟩)
  | 0x22 => do pure (.aor ⟨← xr f.xd, ← decM f⟩)
  | 0x23 => do pure (.axor ⟨← xr f.xd, ← decM f⟩)
  | 0x24 => do pure (.amin ⟨← xr f.xd, ← decM f⟩)
  | 0x25 => do pure (.amax ⟨← xr f.xd, ← decM f⟩)
  | 0x26 => do pure (.aminu ⟨← xr f.xd, ← decM f⟩)
  | 0x27 => do pure (.amaxu ⟨← xr f.xd, ← decM f⟩)
  | 0x28 => do pure (.aswap ⟨← xr f.xd, ← decM f⟩)
  | 0x29 => do pure (.acas ⟨← xr f.xd, ← decM f⟩)
  | 0x2a => do pure (.afadd ⟨← xr f.xd, ← decM f⟩)
  | 0x2b => do pure (.afmax ⟨← xr f.xd, ← decM f⟩)
  | 0x30 => need (f.xd = 0 ∧ f.xbase = 0 ∧ f.xpol = 0 ∧ f.space = 0 ∧ f.disp = 0) do pure (.fence ⟨← ordOf f.ord, ← scopeOf f.scope⟩)
  | 0x31 => need (f.xd = 0 ∧ f.xbase = 0 ∧ f.xpol = 0 ∧ f.ord = 3 ∧ f.space = 0 ∧ f.disp = 0) do pure (.syncg (← scopeOf f.scope))
  | 0x32 => need (f.xd = 0 ∧ noM f) do pure .rcfence
  | 0x33 => need (f.xd = 0 ∧ f.ord = 0 ∧ f.space = 0) do pure (.cinv (← scopeOf f.scope) (← xr f.xbase) (← xr f.xpol) (← bv 23 f.disp))
  | _ => none

/-- The fields of an instruction of this class, from the same tables. -/
def encMC (i : Instr) : Option McF :=
  match i with
  | .mcNop => some ⟨0x00, 0, 0, 0, 0, 0, 0, 0⟩
  | .ldb o => some ⟨0x01, o.xd.toNat, o.m.xbase.toNat, o.m.xpol.toNat, o.m.ord.code, o.m.scope.code, o.m.space.code, o.m.disp.toNat⟩
  | .ldbu o => some ⟨0x02, o.xd.toNat, o.m.xbase.toNat, o.m.xpol.toNat, o.m.ord.code, o.m.scope.code, o.m.space.code, o.m.disp.toNat⟩
  | .ldh o => some ⟨0x03, o.xd.toNat, o.m.xbase.toNat, o.m.xpol.toNat, o.m.ord.code, o.m.scope.code, o.m.space.code, o.m.disp.toNat⟩
  | .ldhu o => some ⟨0x04, o.xd.toNat, o.m.xbase.toNat, o.m.xpol.toNat, o.m.ord.code, o.m.scope.code, o.m.space.code, o.m.disp.toNat⟩
  | .ldw o => some ⟨0x05, o.xd.toNat, o.m.xbase.toNat, o.m.xpol.toNat, o.m.ord.code, o.m.scope.code, o.m.space.code, o.m.disp.toNat⟩
  | .ldwu o => some ⟨0x06, o.xd.toNat, o.m.xbase.toNat, o.m.xpol.toNat, o.m.ord.code, o.m.scope.code, o.m.space.code, o.m.disp.toNat⟩
  | .ldd o => some ⟨0x07, o.xd.toNat, o.m.xbase.toNat, o.m.xpol.toNat, o.m.ord.code, o.m.scope.code, o.m.space.code, o.m.disp.toNat⟩
  | .stb o => some ⟨0x08, o.xs.toNat, o.m.xbase.toNat, o.m.xpol.toNat, o.m.ord.code, o.m.scope.code, o.m.space.code, o.m.disp.toNat⟩
  | .sth o => some ⟨0x09, o.xs.toNat, o.m.xbase.toNat, o.m.xpol.toNat, o.m.ord.code, o.m.scope.code, o.m.space.code, o.m.disp.toNat⟩
  | .stw o => some ⟨0x0a, o.xs.toNat, o.m.xbase.toNat, o.m.xpol.toNat, o.m.ord.code, o.m.scope.code, o.m.space.code, o.m.disp.toNat⟩
  | .std o => some ⟨0x0b, o.xs.toNat, o.m.xbase.toNat, o.m.xpol.toNat, o.m.ord.code, o.m.scope.code, o.m.space.code, o.m.disp.toNat⟩
  | .ldq q m => some ⟨0x0c, q.toNat, m.xbase.toNat, m.xpol.toNat, m.ord.code, m.scope.code, m.space.code, m.disp.toNat⟩
  | .pref l2 xbase xpol disp => some ⟨0x0d, bit l2, xbase.toNat, xpol.toNat, 0, 0, 0, disp.toNat⟩
  | .ldv v m => some ⟨0x10, v.toNat, m.xbase.toNat, m.xpol.toNat, m.ord.code, m.scope.code, m.space.code, m.disp.toNat⟩
  | .stv v m => some ⟨0x11, v.toNat, m.xbase.toNat, m.xpol.toNat, m.ord.code, m.scope.code, m.space.code, m.disp.toNat⟩
  | .ldp p m => some ⟨0x12, p.toNat, m.xbase.toNat, m.xpol.toNat, m.ord.code, m.scope.code, m.space.code, m.disp.toNat⟩
  | .stp p m => some ⟨0x13, p.toNat, m.xbase.toNat, m.xpol.toNat, m.ord.code, m.scope.code, m.space.code, m.disp.toNat⟩
  | .bind wr s m => some ⟨0x14, bit wr * 32 + s.toNat, m.xbase.toNat, m.xpol.toNat, m.ord.code, m.scope.code, m.space.code, m.disp.toNat⟩
  | .unbind s => some ⟨0x15, s.toNat, 0, 0, 0, 0, 0, 0⟩
  | .spstat xd s => some ⟨0x16, xd.toNat, s.toNat, 0, 0, 0, 0, 0⟩
  | .aadd o => some ⟨0x20, o.xd.toNat, o.m.xbase.toNat, o.m.xpol.toNat, o.m.ord.code, o.m.scope.code, o.m.space.code, o.m.disp.toNat⟩
  | .aand o => some ⟨0x21, o.xd.toNat, o.m.xbase.toNat, o.m.xpol.toNat, o.m.ord.code, o.m.scope.code, o.m.space.code, o.m.disp.toNat⟩
  | .aor o => some ⟨0x22, o.xd.toNat, o.m.xbase.toNat, o.m.xpol.toNat, o.m.ord.code, o.m.scope.code, o.m.space.code, o.m.disp.toNat⟩
  | .axor o => some ⟨0x23, o.xd.toNat, o.m.xbase.toNat, o.m.xpol.toNat, o.m.ord.code, o.m.scope.code, o.m.space.code, o.m.disp.toNat⟩
  | .amin o => some ⟨0x24, o.xd.toNat, o.m.xbase.toNat, o.m.xpol.toNat, o.m.ord.code, o.m.scope.code, o.m.space.code, o.m.disp.toNat⟩
  | .amax o => some ⟨0x25, o.xd.toNat, o.m.xbase.toNat, o.m.xpol.toNat, o.m.ord.code, o.m.scope.code, o.m.space.code, o.m.disp.toNat⟩
  | .aminu o => some ⟨0x26, o.xd.toNat, o.m.xbase.toNat, o.m.xpol.toNat, o.m.ord.code, o.m.scope.code, o.m.space.code, o.m.disp.toNat⟩
  | .amaxu o => some ⟨0x27, o.xd.toNat, o.m.xbase.toNat, o.m.xpol.toNat, o.m.ord.code, o.m.scope.code, o.m.space.code, o.m.disp.toNat⟩
  | .aswap o => some ⟨0x28, o.xd.toNat, o.m.xbase.toNat, o.m.xpol.toNat, o.m.ord.code, o.m.scope.code, o.m.space.code, o.m.disp.toNat⟩
  | .acas o => some ⟨0x29, o.xd.toNat, o.m.xbase.toNat, o.m.xpol.toNat, o.m.ord.code, o.m.scope.code, o.m.space.code, o.m.disp.toNat⟩
  | .afadd o => some ⟨0x2a, o.xd.toNat, o.m.xbase.toNat, o.m.xpol.toNat, o.m.ord.code, o.m.scope.code, o.m.space.code, o.m.disp.toNat⟩
  | .afmax o => some ⟨0x2b, o.xd.toNat, o.m.xbase.toNat, o.m.xpol.toNat, o.m.ord.code, o.m.scope.code, o.m.space.code, o.m.disp.toNat⟩
  | .fence os => some ⟨0x30, 0, 0, 0, os.ord.code, os.scope.code, 0, 0⟩
  | .syncg scope => some ⟨0x31, 0, 0, 0, 3, scope.code, 0, 0⟩
  | .rcfence => some ⟨0x32, 0, 0, 0, 0, 0, 0, 0⟩
  | .cinv scope xbase xlen disp => some ⟨0x33, 0, xbase.toNat, xlen.toNat, 0, scope.code, 0, disp.toNat⟩
  | _ => none

/-- The VC opcode map (Table 13-7, R266) with the entries of R327-R350. -/
def decVC (f : VcF) : Option Instr :=
  match f.op with
  | 0x00 => need (f.d = 0 ∧ f.a = 0 ∧ f.b = 0 ∧ f.c = 0 ∧ f.p = 0 ∧ f.fmt = 0 ∧ f.rnd = 0 ∧ f.func = 0) do pure .vnop
  | 0x01 => need (f.func = 0) do pure (.vadd (← decV f))
  | 0x02 => need (f.func = 0) do pure (.vsub (← decV f))
  | 0x03 => need (f.func = 0) do pure (.vmul (← decV f))
  | 0x04 => need (f.func = 0) do pure (.vfma (← decV f))
  | 0x05 => need (f.func = 0) do pure (.vfms (← decV f))
  | 0x06 => need (f.func = 0) do pure (.vfnma (← decV f))
  | 0x07 => need (f.func = 0) do pure (.vmin (← decV f))
  | 0x08 => need (f.func = 0) do pure (.vmax (← decV f))
  | 0x09 => need (f.func = 0) do pure (.vabs (← decV f))
  | 0x0a => need (f.func = 0) do pure (.vneg (← decV f))
  | 0x0b => need (f.func = 0) do pure (.vdiv (← decV f))
  | 0x0c => need (f.func = 0) do pure (.vsqrt (← decV f))
  | 0x0d => need (f.func = 0) do pure (.vrcp (← decV f))
  | 0x0e => need (f.func = 0) do pure (.vrsq (← decV f))
  | 0x0f => need (f.func = 0) do pure (.vexp2 (← decV f))
  | 0x10 => need (f.func = 0) do pure (.vlog2 (← decV f))
  | 0x11 => need (f.func = 0) do pure (.vtanh (← decV f))
  | 0x12 => need (f.func = 0) do pure (.vsigm (← decV f))
  | 0x13 => need (f.func = 0) do pure (.vrnd (← decV f))
  | 0x14 => need (f.func = 0) do pure (.vclass (← decV f))
  | 0x20 => need (f.func = 0) do pure (.viadd (← decV f))
  | 0x21 => need (f.func = 0) do pure (.visub (← decV f))
  | 0x22 => need (f.func = 0) do pure (.vimul24 (← decV f))
  | 0x23 => need (f.func = 0) do pure (.vimulh24 (← decV f))
  | 0x24 => need (f.func = 0) do pure (.vimul32 (← decV f))
  | 0x25 => need (f.func = 0) do pure (.vimulh32 (← decV f))
  | 0x26 => need (f.func = 0) do pure (.vimac24 (← decV f))
  | 0x27 => need (f.func = 0) do pure (.vimin (← decV f))
  | 0x28 => need (f.func = 0) do pure (.vimax (← decV f))
  | 0x29 => need (f.func = 0) do pure (.viabs (← decV f))
  | 0x2a => need (f.func = 0) do pure (.vand (← decV f))
  | 0x2b => need (f.func = 0) do pure (.vor (← decV f))
  | 0x2c => need (f.func = 0) do pure (.vxor (← decV f))
  | 0x2d => need (f.func = 0) do pure (.vshl (← decV f))
  | 0x2e => need (f.func = 0) do pure (.vshr (← decV f))
  | 0x2f => need (f.func = 0) do pure (.vsra (← decV f))
  | 0x30 => need (f.func = 0) do pure (.vrshr (← decV f))
  | 0x31 => do pure (.vsat (← decV f) (← fmtOf f.func))
  | 0x32 => need (f.func = 0) do pure (.viadds (← decV f))
  | 0x40 => need (f.func < 8) do pure (.vcmp (← bv 4 f.d) (condOf f.func) (← decV (f.setD 127)))
  | 0x41 => need (f.func = 0) do pure (.vsel (← decV f))
  | 0x42 => need (f.c = 127 ∧ f.p = 0 ∧ f.fmt = 0 ∧ f.rnd = 0 ∧ f.func = 0) do pure (.pand (← bv 4 f.d) (← bv 4 f.a) (← bv 4 f.b))
  | 0x43 => need (f.c = 127 ∧ f.p = 0 ∧ f.fmt = 0 ∧ f.rnd = 0 ∧ f.func = 0) do pure (.por (← bv 4 f.d) (← bv 4 f.a) (← bv 4 f.b))
  | 0x44 => need (f.c = 127 ∧ f.p = 0 ∧ f.fmt = 0 ∧ f.rnd = 0 ∧ f.func = 0) do pure (.pxor (← bv 4 f.d) (← bv 4 f.a) (← bv 4 f.b))
  | 0x45 => need (f.b = 127 ∧ f.c = 127 ∧ f.p = 0 ∧ f.fmt = 0 ∧ f.rnd = 0 ∧ f.func = 0) do pure (.pnot (← bv 4 f.d) (← bv 4 f.a))
  | 0x50 => do pure (.vcvt (← decV f) (← fmtOf f.func))
  | 0x51 => do pure (.vpack (← decV f) (← fmtOf f.func))
  | 0x52 => need (f.func < 32) do pure (.vunpk (← decV f) (f.func / 16 == 1) (← fmtOf (f.func % 16)))
  | 0x53 => do pure (.vqmx (← decV f) (← fmtOf f.func))
  | 0x54 => do pure (.vdqmx (← decV f) (← fmtOf f.func))
  | 0x60 => need (f.func = 0) do pure (.vmov (← decV f))
  | 0x61 => need (f.func % 256 < 64) do pure (.vbrd (← decV f) (f.func / 256 == 1) (BitVec.ofNat 6 f.func))
  | 0x62 => do pure (.vredr (← decV f) (← redOf f.func))
  | 0x63 => do pure (.vredc (← decV f) (← redOf f.func))
  | 0x64 => need (f.func = 0) do pure (.vtrn (← decV f))
  | 0x65 => do pure (.vrotc (← decV f) (← bv 9 f.func))
  | 0x66 => do pure (.vshc (← decV f) (← bv 9 f.func))
  | 0x67 => need (f.func = 0) do pure (.vgath (← decV f))
  | 0x68 => need (f.d = 127 ∧ f.b = 127 ∧ f.c = 127 ∧ f.p = 0 ∧ f.fmt = 0 ∧ f.rnd = 0 ∧ f.func = 0 ∧ 96 ≤ f.a ∧ f.a ≤ 126) do pure (.vsetsh (BitVec.ofNat 5 (f.a - 95)))
  | 0x69 => need (f.func = 0) do pure (.viota (← decV f))
  | _ => none

/-- The fields of an instruction of this class, from the same tables. -/
def encVC (i : Instr) : Option VcF :=
  match i with
  | .vnop => some ⟨0x00, 0, 0, 0, 0, 0, 0, 0, 0⟩
  | .vadd o => some ⟨0x01, o.d.code, o.a.code, o.b.code, o.c.code, o.p.toNat, o.fmt.code, o.rnd.code, 0⟩
  | .vsub o => some ⟨0x02, o.d.code, o.a.code, o.b.code, o.c.code, o.p.toNat, o.fmt.code, o.rnd.code, 0⟩
  | .vmul o => some ⟨0x03, o.d.code, o.a.code, o.b.code, o.c.code, o.p.toNat, o.fmt.code, o.rnd.code, 0⟩
  | .vfma o => some ⟨0x04, o.d.code, o.a.code, o.b.code, o.c.code, o.p.toNat, o.fmt.code, o.rnd.code, 0⟩
  | .vfms o => some ⟨0x05, o.d.code, o.a.code, o.b.code, o.c.code, o.p.toNat, o.fmt.code, o.rnd.code, 0⟩
  | .vfnma o => some ⟨0x06, o.d.code, o.a.code, o.b.code, o.c.code, o.p.toNat, o.fmt.code, o.rnd.code, 0⟩
  | .vmin o => some ⟨0x07, o.d.code, o.a.code, o.b.code, o.c.code, o.p.toNat, o.fmt.code, o.rnd.code, 0⟩
  | .vmax o => some ⟨0x08, o.d.code, o.a.code, o.b.code, o.c.code, o.p.toNat, o.fmt.code, o.rnd.code, 0⟩
  | .vabs o => some ⟨0x09, o.d.code, o.a.code, o.b.code, o.c.code, o.p.toNat, o.fmt.code, o.rnd.code, 0⟩
  | .vneg o => some ⟨0x0a, o.d.code, o.a.code, o.b.code, o.c.code, o.p.toNat, o.fmt.code, o.rnd.code, 0⟩
  | .vdiv o => some ⟨0x0b, o.d.code, o.a.code, o.b.code, o.c.code, o.p.toNat, o.fmt.code, o.rnd.code, 0⟩
  | .vsqrt o => some ⟨0x0c, o.d.code, o.a.code, o.b.code, o.c.code, o.p.toNat, o.fmt.code, o.rnd.code, 0⟩
  | .vrcp o => some ⟨0x0d, o.d.code, o.a.code, o.b.code, o.c.code, o.p.toNat, o.fmt.code, o.rnd.code, 0⟩
  | .vrsq o => some ⟨0x0e, o.d.code, o.a.code, o.b.code, o.c.code, o.p.toNat, o.fmt.code, o.rnd.code, 0⟩
  | .vexp2 o => some ⟨0x0f, o.d.code, o.a.code, o.b.code, o.c.code, o.p.toNat, o.fmt.code, o.rnd.code, 0⟩
  | .vlog2 o => some ⟨0x10, o.d.code, o.a.code, o.b.code, o.c.code, o.p.toNat, o.fmt.code, o.rnd.code, 0⟩
  | .vtanh o => some ⟨0x11, o.d.code, o.a.code, o.b.code, o.c.code, o.p.toNat, o.fmt.code, o.rnd.code, 0⟩
  | .vsigm o => some ⟨0x12, o.d.code, o.a.code, o.b.code, o.c.code, o.p.toNat, o.fmt.code, o.rnd.code, 0⟩
  | .vrnd o => some ⟨0x13, o.d.code, o.a.code, o.b.code, o.c.code, o.p.toNat, o.fmt.code, o.rnd.code, 0⟩
  | .vclass o => some ⟨0x14, o.d.code, o.a.code, o.b.code, o.c.code, o.p.toNat, o.fmt.code, o.rnd.code, 0⟩
  | .viadd o => some ⟨0x20, o.d.code, o.a.code, o.b.code, o.c.code, o.p.toNat, o.fmt.code, o.rnd.code, 0⟩
  | .visub o => some ⟨0x21, o.d.code, o.a.code, o.b.code, o.c.code, o.p.toNat, o.fmt.code, o.rnd.code, 0⟩
  | .vimul24 o => some ⟨0x22, o.d.code, o.a.code, o.b.code, o.c.code, o.p.toNat, o.fmt.code, o.rnd.code, 0⟩
  | .vimulh24 o => some ⟨0x23, o.d.code, o.a.code, o.b.code, o.c.code, o.p.toNat, o.fmt.code, o.rnd.code, 0⟩
  | .vimul32 o => some ⟨0x24, o.d.code, o.a.code, o.b.code, o.c.code, o.p.toNat, o.fmt.code, o.rnd.code, 0⟩
  | .vimulh32 o => some ⟨0x25, o.d.code, o.a.code, o.b.code, o.c.code, o.p.toNat, o.fmt.code, o.rnd.code, 0⟩
  | .vimac24 o => some ⟨0x26, o.d.code, o.a.code, o.b.code, o.c.code, o.p.toNat, o.fmt.code, o.rnd.code, 0⟩
  | .vimin o => some ⟨0x27, o.d.code, o.a.code, o.b.code, o.c.code, o.p.toNat, o.fmt.code, o.rnd.code, 0⟩
  | .vimax o => some ⟨0x28, o.d.code, o.a.code, o.b.code, o.c.code, o.p.toNat, o.fmt.code, o.rnd.code, 0⟩
  | .viabs o => some ⟨0x29, o.d.code, o.a.code, o.b.code, o.c.code, o.p.toNat, o.fmt.code, o.rnd.code, 0⟩
  | .vand o => some ⟨0x2a, o.d.code, o.a.code, o.b.code, o.c.code, o.p.toNat, o.fmt.code, o.rnd.code, 0⟩
  | .vor o => some ⟨0x2b, o.d.code, o.a.code, o.b.code, o.c.code, o.p.toNat, o.fmt.code, o.rnd.code, 0⟩
  | .vxor o => some ⟨0x2c, o.d.code, o.a.code, o.b.code, o.c.code, o.p.toNat, o.fmt.code, o.rnd.code, 0⟩
  | .vshl o => some ⟨0x2d, o.d.code, o.a.code, o.b.code, o.c.code, o.p.toNat, o.fmt.code, o.rnd.code, 0⟩
  | .vshr o => some ⟨0x2e, o.d.code, o.a.code, o.b.code, o.c.code, o.p.toNat, o.fmt.code, o.rnd.code, 0⟩
  | .vsra o => some ⟨0x2f, o.d.code, o.a.code, o.b.code, o.c.code, o.p.toNat, o.fmt.code, o.rnd.code, 0⟩
  | .vrshr o => some ⟨0x30, o.d.code, o.a.code, o.b.code, o.c.code, o.p.toNat, o.fmt.code, o.rnd.code, 0⟩
  | .vsat o t => some ⟨0x31, o.d.code, o.a.code, o.b.code, o.c.code, o.p.toNat, o.fmt.code, o.rnd.code, t.code⟩
  | .viadds o => some ⟨0x32, o.d.code, o.a.code, o.b.code, o.c.code, o.p.toNat, o.fmt.code, o.rnd.code, 0⟩
  | .vcmp pd cond o => some ⟨0x40, pd.toNat, o.a.code, o.b.code, o.c.code, o.p.toNat, o.fmt.code, o.rnd.code, cond.code⟩
  | .vsel o => some ⟨0x41, o.d.code, o.a.code, o.b.code, o.c.code, o.p.toNat, o.fmt.code, o.rnd.code, 0⟩
  | .pand pd pa pb => some ⟨0x42, pd.toNat, pa.toNat, pb.toNat, 127, 0, 0, 0, 0⟩
  | .por pd pa pb => some ⟨0x43, pd.toNat, pa.toNat, pb.toNat, 127, 0, 0, 0, 0⟩
  | .pxor pd pa pb => some ⟨0x44, pd.toNat, pa.toNat, pb.toNat, 127, 0, 0, 0, 0⟩
  | .pnot pd pa => some ⟨0x45, pd.toNat, pa.toNat, 127, 127, 0, 0, 0, 0⟩
  | .vcvt o t => some ⟨0x50, o.d.code, o.a.code, o.b.code, o.c.code, o.p.toNat, o.fmt.code, o.rnd.code, t.code⟩
  | .vpack o t => some ⟨0x51, o.d.code, o.a.code, o.b.code, o.c.code, o.p.toNat, o.fmt.code, o.rnd.code, t.code⟩
  | .vunpk o hi t => some ⟨0x52, o.d.code, o.a.code, o.b.code, o.c.code, o.p.toNat, o.fmt.code, o.rnd.code, bit hi * 16 + t.code⟩
  | .vqmx o t => some ⟨0x53, o.d.code, o.a.code, o.b.code, o.c.code, o.p.toNat, o.fmt.code, o.rnd.code, t.code⟩
  | .vdqmx o t => some ⟨0x54, o.d.code, o.a.code, o.b.code, o.c.code, o.p.toNat, o.fmt.code, o.rnd.code, t.code⟩
  | .vmov o => some ⟨0x60, o.d.code, o.a.code, o.b.code, o.c.code, o.p.toNat, o.fmt.code, o.rnd.code, 0⟩
  | .vbrd o col k => some ⟨0x61, o.d.code, o.a.code, o.b.code, o.c.code, o.p.toNat, o.fmt.code, o.rnd.code, bit col * 256 + k.toNat⟩
  | .vredr o op => some ⟨0x62, o.d.code, o.a.code, o.b.code, o.c.code, o.p.toNat, o.fmt.code, o.rnd.code, op.code⟩
  | .vredc o op => some ⟨0x63, o.d.code, o.a.code, o.b.code, o.c.code, o.p.toNat, o.fmt.code, o.rnd.code, op.code⟩
  | .vtrn o => some ⟨0x64, o.d.code, o.a.code, o.b.code, o.c.code, o.p.toNat, o.fmt.code, o.rnd.code, 0⟩
  | .vrotc o k => some ⟨0x65, o.d.code, o.a.code, o.b.code, o.c.code, o.p.toNat, o.fmt.code, o.rnd.code, k.toNat⟩
  | .vshc o k => some ⟨0x66, o.d.code, o.a.code, o.b.code, o.c.code, o.p.toNat, o.fmt.code, o.rnd.code, k.toNat⟩
  | .vgath o => some ⟨0x67, o.d.code, o.a.code, o.b.code, o.c.code, o.p.toNat, o.fmt.code, o.rnd.code, 0⟩
  | .vsetsh x => some ⟨0x68, 127, 95 + x.toNat, 127, 127, 0, 0, 0, 0⟩
  | .viota o => some ⟨0x69, o.d.code, o.a.code, o.b.code, o.c.code, o.p.toNat, o.fmt.code, o.rnd.code, 0⟩
  | _ => none

/-- Copy words (Table 13-8, R267; Table 18-1). -/
def decCopy (f : EwF) : Option Instr :=
  match f.op with
  | 0x00 => need (f.ord = 0 ∧ f.scope = 0 ∧ f.reg = 0 ∧ f.step = 0) do pure (.cnop (← bv 16 f.rep))
  | 0x01 => need (f.ord = 0 ∧ f.scope = 0) do pure (.csetl ⟨← bv 4 f.reg, ← bv 17 f.step, ← bv 16 f.rep⟩)
  | 0x02 => need (f.ord = 0 ∧ f.scope = 0) do pure (.cseth ⟨← bv 4 f.reg, ← bv 17 f.step, ← bv 16 f.rep⟩)
  | 0x03 => need (f.ord = 0 ∧ f.scope = 0) do pure (.cadv ⟨← bv 4 f.reg, ← bv 17 f.step, ← bv 16 f.rep⟩)
  | 0x04 => do pure (.cshape ⟨⟨← ordOf f.ord, ← scopeOf f.scope⟩, ← bv 4 f.reg, ← bv 17 f.step, ← bv 16 f.rep⟩)
  | 0x05 => do pure (.cmove ⟨⟨← ordOf f.ord, ← scopeOf f.scope⟩, ← bv 4 f.reg, ← bv 17 f.step, ← bv 16 f.rep⟩)
  | 0x06 => do pure (.cbox ⟨⟨← ordOf f.ord, ← scopeOf f.scope⟩, ← bv 4 f.reg, ← bv 17 f.step, ← bv 16 f.rep⟩)
  | 0x07 => do pure (.cgath ⟨⟨← ordOf f.ord, ← scopeOf f.scope⟩, ← bv 4 f.reg, ← bv 17 f.step, ← bv 16 f.rep⟩)
  | 0x08 => do pure (.cscat ⟨⟨← ordOf f.ord, ← scopeOf f.scope⟩, ← bv 4 f.reg, ← bv 17 f.step, ← bv 16 f.rep⟩)
  | 0x09 => do pure (.cfill ⟨⟨← ordOf f.ord, ← scopeOf f.scope⟩, ← bv 4 f.reg, ← bv 17 f.step, ← bv 16 f.rep⟩)
  | 0x0a => do pure (.cred ⟨⟨← ordOf f.ord, ← scopeOf f.scope⟩, ← bv 4 f.reg, ← bv 17 f.step, ← bv 16 f.rep⟩)
  | 0x0b => do pure (.csend ⟨⟨← ordOf f.ord, ← scopeOf f.scope⟩, ← bv 4 f.reg, ← bv 17 f.step, ← bv 16 f.rep⟩)
  | 0x0c => do pure (.crecv ⟨⟨← ordOf f.ord, ← scopeOf f.scope⟩, ← bv 4 f.reg, ← bv 17 f.step, ← bv 16 f.rep⟩)
  | 0x0d => need (f.reg = 0) do pure (.csig ⟨← ordOf f.ord, ← scopeOf f.scope⟩ (← bv 6 f.step) (← bv 16 f.rep))
  | 0x0e => do pure (.cwait ⟨← ordOf f.ord, ← scopeOf f.scope⟩ (← bv 4 f.reg) (← bv 6 f.step) (← bv 16 f.rep))
  | 0x0f => need (f.reg = 0 ∧ f.step < 2) do pure (.csync ⟨← ordOf f.ord, ← scopeOf f.scope⟩ (f.step == 1) (← bv 16 f.rep))
  | 0x10 => need (f.ord = 0 ∧ f.scope = 0) do pure (.cloop ⟨← bv 4 f.reg, ← bv 17 f.step, ← bv 16 f.rep⟩)
  | 0x11 => need (f.ord = 0 ∧ f.scope = 0 ∧ f.reg = 0 ∧ f.step = 0) do pure (.cend (← bv 16 f.rep))
  | _ => none

/-- The fields of an instruction of this class, from the same tables. -/
def encCopy (i : Instr) : Option EwF :=
  match i with
  | .cnop n => some ⟨0x00, 0, 0, 0, 0, n.toNat⟩
  | .csetl w => some ⟨0x01, 0, 0, w.r.toNat, w.v.toNat, w.n.toNat⟩
  | .cseth w => some ⟨0x02, 0, 0, w.r.toNat, w.v.toNat, w.n.toNat⟩
  | .cadv w => some ⟨0x03, 0, 0, w.r.toNat, w.v.toNat, w.n.toNat⟩
  | .cshape w => some ⟨0x04, w.os.ord.code, w.os.scope.code, w.r.toNat, w.v.toNat, w.n.toNat⟩
  | .cmove w => some ⟨0x05, w.os.ord.code, w.os.scope.code, w.r.toNat, w.v.toNat, w.n.toNat⟩
  | .cbox w => some ⟨0x06, w.os.ord.code, w.os.scope.code, w.r.toNat, w.v.toNat, w.n.toNat⟩
  | .cgath w => some ⟨0x07, w.os.ord.code, w.os.scope.code, w.r.toNat, w.v.toNat, w.n.toNat⟩
  | .cscat w => some ⟨0x08, w.os.ord.code, w.os.scope.code, w.r.toNat, w.v.toNat, w.n.toNat⟩
  | .cfill w => some ⟨0x09, w.os.ord.code, w.os.scope.code, w.r.toNat, w.v.toNat, w.n.toNat⟩
  | .cred w => some ⟨0x0a, w.os.ord.code, w.os.scope.code, w.r.toNat, w.v.toNat, w.n.toNat⟩
  | .csend w => some ⟨0x0b, w.os.ord.code, w.os.scope.code, w.r.toNat, w.v.toNat, w.n.toNat⟩
  | .crecv w => some ⟨0x0c, w.os.ord.code, w.os.scope.code, w.r.toNat, w.v.toNat, w.n.toNat⟩
  | .csig os f' n => some ⟨0x0d, os.ord.code, os.scope.code, 0, f'.toNat, n.toNat⟩
  | .cwait os r f' n => some ⟨0x0e, os.ord.code, os.scope.code, r.toNat, f'.toNat, n.toNat⟩
  | .csync os rdv n => some ⟨0x0f, os.ord.code, os.scope.code, 0, bit rdv, n.toNat⟩
  | .cloop w => some ⟨0x10, 0, 0, w.r.toNat, w.v.toNat, w.n.toNat⟩
  | .cend n => some ⟨0x11, 0, 0, 0, 0, n.toNat⟩
  | _ => none

/-- Kiln words (Table 13-8, R267; Table 17-1). -/
def decKiln (f : EwF) : Option Instr :=
  match f.op with
  | 0x00 => need (f.ord = 0 ∧ f.scope = 0 ∧ f.reg = 0 ∧ f.step = 0) do pure (.knop (← bv 16 f.rep))
  | 0x01 => need (f.ord = 0 ∧ f.scope = 0) do pure (.ksetl ⟨← bv 4 f.reg, ← bv 17 f.step, ← bv 16 f.rep⟩)
  | 0x02 => need (f.ord = 0 ∧ f.scope = 0) do pure (.kseth ⟨← bv 4 f.reg, ← bv 17 f.step, ← bv 16 f.rep⟩)
  | 0x03 => need (f.ord = 0 ∧ f.scope = 0 ∧ f.reg = 0) do pure (.kfmt (← bv 8 f.step) (← bv 16 f.rep))
  | 0x04 => need (f.ord = 0 ∧ f.scope = 0 ∧ f.step = 0) do pure (.ktile (← bv 4 f.reg) (← bv 16 f.rep))
  | 0x05 => need (f.ord = 0 ∧ f.scope = 0 ∧ f.reg = 0 ∧ f.step = 0) do pure (.kzero (← bv 16 f.rep))
  | 0x06 => do pure (.kldc ⟨⟨← ordOf f.ord, ← scopeOf f.scope⟩, ← bv 4 f.reg, ← bv 17 f.step, ← bv 16 f.rep⟩)
  | 0x07 => need (f.ord = 0 ∧ f.scope = 0) do pure (.kmma ⟨← bv 4 f.reg, ← bv 17 f.step, ← bv 16 f.rep⟩)
  | 0x08 => need (f.ord = 0 ∧ f.scope = 0) do pure (.kdrain ⟨← bv 4 f.reg, ← bv 17 f.step, ← bv 16 f.rep⟩)
  | 0x09 => need (f.ord = 0 ∧ f.scope = 0 ∧ f.reg = 0 ∧ f.step = 0) do pure (.kswap (← bv 16 f.rep))
  | 0x0a => need (f.reg = 0) do pure (.ksig ⟨← ordOf f.ord, ← scopeOf f.scope⟩ (← bv 6 f.step) (← bv 16 f.rep))
  | 0x0b => do pure (.kwait ⟨← ordOf f.ord, ← scopeOf f.scope⟩ (← bv 4 f.reg) (← bv 6 f.step) (← bv 16 f.rep))
  | 0x0c => do pure (.ksync ⟨⟨← ordOf f.ord, ← scopeOf f.scope⟩, ← bv 4 f.reg, ← bv 17 f.step, ← bv 16 f.rep⟩)
  | 0x0d => need (f.ord = 0 ∧ f.scope = 0) do pure (.kloop ⟨← bv 4 f.reg, ← bv 17 f.step, ← bv 16 f.rep⟩)
  | 0x0e => need (f.ord = 0 ∧ f.scope = 0 ∧ f.reg = 0 ∧ f.step = 0) do pure (.kend (← bv 16 f.rep))
  | _ => none

/-- The fields of an instruction of this class, from the same tables. -/
def encKiln (i : Instr) : Option EwF :=
  match i with
  | .knop n => some ⟨0x00, 0, 0, 0, 0, n.toNat⟩
  | .ksetl w => some ⟨0x01, 0, 0, w.r.toNat, w.v.toNat, w.n.toNat⟩
  | .kseth w => some ⟨0x02, 0, 0, w.r.toNat, w.v.toNat, w.n.toNat⟩
  | .kfmt f' n => some ⟨0x03, 0, 0, 0, f'.toNat, n.toNat⟩
  | .ktile r n => some ⟨0x04, 0, 0, r.toNat, 0, n.toNat⟩
  | .kzero n => some ⟨0x05, 0, 0, 0, 0, n.toNat⟩
  | .kldc w => some ⟨0x06, w.os.ord.code, w.os.scope.code, w.r.toNat, w.v.toNat, w.n.toNat⟩
  | .kmma w => some ⟨0x07, 0, 0, w.r.toNat, w.v.toNat, w.n.toNat⟩
  | .kdrain w => some ⟨0x08, 0, 0, w.r.toNat, w.v.toNat, w.n.toNat⟩
  | .kswap n => some ⟨0x09, 0, 0, 0, 0, n.toNat⟩
  | .ksig os f' n => some ⟨0x0a, os.ord.code, os.scope.code, 0, f'.toNat, n.toNat⟩
  | .kwait os r f' n => some ⟨0x0b, os.ord.code, os.scope.code, r.toNat, f'.toNat, n.toNat⟩
  | .ksync w => some ⟨0x0c, w.os.ord.code, w.os.scope.code, w.r.toNat, w.v.toNat, w.n.toNat⟩
  | .kloop w => some ⟨0x0d, 0, 0, w.r.toNat, w.v.toNat, w.n.toNat⟩
  | .kend n => some ⟨0x0e, 0, 0, 0, 0, n.toNat⟩
  | _ => none

/-- Flue instructions (Table 13-9, R268; Table 17-6). -/
def decFlue (f : FlF) : Option Instr :=
  match f.op with
  | 0x00 => need (f.d = 0 ∧ f.a = 0 ∧ f.b = 0 ∧ f.c = 0 ∧ f.md = 0) do pure .fnop
  | 0x01 => need (f.a = 0 ∧ f.b = 0 ∧ f.c = 0 ∧ f.md < 64) do pure (.fld (← bv 4 f.d) (BitVec.ofNat 4 (f.md / 4)) (BitVec.ofNat 2 f.md))
  | 0x02 => need (f.c = 0 ∧ f.md = 0) do pure (.fadd ⟨← bv 4 f.d, ← bv 4 f.a, ← bv 4 f.b⟩)
  | 0x03 => need (f.c = 0 ∧ f.md = 0) do pure (.fmul ⟨← bv 4 f.d, ← bv 4 f.a, ← bv 4 f.b⟩)
  | 0x04 => need (f.md = 0) do pure (.ffma ⟨← bv 4 f.d, ← bv 4 f.a, ← bv 4 f.b, ← bv 4 f.c⟩)
  | 0x05 => need (f.c = 0 ∧ f.md = 0) do pure (.fmax ⟨← bv 4 f.d, ← bv 4 f.a, ← bv 4 f.b⟩)
  | 0x06 => need (f.c = 0 ∧ f.md = 0) do pure (.fmin ⟨← bv 4 f.d, ← bv 4 f.a, ← bv 4 f.b⟩)
  | 0x07 => need (f.md = 0) do pure (.fbias ⟨← bv 4 f.d, ← bv 4 f.a, ← bv 4 f.b, ← bv 4 f.c⟩)
  | 0x08 => do pure (.fscale ⟨← bv 4 f.d, ← bv 4 f.a, ← bv 4 f.b, ← bv 4 f.c⟩ (← bv 8 f.md))
  | 0x09 => need (f.c = 0) do pure (.fact ⟨← bv 4 f.d, ← bv 4 f.a, ← bv 4 f.b⟩ (← bv 4 f.md))
  | 0x0a => need (f.md = 0) do pure (.fclamp ⟨← bv 4 f.d, ← bv 4 f.a, ← bv 4 f.b, ← bv 4 f.c⟩)
  | 0x0b => need (f.b = 0 ∧ f.c = 0 ∧ f.md < 128) do pure (.fq (← bv 4 f.d) (← bv 4 f.a) (BitVec.ofNat 3 (f.md / 16)) (BitVec.ofNat 4 f.md))
  | 0x0c => need (f.d = 0 ∧ f.b = 0 ∧ f.c = 0) do pure (.fst (← bv 4 f.a) (BitVec.ofNat 2 (f.md / 512)) (BitVec.ofNat 2 (f.md / 128)) (BitVec.ofNat 3 (f.md / 16)) (BitVec.ofNat 4 f.md))
  | 0x0d => need (f.b = 0 ∧ f.c = 0) do pure (.fstat (← bv 4 f.d) (← bv 4 f.a) (← bv 2 f.md))
  | 0x0e => need (f.d = 0 ∧ f.a = 0 ∧ f.b = 0 ∧ f.c = 0 ∧ f.md = 0) do pure .fend
  | _ => none

/-- The fields of an instruction of this class, from the same tables. -/
def encFlue (i : Instr) : Option FlF :=
  match i with
  | .fnop => some ⟨0x00, 0, 0, 0, 0, 0⟩
  | .fld d fm j => some ⟨0x01, d.toNat, 0, 0, 0, fm.toNat * 4 + j.toNat⟩
  | .fadd o => some ⟨0x02, o.d.toNat, o.a.toNat, o.b.toNat, 0, 0⟩
  | .fmul o => some ⟨0x03, o.d.toNat, o.a.toNat, o.b.toNat, 0, 0⟩
  | .ffma o => some ⟨0x04, o.d.toNat, o.a.toNat, o.b.toNat, o.c.toNat, 0⟩
  | .fmax o => some ⟨0x05, o.d.toNat, o.a.toNat, o.b.toNat, 0, 0⟩
  | .fmin o => some ⟨0x06, o.d.toNat, o.a.toNat, o.b.toNat, 0, 0⟩
  | .fbias o => some ⟨0x07, o.d.toNat, o.a.toNat, o.b.toNat, o.c.toNat, 0⟩
  | .fscale o n => some ⟨0x08, o.d.toNat, o.a.toNat, o.b.toNat, o.c.toNat, n.toNat⟩
  | .fact o t => some ⟨0x09, o.d.toNat, o.a.toNat, o.b.toNat, 0, t.toNat⟩
  | .fclamp o => some ⟨0x0a, o.d.toNat, o.a.toNat, o.b.toNat, o.c.toNat, 0⟩
  | .fq d a r fm => some ⟨0x0b, d.toNat, a.toNat, 0, 0, r.toNat * 16 + fm.toNat⟩
  | .fst a k j r fm => some ⟨0x0c, 0, a.toNat, 0, 0, k.toNat * 512 + j.toNat * 128 + r.toNat * 16 + fm.toNat⟩
  | .fstat d a op => some ⟨0x0d, d.toNat, a.toNat, 0, 0, op.toNat⟩
  | .fend => some ⟨0x0e, 0, 0, 0, 0, 0⟩
  | _ => none

/-- The six kinds of encoded instruction; a syllable's class is set by its slot (R250). -/
inductive Cls | sc | mc | vc | copy | kiln | flue
deriving DecidableEq, Repr

/-- Opcodes that Tables 13-5 to 13-9 assign. -/
def Cls.assigned (c : Cls) (op : Nat) : Bool :=
  match c with
  | .sc => op ≤ 0x2E || (0x30 ≤ op && op ≤ 0x3C) || (0x40 ≤ op && op ≤ 0x4C) || (0x50 ≤ op && op ≤ 0x58)
      || (0x60 ≤ op && op ≤ 0x66) || (0x70 ≤ op && op ≤ 0x7A)
  | .mc => op ≤ 0x0D || (0x10 ≤ op && op ≤ 0x16) || (0x20 ≤ op && op ≤ 0x2B) || (0x30 ≤ op && op ≤ 0x33)
  | .vc => op ≤ 0x14 || (0x20 ≤ op && op ≤ 0x32) || (0x40 ≤ op && op ≤ 0x45) || (0x50 ≤ op && op ≤ 0x54)
      || (0x60 ≤ op && op ≤ 0x69)
  | .copy => op ≤ 0x11
  | .kiln => op ≤ 0x0E
  | .flue => op ≤ 0x0E

/-- The opcode field of a word of a class. -/
def Cls.opcode (c : Cls) (w : Nat) : Nat :=
  match c with
  | .sc | .mc | .vc => fldN w 48 8
  | .copy | .kiln => fldN w 42 6
  | .flue => fldN w 27 5

/-- The instruction of a word, or none. -/
def decodeOpt (c : Cls) (w : Nat) : Option Instr :=
  match c with
  | .sc => decSC (ScF.unpack w)
  | .mc => decMC (McF.unpack w)
  | .vc => decVC (VcF.unpack w)
  | .copy => decCopy (EwF.unpack w)
  | .kiln => decKiln (EwF.unpack w)
  | .flue => decFlue (FlF.unpack w)

/-- Decode a word of a class; total, rejecting by name (R269). -/
def decode (c : Cls) (w : Nat) : Except Reject Instr :=
  match decodeOpt c w with
  | some i => .ok i
  | none => .error (if c.assigned (c.opcode w) then .badField else .reservedOpcode)

/-- Decode an engine word from its 8-byte slot (R261). -/
def decodeSlot (c : Cls) (w : Nat) : Except Reject Instr :=
  if w < 2 ^ 48 then decode c w else .error .slotBits

/-- The class of an instruction, none for an event. -/
def encodeFields (i : Instr) : Option (Cls × Nat) :=
  match encSC i with
  | some f => some (.sc, f.pack)
  | none =>
  match encMC i with
  | some f => some (.mc, f.pack)
  | none =>
  match encVC i with
  | some f => some (.vc, f.pack)
  | none =>
  match encCopy i with
  | some f => some (.copy, f.pack)
  | none =>
  match encKiln i with
  | some f => some (.kiln, f.pack)
  | none =>
  match encFlue i with
  | some f => some (.flue, f.pack)
  | none => none

/-- The class and the word of a well-formed instruction; none for an event or an ill-formed term. -/
def encode (i : Instr) : Option (Cls × Nat) := if i.wf then encodeFields i else none

/-- The control fields of a parcel (R251); `rsvd` gathers the reserved bits. -/
structure Ctl where
  stall  : Nat
  wait   : Nat
  tokid  : Nat
  settok : Bool
  safe   : Bool
  stg0   : Nat
  stg1   : Nat
  stg2   : Nat
  stg3   : Nat
  rsvd   : Nat
deriving DecidableEq, Repr

/-- control16 of an L or S parcel (R251). -/
def Ctl.of16 (w : Nat) : Ctl :=
  ⟨fldN w 12 4, fldN w 8 4, fldN w 6 2, fldN w 5 1 == 1, fldN w 4 1 == 1, 0, 0, 0, 0, fldN w 0 4⟩

/-- control32 of a K parcel (R251). -/
def Ctl.of32 (w : Nat) : Ctl :=
  ⟨fldN w 28 4, fldN w 24 4, fldN w 22 2, fldN w 21 1 == 1, fldN w 20 1 == 1,
    fldN w 13 3, fldN w 10 3, fldN w 7 3, fldN w 4 3, fldN w 16 4 * 16 + fldN w 0 4⟩

/-- A decoded parcel: its control field and its syllables' words with their classes, in slot order. -/
structure Parcel where
  ctl  : Ctl
  syls : List (Cls × Nat)
deriving DecidableEq, Repr

/-- An L or S parcel, 128 bits (Table 13-1). -/
def Parcel.of128 (w : Nat) : Parcel :=
  ⟨Ctl.of16 (fldN w 112 16), [(.sc, fldN w 56 56), (.mc, fldN w 0 56)]⟩

/-- A K parcel, 256 bits (Table 13-1). -/
def Parcel.of256 (w : Nat) : Parcel :=
  ⟨Ctl.of32 (fldN w 224 32), [(.sc, fldN w 168 56), (.mc, fldN w 112 56), (.vc, fldN w 56 56), (.vc, fldN w 0 56)]⟩

/-- The host's table word: only the flue rows of spec/opcode_table.json have bits, 32 of them, and a flue
instruction is one little-endian 32-bit word (R262). -/
def decodeTableWord (nbits w : Nat) : Option Instr :=
  if nbits = 32 then decodeOpt .flue (w % 2 ^ 32) else none

end Sys2Proof
end

