-- ==== Sys2Proof/Machine/CoreState.lean ====
section
/-! DEFINITION. The state of one core, of its engines and of a kiln, as plain data. Sparse stores are lists of
(number, value) pairs in rising order that hold no entry equal to the store's default. Times are countdowns
in cycles, because SCYC wraps (R111). -/

namespace Sys2Proof.Machine

/-- A sparse store: pairs of a number and a value, numbers rising, no default values. -/
abbrev Map (α : Type) := List (Nat × α)

/-- Bytes at addresses; an unlisted address reads 0 (log 1). -/
abbrev Mem := List Host.Cell

/-- Stream states of Table 10-2. -/
inductive StreamSt | notStarted | running | ended | parked | stalled
deriving DecidableEq, Repr

/-- Why a context is stalled at issue (R118, R202, R219). -/
inductive WaitK
  | queue (q : BitVec 3) (push : Bool)
  | port | rdv | token | lease | fence | sweep | other
  | flag (f : BitVec 6) (target : BitVec 32)
  | bar (g : BitVec 2)
  | sgwait (g : BitVec 2)
  | safept (idx : BitVec 16)
deriving DecidableEq, Repr

/-- An entry of a hardware loop stack (R282, Table 10-2). -/
structure LoopEnt where
  start  : Word
  count  : Nat
  endOff : Nat
deriving DecidableEq, Repr

/-- The modulo sequencer of LOOPM (R286, Table 10-2 at 0x06C0). -/
structure Seqr where
  body   : Word
  ii     : Nat
  stages : Nat
  trip   : Nat
  iter   : Nat
  cyc    : Nat
deriving DecidableEq, Repr

/-- Phase of an operation in flight (R194): fixed latency; not sent; a write that has been accepted and waits for an acquire of its
stream; sent; performed at its home with the value on its way back; data captured; faulted. -/
inductive Phase | fixed | unsent | held | sent | served | captured | faulted
deriving DecidableEq, Repr

/-- The operation's value is not back in the core. -/
def Phase.away (p : Phase) : Bool := p == .unsent || p == .held || p == .sent || p == .served

/-- An issued operation that has not landed: the content of an ember record (Table 10-3). -/
structure Flight where
  id    : Nat                      -- the model's own number, so that requests can name it
  i     : Instr                    -- OP
  src   : Nat                      -- SRC
  slot  : Nat
  pc    : Word
  tok   : Option (BitVec 2)        -- TOKEN
  issue : Nat                      -- ISSUE, SCYC
  phase : Phase                    -- STATE
  remain : Nat                     -- REMAIN: cycles until it lands, or until it is presented when unsent
  live  : Bool                     -- the countdown runs (a variable latency not yet known has none)
  fault : Nat                      -- FAULT
  prog  : Nat                      -- PROGRESS
  ea    : Word                     -- EA without the space code
  space : SpaceK
  ops   : List Word                -- OPS
  cnt   : BitVec 32                -- CNT
  fpctl : BitVec 32
  vsh   : BitVec 32
  dest  : Nat                      -- destination register as resolved at issue: physical v or p index, queue
  data  : Nat                      -- DATA
  tA    : Option Tile              -- CAPS
  tB    : Option Tile
  tC    : Option Tile
  pr    : Option PredReg
  td    : Option Tile              -- CAPD
  gen   : Nat := 0                 -- generation count + 1 under which the home served the read (R51); for a neighbour's
                                   -- scratchpad, the operations the neighbour had issued (R161)
  pa    : Nat := 0                 -- physical address once translated
  pa2   : Nat := 0                 -- that of the second page of an access that crosses one
  sentAt : Nat := 0                -- pod time at which its request left (R14)
  wr    : Bool := false            -- its write part has been handed to the write path
  redo  : Bool := false            -- a STATE 1 record sent again: overlapping ones keep their record order (R197)
  again  : Bool := false           -- it came from a record: a later stop keeps the order of such records (R401)
deriving DecidableEq, Repr

/-- A queue entry, filled or reserved (R104); `lock` is the virtual number of the L1 line an LDQ locks (R132), `lockPa` its physical
number once the LDQ has been translated. -/
structure QEnt where
  val  : Option Word
  src  : Nat                       -- the LDQ flight that fills a reserved entry
  lock : Option Nat
  lockPa : Option Nat := none
deriving DecidableEq, Repr

/-- A queue; `fresh` entries were pushed in the current SCYC and are not popped in it (R105). -/
structure Que where
  ents  : List QEnt := []
  fresh : Nat := 0
deriving DecidableEq, Repr

/-- A pattern block as read (Table 15-2). -/
structure Pattern where
  base   : Word
  space  : SpaceK
  fmt    : Fmt
  ndim   : Nat
  trows  : Nat
  tcols  : Nat
  ext    : List Nat
  stride : List Word
deriving DecidableEq, Repr

/-- A bound stream port (R106, R316). -/
structure Port where
  id     : Nat                     -- number of the BIND among the core's operations (R160)
  wr     : Bool
  os     : OS
  blk    : Word                    -- pattern block address
  bspace : SpaceK
  pol    : BitVec 32
  ctx    : Nat                     -- the binding context
  pat    : Option Pattern          -- none until the transfer unit has read the block
  tiles  : List Tile               -- complete tiles held, oldest first
  part   : List Byte               -- bytes of the tile in progress already moved
  moved  : Nat                     -- tiles transferred by the unit
  cons   : Nat                     -- tiles popped or pushed by the program
  fresh  : Nat                     -- tiles completed in this SCYC, popped from the next one on (R402)
  endReq : Bool                    -- an unbind's drain runs (R317)
  wait   : Bool                    -- the unit waits on the paging service
  tags   : List (Nat × Nat) := []  -- what the data read last is bound to (R51; see `State.rtag`)
  snap   : Map Byte := []          -- what its context's later stores have gone over (R160)
deriving DecidableEq, Repr

/-- A result-port age (R259, Table 10-2). -/
structure Age where
  tile   : Tile
  shape  : BitVec 32
  landed : Nat
  hold   : Nat                     -- cycles for which it may still be read
  ord    : Nat                     -- SCYC in which its operation issued (R112 counts in issue order)
  pack   : Bool := false           -- a result of VPACK: twice as many elements as its shape (R347)
deriving DecidableEq, Repr

/-- A bundle context: L, K or S. -/
structure Ctx where
  x      : Map Word := []
  pc     : Word := 0
  st     : StreamSt := .notStarted
  delay  : Nat := 0                -- cycles until the next parcel may issue (R110, R273)
  loops  : List LoopEnt := []      -- innermost first
  seq    : Option Seqr := none     -- K only
  tok    : Map Nat := []           -- outstanding operations per token
  mcBusy : Nat := 0                -- MC slot occupied (R272)
  wait   : Option WaitK := none
  waitFrom : Nat := 0              -- cycles waited so far
  rel    : Option Nat := none      -- a release code given to the wait in progress (R108)
  arrived : Bool := false          -- this wait's arrival has been counted (R292)
  halting : Bool := false          -- HALT issued, results still to land (R103)
  frel   : Nat := 0                -- widest scope code + 1 of its FENCEs with rel or ar so far (R152)
deriving DecidableEq, Repr

/-- A shape record (Table 18-2). -/
structure ShapeRec where
  base   : Word
  fmt    : Fmt
  ndim   : Nat
  space  : SpaceK
  ext    : List Nat
  stride : List Word
deriving DecidableEq, Repr

/-- A copy or kiln word in progress (R397, R370). -/
structure EWord where
  i     : Instr
  reps  : Nat                      -- repeats, k-steps or slices done
  piece : Nat                      -- pieces done in the repeat in progress
  buf   : Option (List Byte)       -- the piece in the copy buffer
  regs  : Map Word                 -- registers as read when the word started
  left  : Nat                      -- idle cycles left
  begun : Bool                     -- its acquire has been made and its checks done
  chk   : Nat                      -- kiln: chunks of operands in place
  arrived : Bool                   -- rendezvous arrival made
  issue : Nat                      -- SCYC at which it started
  tags  : List (Nat × Nat) := []   -- what the data of its last read is bound to (see `State.rtag`)
deriving DecidableEq, Repr

/-- An engine stream: C0, C1 or M. -/
structure Eng where
  pc    : Word := 0
  st    : StreamSt := .notStarted
  r     : Map Word := []
  shape : Option ShapeRec := none
  cur   : Option EWord := none
  chan  : Map (List Byte) := []    -- receive channels 0-7 (R391)
  chFrom : Map Nat := []           -- channel: sender + 1 of the block whose pieces are arriving (blocks come whole, R391)
  sent  : Map Nat := []            -- bytes sent per channel stream (R395)
  waitFrom : Nat := 0
  rel   : Option Nat := none
  page  : Bool := false            -- waits on the paging service
  acqs  : Nat := 0
  startIn : Nat := 0               -- its first word waits for its starter's stores before this operation number (Table 8-4)
  stopReq : Bool := false          -- ESTOP: it ends after the repeat or the retirement in progress
  slotOk : Bool := false           -- the pod-time slot of the link word has been reached
  swept  : Bool := false           -- its word has just waited for a sweep (R131)
deriving DecidableEq, Repr

/-- What a job is to the hub: a step of an OPB, a sibling of a sample group, a rival of a tournament. -/
inductive JobKind
  | step
  | sibling (grp : Nat) (index : Nat)
  | rival (scope : Nat) (index : Nat)
deriving DecidableEq, Repr

/-- A write, atomic or remote FINC on its way to its home, in stream order (R158). -/
structure PWrite where
  id     : Nat
  stream : Nat                     -- 0-5, and 3-5 for engines
  kind   : Nat                     -- 0 memory by physical address, 1 neighbour scratchpad, 2 remote FINC, 3 channel unit
  core   : Nat                     -- target core for kinds 1-3
  addr   : Nat                     -- physical address, offset, flag or channel
  va     : Nat                     -- the virtual address it came from
  data   : List Byte
  atom   : Option AtomK            -- an atomic; its flight waits for the old value
  cmp    : Word
  flight : Nat
  world  : BitVec 10
  gen    : Bool                    -- the captured key generation (R51)
  os     : OS
  pol    : BitVec 32               -- policy operand (R136)
  no     : Nat := 0                -- its number among the HBM writes of its die (R155)
  clk    : List Nat := []          -- the clock of its die at its issue: per die, how many of that die's writes it had applied
  after  : List Nat := []          -- reads of the core that are bound before it is applied (R152)
  sentAt : Nat := 0                -- pod time at which it was accepted (R16)
  flue   : Bool := false           -- a flue's store: its refusal names STREAM 6 (R376)
  dead   : Option JobKind := none  -- the sibling or rival that was terminated while switched out and whose store it is (R85)
  left   : Nat                     -- cycles until it is applied of itself (log 5)
deriving DecidableEq, Repr

/-- An L1 line (R129-R132, R137), by its physical number; queue entries say which lines are locked. -/
structure L1Line where
  data : BitVec 1024
  gen  : BitVec 8
  cls  : Nat                       -- 0 NORMAL, 1 PERSIST, 2 STREAM (R136)
  ord  : Int                       -- order of replacement in its set: the least goes first
  set  : Nat                       -- its set; set n lies in granule 31 - n / 64
  keep : Bool                      -- it was current when an LDQ locked it: it hits while locked (R132)
  kill : List (Nat × Nat)          -- CINVs (core, operation) that invalidate it at its unlock (R325)
deriving DecidableEq, Repr

/-- A TLB entry (R125). -/
structure TlbEnt where
  world : BitVec 10
  va    : Nat
  size  : Nat
  pa    : Nat
  r     : Bool
  w     : Bool
  x     : Bool
deriving DecidableEq, Repr

/-- Causes of a hold (R187). -/
inductive HoldK | tlb | bank | refresh | split
deriving DecidableEq, Repr

/-- A hold in progress; a translation hold lists the pages still missing (R188). -/
structure Hold where
  cause : HoldK
  left  : Nat
deriving DecidableEq, Repr

/-- A stop cause raised on this edge (R190). -/
structure Raise where
  cause  : Nat                     -- Table 10-1
  stream : Nat                     -- 0-7, Table 10-2
  slot   : Nat                     -- 4 for a breakpoint's own hit (R212)
  detail : Nat
  addr   : Word
  idx    : Nat                     -- safe-mask index for PREEMPT, else 0xFFFF
  late   : Bool                    -- raised after issue: taken on the edge that ends the SCYC (R398)
deriving DecidableEq, Repr

/-- A stop in progress (R191): the cause recorded, whether the image has been written, and what the core holds of the
stopped K context and of the vector slots while a handler runs. -/
structure Stop where
  r       : Raise
  written : Bool
  k       : Ctx
  vaBusy  : Nat
  vbBusy  : Nat
  pend    : List Raise             -- causes of the stopped program that its stop did not take; RESUME raises them
  ords    : List (Nat × Bool) := []  -- `ord` and `pack` of the result-port ages of VA and of VB, four each
deriving DecidableEq, Repr

/-- Debug breakpoints (R212). -/
structure Bp where
  ctl : BitVec 32 := 0
  val : Word := 0
deriving DecidableEq, Repr

/-- The job a core runs (R70, R100, R114, R246). -/
structure Job where
  kind   : JobKind
  opb    : Nat                     -- the hub's number of the OPB in flight
  step   : Nat
  world  : BitVec 10
  prio   : Nat
  wdog   : Nat
  inter  : Bool                    -- interlocked mode (R114)
  image  : Word                    -- job image record
  flue   : Word                    -- its flue image
  fslots : BitVec 8                -- FSLOTS
  fload  : Map Word                -- slots loaded with FLUELD: addresses
  init   : Map Word                -- x registers at its start (R70)
  l1g    : Nat                     -- L1 granules (R70)
  slots  : Map Nat                 -- g0-g3: group entry + 1
  granted : Bool                   -- it has had a kiln grant since the last kiln clear
deriving DecidableEq, Repr

/-- Core registers that RDS and WRS reach, and the vector control registers (Table 14-6). -/
structure SysRegs where
  fpctl  : BitVec 32 := 0
  fpst   : BitVec 32 := 0
  srseed : BitVec 32 := 0
  srcnt  : BitVec 32 := 0
  tvec   : Word := 0
  vsh    : BitVec 32 := 0x00607FC0
  rrb    : Nat := 0
  prb    : Nat := 0
deriving DecidableEq, Repr

/-- An increment of a flag in this SCYC, in the order of R219: key 0 C0, 1 C1, 2 M, 3 + 4 * core + context for a
FINC; `wide` is its release's scope code + 1, 0 for none. -/
structure FlagInc where
  key  : Nat
  flag : Nat
  val  : BitVec 32
  wide : Nat
deriving DecidableEq, Repr

/-- A unit's read of host or peer memory under way (R14, R16). -/
structure Far where
  sent : Nat                       -- pod time of the request
  left : Nat                       -- cycles until the data is back
  pa   : Nat
  va   : Nat
deriving DecidableEq, Repr

/-- The state of one core. -/
structure Core where
  scyc    : BitVec 48 := 0
  cl      : Ctx := {}
  ck      : Ctx := {}
  cs      : Ctx := {}
  v       : Map Tile := []
  p       : Map PredReg := []      -- p1-p15; p0 reads all ones
  sys     : SysRegs := {}
  queues  : Map Que := []
  ports   : Map Port := []
  flags   : Map (BitVec 32) := []
  fhist   : Map (List (Nat × BitVec 32)) := [] -- contributions of a flag's last change: setter, value after (R219)
  flagOs  : Map Nat := []          -- widest scope code + 1 of the releases a flag carries (R159)
  incs    : List FlagInc := []     -- engine and remote increments of this SCYC, applied at the next one (R107)
  va      : List Age := []         -- newest first
  vb      : List Age := []
  vaBusy  : Nat := 0               -- slots occupied (R272)
  vbBusy  : Nat := 0
  flights : List Flight := []      -- in issue order
  nextId  : Nat := 0
  wq      : List PWrite := []      -- accepted by the write path, not yet applied, oldest first
  e0      : Eng := {}
  e1      : Eng := {}
  em      : Eng := {}
  lease   : Bool := false          -- holds its cluster's kiln lease
  leaseReq : Bool := false         -- requests it
  recs    : List (Word × BitVec 10 × ShapeRec) := []  -- record cache, most recent first (R387)
  sp      : Mem := []              -- scratchpad bytes by offset
  bay     : Mem := []              -- ember bay by offset from 0x40_0000
  gran    : Nat := 0               -- S (R127)
  split   : Option (Nat × Nat) := none -- S before the SPLIT and cycles of drain left (R128)
  l1      : Map L1Line := []       -- by physical line number
  l1gen   : BitVec 8 := 0
  sweep   : Nat := 0               -- cycles of sweep left (R131)
  tlb     : List TlbEnt := []
  far     : Map Far := []          -- reads of host or peer memory by units, by waiter number (R206; 8 to 10 a context's FLUELD, 11 to 13
                                   -- and 17 to 19 the fetch of a context's parcels and of an engine's words)
  icache  : Map (BitVec 1024) := []-- by virtual line number
  ilock   : List (Nat × Nat) := [] -- locked line ranges {first line, lines} (R147)
  hold    : Option Hold := none
  miss    : List (Nat × Nat) := [] -- pages missing: requester (0-2, 3 kiln) and virtual page
  raises  : List Raise := []
  stop    : Option Stop := none
  hmode   : Bool := false
  resumed : Bool := false          -- a RESUME or the end of a stop has just set SCYC: the next cycle keeps it
  hjob    : Bool := false          -- handler HALT: the job is ending
  mute    : Nat := 0               -- SREWARD or a self-cancel issued: 1 in its cycle, then 2: nothing issues (R405)
  preempt : Option Nat := none     -- pre-emption request pending, with its DETAIL
  job     : Option Job := none
  starting : Bool := false         -- placed, JOB_START still to come
  lastWorld : Option (BitVec 10) := none
  clearing : Bool := false         -- a clear between worlds is due before the next job (R53)
  prep    : Nat := 0               -- cycles left of such a clear
  ended   : Bool := false          -- job ended, completion release not yet made (R103, R163)
  failed  : Bool := false          -- the job was contained or killed
  moved   : Option Nat := none     -- the context whose SPLIT has had its effect and whose parcel the hold of R128 keeps from issuing
  attached : Bool := false         -- a debug session owns the core (R211)
  halted  : Bool := false          -- stopped into the debugger
  bps     : Map Bp := []           -- BPCTL0-3, BPVAL0-3 (R212)
  bpskip  : List Nat := []         -- breakpoints already taken at this point
  hreq    : Bool := false          -- HALTREQ pending
  wdleft  : Nat := 0               -- job watchdog, cycles left (R119)
  parcels : Nat := 0               -- parcels issued in this round (R92)
  banks   : List (Nat × Nat) := [] -- scratchpad banks used in this SCYC: (context, bank) (R143)
  refr    : Bool := false          -- this SCYC's refresh hold has been taken (R144)
  passes  : List (Nat × Nat × Nat) := [] -- sp LDV and STV passes still to come: context, operation, next pass
  todo    : List Nat := []         -- contexts whose turn in this SCYC waits for the hold in progress to end
  ctr     : Map Nat := []          -- counters (R217)
  cntovf  : BitVec 32 := 0
  cntcfg  : Word := 0
  cnew    : Map Nat := []          -- events of this cycle, by counter: they count as it ends (R218)
  cclr    : List Nat := []         -- counters cleared in this cycle
  cfgNext : Option Word := none    -- CNTCFG as it will be from the next cycle on
  rot     : Bool := false          -- K's parcel rotates the bases: they change as the SCYC ends (R285, R286)
  back    : List (Nat × Nat × Nat × Word) := [] -- what units have read, back in the next cycle: stream, slot, generation count + 1 and
                                   -- address (R51)
deriving DecidableEq, Repr

/-- An accumulator bank (R351). -/
structure Bank where
  acc    : Map (BitVec 32) := []   -- entry (i, j) at 1536 i + j; unlisted is +0
  st     : Nat := 0                -- 0 IDLE, 1 OPEN, 2 DRAINING
  kind   : Option Bool := none     -- some true INT32, some false FP32; none until the first KMMA
  depth  : Nat := 0
  shape  : BitVec 32 := 0          -- k15[31:0] as captured
  stride : Word := 0               -- k14 as captured
  lda    : Nat := 0                -- the lnstab table latched at opening: 0 Table 9-3, 1 LTAB
  ltab   : List (BitVec 32) := []
deriving DecidableEq, Repr

/-- A running drain (R363). -/
structure Drain where
  bank  : Nat
  w     : Instr                    -- the KDRAIN word
  slot  : Nat
  prog  : List (BitVec 32)         -- the slot's program as the drain started (R298)
  mask  : Nat
  d     : Word
  stride : Word
  side  : List Word
  row   : Nat
  pc    : Nat                      -- instruction of the row in progress + 1; 0: the row has not started
  cnt   : Option (BitVec 32)       -- the row's SRCNT capture (R176)
  bdone : Bool                     -- b loads done
  acc   : Nat                      -- the core, while the lease lasts
  kpc   : Word
  issue : Nat                      -- SCYC at which it started
deriving DecidableEq, Repr

/-- A flue register: columns, or for m registers one value; a quantized register holds codes (R375). -/
structure FReg where
  q    : Option Fmt := none        -- quantized in this format
  vals : Map Nat := []             -- FP32 codes, or element codes when quantized
  scal : Map Nat := []             -- block scale codes + 1
deriving DecidableEq, Repr

/-- A k-chunk of operands in the tile fetch buffers: rows of A, then of B, as (code, scale code) pairs in k order; and
the L2 lines it pins (R360, R361). -/
structure Chunk where
  rows  : List (List (Nat × Nat)) := []
  lines : List Nat := []
deriving DecidableEq, Repr

/-- The state of one kiln (R351). -/
structure Kiln where
  holder   : Option (BitVec 9) := none
  last     : Nat := 3              -- last holder's core-in-cluster (R115)
  lastWorld : Option (BitVec 10) := none
  req      : Map Nat := []         -- requesting core-in-cluster: times passed over + 1
  clearDue : Bool := false         -- discard and clear before the next grant (R53, R205)
  b0       : Bank := {}
  b1       : Bank := {}
  ptr      : Nat := 0
  slots    : Map (List (BitVec 32)) := []  -- flue program slots
  checked  : Map Nat := []         -- slots checked since loaded
  reg      : Map FReg := []        -- e0-e7, b0-b3, m0-m3 by register code
  drain    : Option Drain := none
  status   : BitVec 32 := 0        -- R367
  opens    : Nat := 0              -- openings of this lease (R358)
  rets     : Nat := 0              -- retirements of this lease
  gwait    : Nat := 0              -- cycles of slot loading left after a grant (R351)
  ltab     : Map (BitVec 32) := [] -- LTAB0-3 (R172; log 13)
  ovr      : Bool := false
  ending   : Nat := 0              -- the lease ends at the retirement: 0 no, 1 KEND, 2 park, 3 job end, 4 KREL
  tf       : List Chunk := []      -- chunks in place, oldest first
  tfNew    : Chunk := {}           -- the chunk being fetched
deriving DecidableEq, Repr

end Sys2Proof.Machine
end

