-- ==== Sys2Proof/Machine/HubState.lean ====
section
/-! DEFINITION. The state of the hub and of the memory system, as plain data. -/

namespace Sys2Proof.Machine

/-- An L2 line (R135, R137, R138), a home way or a guest copy: format tag, bytes per scale code, the sidecar with the address and the key
generation of its scale unit, pins, class and order of replacement. A home way names its guest dies and, while it has been written,
what HBM still holds (R133, R134). -/
structure L2Line where
  tag    : Nat
  bps    : Nat
  side   : BitVec 64
  unit   : Nat := 0
  sgen   : Bool := false
  world  : BitVec 10
  gen    : Bool
  pins   : Nat := 0
  guests : BitVec 8 := 0
  cls    : Nat := 0
  ord    : Int := 0
  hbm    : Option (BitVec 1024) := none
  kill   : List (Nat × Nat) := []  -- CINVs (core, operation) that invalidate it once it unpins (R325)
deriving DecidableEq, Repr

/-- A guest copy that has still to be invalidated after a write at its home (R134, R155): its die reads the old line until then. -/
structure Inv where
  line   : Nat
  die    : Nat
  old    : BitVec 1024
  oldGen : Bool
  src    : Nat                     -- die, number and clock of the write
  no     : Nat
  clk    : List Nat
  core   : Nat                     -- core, stream and operation of the write
  stream : Nat
  id     : Nat
  left   : Nat                     -- cycles until it is done of itself (log 5)
deriving DecidableEq, Repr

/-- A format range entry (R139). -/
structure FmtRange where
  base  : Word := 0
  len   : Word := 0
  scale : Word := 0
  ctl   : BitVec 32 := 0
deriving DecidableEq, Repr

/-- The module-level power state. -/
inductive RailSt | on | off
deriving DecidableEq, Repr

/-- An error-log entry (Table 2-8). -/
structure ErrEnt where
  cls    : Nat
  req    : Nat
  time   : Nat
  addr   : Word
  detail : BitVec 32
  world  : Nat
  status : Nat
deriving DecidableEq, Repr

/-- BLKCTL of one block, and the digests taken of its LK registers when it was locked (R25, R61). -/
structure Blk where
  lock   : Bool := false
  expert : Bool := false
  since  : Nat := 0                -- pod time of the lock
  digs   : Map (BitVec 512) := []  -- by register offset
deriving DecidableEq, Repr

/-- A sealed world (R50, R51). `root` is also held for world 0. -/
structure World where
  st     : Nat := 0                -- Table 3-2
  root   : Word := 0               -- page table root (R123)
  count  : Nat := 0                -- generation count
  live0  : Bool := false           -- generation of parity 0 live
  live1  : Bool := false
  k0     : BitVec 512 := 0         -- key pair of parity 0
  k1     : BitVec 512 := 0
  ranges : List (Nat × Nat) := []
  born   : Nat := 0                -- pod time of creation
  tdown  : Nat := 0                -- pod time TEARDOWN was accepted
  lockAt : Nat := 0                -- pod time of LOCKCFG (R62)
  wbuf   : Word := 0               -- receipt buffer
  walk   : Bool := false           -- the re-encryption walker has started (R52)
  wpos   : Nat := 0                -- lines of its ranges that the walker has passed
  rhash  : List Byte := []         -- hash of its watched ranges' final counters (R54)
  cleared : List (Nat × Nat × Nat) := [] -- scrub class counts: code, count, bytes
deriving DecidableEq, Repr

/-- A watched range (R56, R57). Counters by requester kind: read bytes, write bytes, first, last. -/
structure RRange where
  base  : Nat := 0
  len   : Nat := 0
  ctl   : BitVec 32 := 0
  cnt   : Map (Nat × Nat × Nat × Nat) := []
deriving DecidableEq, Repr

/-- A queue descriptor's fields as last read (Table 2-6). -/
structure QDesc where
  base   : Word := 0
  log    : Nat := 0
  prio   : Nat := 0
  world  : BitVec 10 := 0
  vec    : Nat := 0
  irq    : Bool := false
deriving DecidableEq, Repr

/-- A user queue (R27-R32). -/
structure UQueue where
  en     : Bool := false
  ready  : Bool := false
  since  : Nat := 0                -- order in which it became ready
  slot   : Option Nat := none      -- the hardware slot it is mapped on
  d      : QDesc := {}
  opbs   : List Nat := []          -- hub numbers of its OPBs in flight, in ring order
  doneIx : List Nat := []          -- ring indices completed beyond CIDX
deriving DecidableEq, Repr

/-- A hardware queue slot (R65). -/
structure HSlot where
  q      : Nat
  widx   : BitVec 32
  ridx   : BitVec 32
  cidx   : BitVec 32
  since  : Nat                     -- when mapped
  idle   : Option Nat              -- when it became idle
deriving DecidableEq, Repr

/-- An OPB in flight: its validated fields and the walker's progress (R63-R73). -/
structure Opb where
  q      : Nat
  index  : BitVec 32               -- ring index
  addr   : Word
  world  : BitVec 10
  prio   : Nat
  flags  : Nat
  ndim   : Nat
  ext    : List Nat
  n      : Nat
  cps    : Nat
  place  : Nat
  mask   : BitVec 512
  l1g    : Nat
  wdog   : Nat
  image  : Word
  inter  : Bool
  progress : Word
  args   : List Word
  waits  : List (Word × Word)
  sat    : List Nat                -- satisfied wait conditions
  retry  : Map Nat                 -- per wait: pod time + 1 before which a failing counter is not read again
  cdone  : Word
  cinc   : Word
  groups : List (Nat × Nat × Nat × Nat) -- slot, mode, BWDOG, mask
  sgdesc : Word
  next   : Nat                     -- next step to claim
  claimed : List Nat               -- claimed steps not yet placed
  running : List Nat               -- steps running
  done   : Nat                     -- steps completed
  finish : List Nat                -- steps whose jobs have ended and whose bit is still to be set
  bad    : List Nat                -- running steps with a contained core (R73)
  failed : Nat                     -- refusal code that the OPB will end with, 0 none
  stopCl : Bool                    -- no further claims
  tour   : Option Nat              -- its tournament scope
  starts : List (Nat × Nat)        -- step, pod time of placement
  page   : Option Word             -- a completion write waits on the paging service (R409)
deriving DecidableEq, Repr

/-- A group-table entry (R77). -/
structure Grp where
  members : BitVec 512 := 0
  kind   : Nat := 0
  slot   : Nat := 0
  world  : BitVec 10 := 0
  count  : Nat := 0
  arrived : BitVec 512 := 0        -- members arrived at the current barrier
  redacc : Word := 0               -- REDACC: a GRED's partial result
  epoch  : BitVec 32 := 0
  bwdog  : Nat := 0
  opb    : Word := 0
  what   : List (Nat × Nat × Word) := [] -- arrivals: core, instruction code, value
  opbNo  : Nat := 0
  step   : Nat := 0
  obj    : Nat := 0                -- sample group or tournament scope
  left   : Option Nat := none      -- barrier watchdog cycles left
  waits  : List (Nat × Nat × Nat) := [] -- GSTEP: core, engine, copy words to be acknowledged
  newMem : BitVec 512 := 0         -- members added at a round boundary, counted from the next EPOCH (R94)
deriving DecidableEq, Repr

/-- A sibling of a sample group (Table 5-2). -/
structure Sib where
  st     : Nat := 0                -- status code; 0 while PENDING or RUNNING
  running : Bool := false
  reward : BitVec 32 := 0
  cores  : List Nat := []
  fail   : Bool := false           -- a core of it has been contained; the hub has not decided its state yet (R84)
  paused : Bool := false
deriving DecidableEq, Repr

/-- A sample group (R82-R89). -/
structure SGrp where
  grp    : Nat                     -- its group-table entry
  slot   : Nat
  parents : List Nat               -- parent cores whose job has not ended
  opb    : Nat
  step   : Nat
  n      : Nat
  minrew : Nat
  out    : Word
  deadline : Nat
  eps    : BitVec 32
  seed   : Word
  tmpl   : Word
  prio   : Nat
  world  : BitVec 10
  sibs   : Map Sib
  run    : Nat                     -- running pod time since FORK, ns
  st     : Nat                     -- 0 running, 1 paused, 2 collected
  status : Nat
  nwait  : List (Nat × Nat)        -- SGWAITs waiting: core, context
  waited : Bool                    -- some SGWAIT waited at collection
deriving DecidableEq, Repr

/-- A rival of a tournament (R91-R97). -/
structure Rival where
  start  : Word
  grow   : Word
  grp    : Nat
  score  : Word := 0
  cores  : List Nat := []          -- by rank
  parcels : Nat := 0
  oversh : Nat := 0
  lastP  : Nat := 0                -- parcels and overshoot of the last round ranked
  lastO  : Nat := 0
  st     : Nat := 1                -- Table of R97
  rank   : Nat := 0xFF
  elim   : Nat := 0xFF
  stopped : List Nat := []         -- cores stopped at this round's end
  asked  : Bool := false           -- its stop has been requested
  yield  : Bool := false
  dead   : List Nat := []          -- cores to be dealt at the next boundary
deriving DecidableEq, Repr

/-- A tournament scope (R90). -/
structure Tour where
  opb    : Nat
  nround : Nat
  cmp    : Nat
  a0     : Nat
  out    : Nat
  round  : Nat
  rivals : Map Rival
  last   : Bool                    -- the winner runs on without an allowance
  frozen : Bool                    -- the scope is pre-empted
  bound  : Bool                    -- a round has been ranked and its boundary is not done yet
deriving DecidableEq, Repr

/-- A request on its way to the hub, or there and not yet answered. -/
structure HubReq where
  core   : Nat
  ctx    : Nat
  flight : Nat
  kind   : Option JobKind          -- what the job that issued it is to the hub
  i      : Instr
  a      : Word
  b      : Word
  world  : BitVec 10
  left   : Nat                     -- cycles until it reaches the hub of itself (log 5)
  here   : Bool := false           -- it reached the hub in an earlier cycle and waits there
deriving DecidableEq, Repr

/-- A fault-ring entry (R206). -/
structure FaultEnt where
  seq    : BitVec 32
  world  : BitVec 10
  flags  : Nat
  va     : Word
  time   : Nat
  waiters : List (Nat × Nat)       -- core and 0 the core itself, 1-2 engine, 3 kiln, 4-7 port + 4; 8 hub write of OPB
deriving DecidableEq, Repr

/-- A switched-out job (R203): its save area, and what else of the core the hardware holds for it. -/
structure Saved where
  core   : Nat                     -- the core it left, or the one it has been placed on
  pa     : Nat                     -- where its save area (Table 10-4) stands in the world's memory
  len    : Nat                     -- bytes of the area
  placed : Bool                    -- a dispatch opportunity has given it its core (R88)
  ncore  : Nat                     -- bytes of image, records and slots in it: n
  ncap   : Nat                     -- c
  keep   : Core
deriving DecidableEq, Repr

/-- A trace buffer and the debug registers (R211-R216). -/
structure Trc where
  sel    : BitVec 32 := 0
  buf    : Word := 0
  base   : Word := 0
  size   : Word := 0
  wr     : Nat := 0
  rd     : Word := 0
  ctl    : BitVec 32 := 0
  drop   : BitVec 32 := 0
  seq    : Nat := 0
  lost   : Nat := 0                -- records dropped since the last one placed
  fwthr  : BitVec 32 := 0
  cntsel : BitVec 32 := 0
  mask   : BitVec 512 := 0
  rpstat : BitVec 32 := 0
deriving DecidableEq, Repr

/-- A window of a replay (R220): addresses of the program, and the buffer that stands for them. -/
structure Win where
  va    : Nat
  buf   : Nat
  scale : Nat
  len   : Nat
  tag   : Nat
  bps   : Nat
deriving DecidableEq, Repr

/-- A replay in progress (R220, R221): the engine, its words and windows, what the word in progress has overwritten, how it ended, and
what is put back then. -/
structure Replay where
  kiln   : Bool
  core   : Nat                     -- the engine's core, or the kiln's first one
  eng    : Nat                     -- engine 0 or 1, or the kiln
  words  : Nat
  nwords : Nat
  done   : Nat := 0
  wins   : List Win
  undo   : List (Nat × Byte) := [] -- newest first
  fin    : Option Nat := none      -- ERR of R222 once it has ended
  held   : Bool := false           -- its word is a KDRAIN whose drain still runs
  saveE  : Eng
  saveK  : Kiln
  cnt    : BitVec 32
  seed   : BitVec 32
deriving DecidableEq, Repr

/-- A CHALLENGE whose response has not been sent (R60). -/
structure Chal where
  tag    : BitVec 16
  slot   : Nat
  time   : Nat                     -- pod time of its arrival
  cert   : List Byte               -- the slot's contents then
  nonce  : BitVec 256
  left   : Nat                     -- cycles until its response is sent (log 5)
deriving DecidableEq, Repr

/-- SPDM and certificate state (R59, R60). -/
structure Spdm where
  slots  : Map (List Byte) := []   -- slots 1-7
  held   : Map (List Byte) := []   -- deferred writes
  chal   : List Chal := []         -- open challenges, oldest first
deriving DecidableEq, Repr

/-- What the hub still owes on the management channel: a reply with its tag, a kind (0 SUMMARY, 1 IMGSEAL, 2 IMGCHECK match, 3 IMGCHECK
mismatch, 4 ICINVW) and its data. -/
structure Owed where
  tag    : BitVec 16
  kind   : Nat
  data   : List Byte
  left   : Nat                     -- cycles until it is sent (log 5)
deriving DecidableEq, Repr

/-- A remote FINC in transit (R107). -/
structure FincReq where
  src    : Nat                     -- source core * 4 + context
  core   : Nat
  flag   : Nat
  val    : BitVec 32
  world  : BitVec 10
  wide   : Nat                     -- scope code + 1 of its release, 0 for none
  clk    : List Nat := []          -- the clock it carries (R155)
  left   : Nat                     -- cycles until it arrives of itself (log 5)
deriving DecidableEq, Repr

/-- A link unit, or a piece of one, in transit (R391-R395). -/
structure LinkUnit where
  src    : Nat                     -- sending core
  eng    : Nat
  accel  : BitVec 10               -- target module
  core   : Nat                     -- target core
  teng   : Nat
  chan   : Nat
  world  : BitVec 10
  gen    : Bool
  off    : Nat                     -- offset in the sender's channel stream
  len    : Nat                     -- bytes of the piece
  last   : Bool                    -- the last piece of its unit
  data   : List Byte               -- ciphertext, in whole 16-byte units, of a sealed world
  target : Word                    -- c(n+1), for ADDR of a refusal
  id     : Nat := 0                -- its number among the core's operations
  clk    : List Nat := []          -- the clock it carries (R155)
  sentAt : Nat := 0                -- pod time at which it left (R16)
  left   : Nat                     -- cycles until it arrives of itself (log 5)
deriving DecidableEq, Repr

/-- The hub. -/
structure Hub where
  rails   : RailSt := .on
  rstep   : Nat := 1               -- reset step in progress, 6 when done (R12)
  warm    : Bool := false          -- the last reset was a warm one
  hif     : Nat := 0               -- HIFSTAT.STATE (Table 2-1)
  cause   : Nat := 0
  badstep : Nat := 0
  clkstep : Nat := 0               -- 0-3: 1.7, 1.5, 1.2, 0.85 GHz (R7)
  thrott  : BitVec 32 := 0         -- throttle counter (R9)
  wall    : Nat := 0               -- time since the release of reset, in 1/1,020,000 ns (R12)
  hot     : Nat := 0               -- `wall` when a condition of R9 was last seen to hold
  plim    : BitVec 32 := 0         -- POWER step limits (log 12)
  podTime : BitVec 64 := 0
  phase   : Nat := 0               -- fraction of a nanosecond, in 1/1,020,000 ns
  ptSlew  : Int := 0               -- correction still to be slewed, in the same unit (R18)
  ptRun   : Bool := false          -- PTSTAT (Table 1-4)
  ptSync  : Bool := false
  ptSrc   : Bool := false
  ptLost  : Bool := false
  ptOffs  : BitVec 16 := 0
  accid   : BitVec 10 := 0
  ptsrcid : BitVec 10 := 0
  ports   : BitVec 16 := 0xFFFF    -- trained UALink ports (log 12)
  log     : Map ErrEnt := []       -- error log by SEQ, the newest 1,024
  errpos  : BitVec 32 := 0
  blks    : Map Blk := []
  qtbase  : Word := 0
  qbusy   : Bool := false
  dbgBusy : Map Nat := []          -- by core, cycles until the debug command in progress on it ends (R211)
  qid     : Nat := 0
  queues  : Map UQueue := []
  hslots  : Map HSlot := []
  order   : Nat := 0               -- numbers ready, map and idle moments
  irqd    : List Nat := []         -- queues whose interrupt has been sent in this hub cycle (R34)
  worlds  : Map World := []
  wfunc   : Map (BitVec 10) := []
  wstat   : BitVec 32 := 0
  wbuf    : Word := 0
  rlsel   : BitVec 32 := 0
  rranges : Map RRange := []
  rlhead  : BitVec 32 := 0
  rlring  : Word := 0
  meas    : Map (BitVec 512) := []
  spdm    : Spdm := {}
  oc      : Nat := 0               -- dispatch opportunities (R67)
  served  : Map Nat := []          -- per level: OC + 1 at its last service
  rr      : Map Nat := []          -- per level: slot of the round in progress + 1
  defs    : Map Nat := []          -- deficits: slots 0-63, and 64 + q for what a disabled queue has left
  opbs    : Map Opb := []
  nextOpb : Nat := 0
  resv    : Map Nat := []          -- reserved cores: pod time of expiry + 1
  resvFor : Map (Nat × Word) := [] -- the queue and the OPB address they are reserved for
  durs    : List Nat := []         -- durations of the last 1,024 steps, newest first
  groups  : Map Grp := []
  sgrps   : Map SGrp := []
  tours   : Map Tour := []
  reqs    : List HubReq := []
  sibq    : List (Nat × Nat) := [] -- pending siblings to place: group, index
  fqbase  : Word := 0
  fqset   : Bool := false          -- FQBASE written since reset
  fqhead  : BitVec 32 := 0
  faults  : List FaultEnt := []    -- enqueued, not completed
  fwait   : List FaultEnt := []    -- waiting for a free entry (R207)
  fqfull  : Nat := 0               -- counter 8
  fqovf   : Bool := false
  stopAsks : List (Nat × Nat × Nat × Nat) := [] -- stop requests on their way to a rival's cores: scope, rival, core, cycles left (R406, R407)
  fqnew   : Nat := 0               -- its events in the current cycle, and whether a write of CNTVAL has cleared it in this cycle (R218)
  fqclr   : Bool := false
  trc     : Trc := {}
  replay  : Option Replay := none
  saved   : List Saved := []       -- switched-out jobs
  fincs   : List FincReq := []     -- remote FINCs in transit (R107)
  units   : List LinkUnit := []    -- link units in transit (R392)
  sumRep  : Option Owed := none    -- a SUMMARY in progress
  imgRep  : Option Owed := none    -- an IMGSEAL, IMGCHECK or ICINVW in progress
  walkAt  : Nat := 0               -- pod time of the last walker pass (R61)
deriving DecidableEq, Repr

end Sys2Proof.Machine
end

