-- ==== Sys2Proof/Machine/State.lean ====
section
/-! DEFINITION. The state of one Plovis Z8 module, the ways a step can stop, and the state after reset. -/

namespace Sys2Proof.Machine

/-- Why a step stops. -/
inductive Fault where
  /-- Raised by an event row executed in a state in which that event cannot occur; nothing real does this,
  so the machine is stuck. Safe: the model stops where the hardware has no such step. -/
  | notEnabled
  /-- Raised by an encoded instruction executed while no stream is issuing (State.cur); it happens only when
  exec is called outside a step. Safe. -/
  | noIssuer
deriving DecidableEq, Repr

/-- Why an instruction has no meaning. -/
inductive Refusal where
  /-- The instruction is not modelled yet; raised by Dispatch only. Safe. -/
  | notModelled (mnemonic : String)
deriving DecidableEq, Repr

/-- Statuses of management-channel replies (R11, R36, R59, R249). -/
inductive MgmtSt | ok | short | busy | mismatch | badWorld | refused (status : Nat) | spdmError (code : Nat)
deriving DecidableEq, Repr

/-- What the module sends to the outside. -/
inductive Out
  | status (fn : BitVec 6) (st : Nat) (data : Word)   -- an MMIO completion (Table 2-5)
  | irq (fn : BitVec 6) (vec : Nat)                   -- an interrupt to a function
  | hubIrq                                            -- the hub general cores' own interrupt (R210)
  | hostRead (fn : BitVec 6) (data : Option (List Byte))
  | mgmt (tag : BitVec 16) (st : MgmtSt) (data : List Byte)
  | report (link : Nat) (data : List Byte)            -- a residency report on a link (R81)
  | peer (data : Option (List Byte))                  -- a reply to a peer module
  | notify (fn : BitVec 6) (st : Nat)
  | unit (u : LinkUnit)                               -- a link unit to another module, with what R395 has it name (R392)
deriving DecidableEq, Repr

/-- What the syllable being executed does to its parcel: it goes, stalls or stops it, or holds the core first (R128). -/
inductive Verdict | go | stall | stop | hold
deriving DecidableEq, Repr

/-- Who issues the instruction being executed. -/
structure Cur where
  core    : Nat := 0
  src     : Nat := 7               -- 0 L, 1 K, 2 S, 3 C0, 4 C1, 5 M, 6 flue; 7 nobody
  slot    : Nat := 0
  pc      : Word := 0
  tok     : Option (BitVec 2) := none
  settok  : Bool := false
  kiln    : Nat := 0
  verdict : Verdict := .go
  jump    : Option Word := none    -- a taken transfer's target
  late    : Bool := false          -- the next parcel issues no earlier than issue + 3 (R273)
  lexit   : Bool := false          -- LEXIT wins over the loop test (R284)
  push    : Option LoopEnt := none -- the loop that its LOOP opens, once the loops that end at its parcel have been tested (R282, R283)
  skip    : Bool := false          -- the jump is a LOOP's or LOOPM's own next parcel: no transfer (R283)
  brlc    : Bool := false
  srs     : Nat := 0               -- SRCNT captures made by earlier slots of the parcel (R176)
  first   : Nat := 0               -- number of its parcel's first operation
  dry     : Bool := false          -- second attempt of a parcel in one cycle (R105)
deriving DecidableEq, Repr

/-- One act of the module's agents, or an outside event. -/
inductive Act
  | cycle (c : Nat)                -- a core's SCYC advances, results land, pending stops are taken
  | present (c : Nat)              -- accesses reach the request port (R398)
  | parcel (c x : Nat) (again : Bool) -- a bundle context tries to issue
  | engine (c e : Nat)             -- a copy engine works for one cycle
  | mword (c : Nat)                -- the M stream works for one cycle
  | port (c p : Nat)               -- a transfer unit works for one cycle
  | edge (c : Nat)                 -- the cycle's edge: stops, rendezvous, job end
  | kiln (k : Nat)                 -- a kiln's grants and drain for one cycle
  | flue (k : Nat)                 -- one flue instruction
  | hub                            -- hub timers
  | event (i : Instr) (inp : Inp)  -- a row that is no encoded instruction, from outside
  | attempt (i : Instr) (inp : Inp) -- an event of the module's own: it happens if it can occur now
deriving DecidableEq, Repr

/-- The whole module. -/
structure State where
  cores   : Map Core := []
  kilns   : Map Kiln := []
  mem     : Mem := []              -- local HBM
  gens    : Map Bool := []         -- generation bit per 128-byte line (R51)
  hostMem : Mem := []              -- host memory behind the hub
  peerMem : Mem := []              -- memory of peer modules: accelerator id * 2^40 + address
  l2      : Map L2Line := []       -- by line number: 9 * line a home way, 9 * line + 1 + die a guest copy
  invs    : List Inv := []         -- invalidations of guest copies under way, oldest first (R134, R155)
  clks    : Map (List Nat) := []   -- while there are any: the clocks of the writes applied to a line
  dieWr   : Map Nat := []          -- HBM writes issued so far, per die (R155)
  ltlb    : Map (List TlbEnt) := []-- last-level TLB per die
  fmts    : Map FmtRange := []
  hub     : Hub := {}
  clock   : Nat := 0               -- module cycles
  script  : List Act := []         -- acts and outside events still to come (log 10)
  cur     : Cur := {}
  inp     : Inp := {}              -- data of the event being executed
  free    : Nat := 0               -- free values drawn so far (log 5)
  rtag    : List (Nat × Nat) := [] -- what a unit's reads of a sealed world since the last clear are bound to: generation count + 1,
                                   -- and the address (R51)
  out     : List Out := []
deriving DecidableEq, Repr

/-- The module right after reset (R11): every field is clear but those whose reset value the spec or a log
entry names, which the field defaults hold. -/
def State.reset : State := {}

end Sys2Proof.Machine
end

