-- ==== Sys2Proof/Machine/Bytes.lean ====
section
/-! DEFINITION. Sparse stores and bytes: the one form in which registers, memories and tables are held, and the
little-endian reading of byte lists (R166, R227). -/

namespace Sys2Proof.Machine

/-- The value of an entry, `d` where none is listed. -/
def mget {α : Type} (d : α) : Map α → Nat → α
  | [], _ => d
  | (k, v) :: m, n => if k = n then v else mget d m n

/-- Remove an entry. -/
def mdel {α : Type} : Map α → Nat → Map α
  | [], _ => []
  | (k, v) :: m, n => if k = n then mdel m n else (k, v) :: mdel m n

/-- Insert an entry that is not listed, in rising order. -/
def mins {α : Type} : Map α → Nat → α → Map α
  | [], n, x => [(n, x)]
  | (k, v) :: m, n, x => if n < k then (n, x) :: (k, v) :: m else (k, v) :: mins m n x

/-- Write an entry, keeping the form: the default is not listed. -/
def mput {α : Type} [DecidableEq α] (d : α) (m : Map α) (n : Nat) (x : α) : Map α :=
  if x = d then mdel m n else mins (mdel m n) n x

/-- Change an entry. -/
def mmod {α : Type} [DecidableEq α] (d : α) (m : Map α) (n : Nat) (f : α → α) : Map α :=
  mput d m n (f (mget d m n))

/-- The entry if it is listed. -/
def mfind {α : Type} (m : Map α) (n : Nat) : Option α := mget none (m.map (fun e => (e.1, some e.2))) n

/-- Write an entry of a store without a default value. -/
def mset {α : Type} (m : Map α) (n : Nat) (x : α) : Map α := mins (mdel m n) n x

/-- Numbers rising and above `lo`. -/
def mrise {α : Type} (lo : Nat) : Map α → Bool
  | [] => true
  | (k, _) :: m => lo ≤ k && mrise (k + 1) m

/-- The canonical form: numbers rising, no entry equal to the default. -/
def Map.wfD {α : Type} [DecidableEq α] (d : α) (m : Map α) : Bool :=
  mrise 0 m && m.all (fun e => e.2 != d)

/-- The canonical form of a memory: addresses rising, no byte 0 listed (log 1). -/
def Memory.wf (m : Mem) : Bool := Map.wfD (0 : Byte) m

/-- What a byte of memory reads as. -/
def rdB (m : Mem) (a : Nat) : Byte := mget 0 m a
def wrB (m : Mem) (a : Nat) (b : Byte) : Mem := mput 0 m a b

/-- `n` bytes from an address up. -/
def rdBs (m : Mem) (a n : Nat) : List Byte := (List.range n).map (fun k => rdB m (a + k))

/-- Write bytes from an address up, the first at the lowest address. -/
def wrBs : Mem → Nat → List Byte → Mem
  | m, _, [] => m
  | m, a, b :: bs => wrBs (wrB m a b) (a + 1) bs

/-- The number a byte list spells, little-endian. -/
def leNat : List Byte → Nat
  | [] => 0
  | b :: bs => b.toNat + 256 * leNat bs

/-- The `n` low bytes of a number, little-endian. -/
def leBytes : Nat → Nat → List Byte
  | 0, _ => []
  | n + 1, v => BitVec.ofNat 8 v :: leBytes n (v / 256)

def rdN (m : Mem) (a n : Nat) : Nat := leNat (rdBs m a n)
def wrN (m : Mem) (a n v : Nat) : Mem := wrBs m a (leBytes n v)

/-- Bits [lo + len - 1 : lo] of a number. -/
def bits (v lo len : Nat) : Nat := v / 2 ^ lo % 2 ^ len
def tbit (v i : Nat) : Bool := v / 2 ^ i % 2 == 1

/-- A number with its bits [lo + len - 1 : lo] replaced. -/
def setBits (v lo len x : Nat) : Nat :=
  v % 2 ^ lo + (x % 2 ^ len) * 2 ^ lo + v / 2 ^ (lo + len) * 2 ^ (lo + len)

/-- Two's-complement value of the low `n` bits. -/
def sextN (n v : Nat) : Int :=
  let u := v % 2 ^ n
  if 2 * u < 2 ^ n then (u : Int) else (u : Int) - (2 ^ n : Nat)

/-- The low `n` bits of an integer. -/
def wrapN (n : Nat) (z : Int) : Nat := (z % ((2 ^ n : Nat) : Int)).toNat

/-- An integer as a 64-bit word. -/
def wordOf (z : Int) : Word := BitVec.ofInt 64 z

/-- A byte list as a number of 8 bits each, padded to `n` bytes. -/
def padTo (n : Nat) (bs : List Byte) : List Byte := bs.take n ++ List.replicate (n - bs.length) 0

/-- Element `n` of a list of numbers, 0 beyond its end. -/
def nthN (l : List Nat) (n : Nat) : Nat := l.getD n 0
def nthW (l : List Word) (n : Nat) : Word := l.getD n 0

end Sys2Proof.Machine
end

