-- ==== Sys2Proof/Machine/Number.lean ====
section
/-! DEFINITION. Number formats and arithmetic (chapter 9): exact values, the one rounding rule, conversions, the
LNS6 format, MX block scaling and stochastic rounding. A value is a sign, a natural mantissa and a power of
two; nothing is rounded before the end. -/

namespace Sys2Proof.Machine

/-- A floating-point datum: NaN, infinity, or (-1)^s * m * 2^e with m = 0 for a signed zero. -/
inductive FV
  | nan (signalling : Bool)
  | inf (s : Bool)
  | fin (s : Bool) (m : Nat) (e : Int)
deriving DecidableEq, Repr

/-- FPST bits (R184). -/
abbrev fNX : Nat := 1
abbrev fUF : Nat := 2
abbrev fOF : Nat := 4
abbrev fDZ : Nat := 8
abbrev fNV : Nat := 16
abbrev fISAT : Nat := 32

/-- Number of significant bits. -/
def bitlen (n : Nat) : Nat := if n = 0 then 0 else Nat.log2 n + 1

/-- 2^k for an integer k, as a shift of a mantissa: m * 2^k rounded down. -/
def shiftN (m : Nat) (k : Int) : Nat := if 0 ≤ k then m * 2 ^ k.toNat else m / 2 ^ (-k).toNat

/-- Fields of a binary floating format (Table 9-2): mantissa bits, exponent bits, bias, largest finite code,
infinity code (none: 0), canonical NaN code. -/
structure FSpec where
  mb   : Nat
  eb   : Nat
  bias : Nat
  maxc : Nat
  infc : Nat
  nanc : Nat
deriving DecidableEq, Repr

def fspec : Fmt → FSpec
  | .fp16 => ⟨10, 5, 15, 0x7BFF, 0x7C00, 0x7E00⟩
  | .bf16 => ⟨7, 8, 127, 0x7F7F, 0x7F80, 0x7FC0⟩
  | .e4m3 => ⟨3, 4, 7, 0x7E, 0, 0x7F⟩
  | .e5m2 => ⟨2, 5, 15, 0x7B, 0x7C, 0x7E⟩
  | .e2m1 => ⟨1, 2, 1, 0x7, 0, 0⟩
  | _ => ⟨23, 8, 127, 0x7F7FFFFF, 0x7F800000, 0x7FC00000⟩

/-- Exponent of one unit of the last place of the subnormals. -/
def FSpec.qmin (f : FSpec) : Int := 1 - (f.bias : Int) - (f.mb : Int)

/-- lnstab, the FP32 patterns of Table 9-3. -/
def lnstabStd : List Nat := [0x3F800000, 0x3F9837F0, 0x3FB504F3, 0x3FD744FD]

/-- The exact value of an FP32 pattern's magnitude. -/
def fp32Mag (c : Nat) : Nat × Int :=
  let e := bits c 23 8
  let m := bits c 0 23
  if e = 0 then (m, -149) else (2 ^ 23 + m, (e : Int) - 150)

/-- floor division by 4 of a two's-complement 5-bit code (R170). -/
def lnsQ (c : Nat) : Int := sextN 5 c

/-- The magnitude of an LNS6 code with scale 127 through a product table (R170, R172). -/
def lnsMagQ (tab : List Nat) (q : Int) : Nat × Int :=
  let i := q / 4
  let f := (q - 4 * i).toNat
  let (m, e) := fp32Mag (nthN tab f)
  (m, e + i)

def lnsVal (c : Nat) : FV :=
  if bits c 0 6 = 0x10 then .fin false 0 0
  else if bits c 0 6 = 0x30 then .nan false
  else let (m, e) := lnsMagQ lnstabStd (lnsQ c); .fin (tbit c 5) m e

/-- The value of a code of a format (R165-R167, R170); a signalling NaN has its top mantissa bit clear (log 16). -/
def valOf (f : Fmt) (c : Nat) : FV :=
  match f with
  | .int8 | .int16 | .int32 =>
      let z := sextN f.bits c
      .fin (z < 0) z.natAbs 0
  | .uint8 | .uint16 | .uint32 => .fin false (c % 2 ^ f.bits) 0
  | .lns6 => lnsVal c
  | .e8m0 => if c % 256 = 255 then .nan false else .fin false 1 ((c % 256 : Nat) - 127 : Int)
  | _ =>
    let p := fspec f
    let w := f.bits
    let s := tbit c (w - 1)
    let e := bits c p.mb p.eb
    let m := bits c 0 p.mb
    if p.infc ≠ 0 ∧ e = 2 ^ p.eb - 1 then
      if m = 0 then .inf s else .nan (m < 2 ^ (p.mb - 1))
    else if f = .e4m3 ∧ bits c 0 7 = 0x7F then .nan false
    else if e = 0 then .fin s m p.qmin
    else .fin s (2 ^ p.mb + m) (p.qmin + (e : Int) - 1)

/-- A subnormal of FP32, FP16 or BF16. -/
def isSub (f : Fmt) (c : Nat) : Bool :=
  f.isFP && bits c (fspec f).mb (fspec f).eb == 0 && bits c 0 (fspec f).mb != 0

/-- An operand as read, with FTZ (R169). -/
def rdVal (ftz : Bool) (f : Fmt) (c : Nat) : FV :=
  if ftz && isSub f c then .fin (tbit c (f.bits - 1)) 0 0 else valOf f c

/-- mix32 of R175. -/
def mix32 (z : BitVec 32) : BitVec 32 :=
  let z := z ^^^ (z >>> 16)
  let z := z * 0x7FEB352D#32
  let z := z ^^^ (z >>> 15)
  let z := z * 0x846CA68B#32
  z ^^^ (z >>> 16)

/-- sr_word(e) of R175. -/
def srWord (seed cnt : BitVec 32) (e : Nat) : Nat :=
  (mix32 (seed ^^^ (cnt * 0x9E3779B9#32) ^^^ BitVec.ofNat 32 e) >>> 16).toNat

/-- sr_rounds_up(D, d) of R175 with the word r. -/
def srUp (r D d : Nat) : Bool :=
  if d = 0 then false
  else if 16 < d then 2 ^ 16 ≤ D / 2 ^ (d - 16) + r
  else 2 ^ d ≤ D + r / 2 ^ (16 - d)

/-- Whether a magnitude with kept part k and discarded fraction D of d bits rounds up (R174, R175). -/
def roundsUp (rnd : RndK) (s : Bool) (r k D d : Nat) : Bool :=
  match rnd with
  | .rne | .dyn => 2 ^ d < 2 * D || (2 * D == 2 ^ d && d != 0 && k % 2 == 1)
  | .rz => false
  | .rdn => s && D != 0
  | .rup => !s && D != 0
  | .rna => d != 0 && 2 ^ d ≤ 2 * D
  | .sr => srUp r D d

/-- A magnitude m * 2^e rounded to an integer multiple of 2^q: the multiple, and whether it is exact. -/
def roundAt (rnd : RndK) (s : Bool) (r m : Nat) (e q : Int) : Nat × Bool :=
  if q ≤ e then (m * 2 ^ (e - q).toNat, true)
  else
    let d := (q - e).toNat
    let k := m / 2 ^ d
    let D := m % 2 ^ d
    (if roundsUp rnd s r k D d then k + 1 else k, D == 0)

/-- Sign bit of a format. -/
def signBit (f : Fmt) (s : Bool) : Nat := if s then 2 ^ (f.bits - 1) else 0

/-- An overflowing result (Table 9-4). -/
def ovf (f : Fmt) (rnd : RndK) (nanovf s : Bool) : Nat :=
  let p := fspec f
  match f with
  | .e4m3 => if nanovf then 0x7F else p.maxc + signBit f s
  | .e2m1 => p.maxc + signBit f s
  | _ =>
    let toInf := match rnd with
      | .rz => false
      | .rdn => s
      | .rup => !s
      | _ => true
    (if toInf then p.infc else p.maxc) + signBit f s

/-- Rounding a finite value into a binary format, with flags (R174, R177). -/
def roundBin (f : Fmt) (rnd : RndK) (nanovf : Bool) (r : Nat) (s : Bool) (m : Nat) (e : Int) : Nat × Nat :=
  if m = 0 then (signBit f s, 0)
  else
    let p := fspec f
    let q := max (e + (bitlen m : Int) - 1 - (p.mb : Int)) p.qmin
    let (k, ex) := roundAt rnd s r m e q
    let c := (q - p.qmin).toNat * 2 ^ p.mb + k
    if p.maxc < c then (ovf f rnd nanovf s, fOF + fNX)
    else
      let tiny := !ex && c != 0 && c < 2 ^ p.mb
      (c + signBit f s, (if ex then 0 else fNX) + (if tiny then fUF else 0))

/-- Compare two magnitudes m * 2^e. -/
def magLe (m1 : Nat) (e1 : Int) (m2 : Nat) (e2 : Int) : Bool :=
  let e := min e1 e2
  m1 * 2 ^ (e1 - e).toNat ≤ m2 * 2 ^ (e2 - e).toNat

/-- m1*2^e1 - m2*2^e2 as a natural at exponent `e`, which is at most both. -/
def magSubAt (e : Int) (m1 : Nat) (e1 : Int) (m2 : Nat) (e2 : Int) : Nat :=
  m1 * 2 ^ (e1 - e).toNat - m2 * 2 ^ (e2 - e).toNat

/-- The magnitude of the LNS6 code number n in rising order: 0 is zero, n is q = n - 16. -/
def lnsRank (n : Nat) : Nat × Int := if n = 0 then (0, 0) else lnsMagQ lnstabStd ((n : Int) - 16)

/-- The largest n below `k` whose magnitude is at most m * 2^e. -/
def lnsFind (m : Nat) (e : Int) : Nat → Nat
  | 0 => 0
  | k + 1 => if magLe (lnsRank (k + 1)).1 (lnsRank (k + 1)).2 m e then k + 1 else lnsFind m e k

/-- Rounding a finite value into LNS6 (R173). -/
def roundLns (rnd : RndK) (r : Nat) (s : Bool) (m : Nat) (e : Int) : Nat × Nat :=
  let code (n : Nat) : Nat := if n = 0 then 0x10 else (n + 16) % 32 + (if s then 0x20 else 0)
  let n := lnsFind m e 31
  let lo := lnsRank n
  let exact := m == 0 || magLe m e lo.1 lo.2
  if exact then (code n, 0)
  else if n = 31 then (code 31, fOF + fNX)
  else
    let hi := lnsRank (n + 1)
    let b := min (min e lo.2) hi.2
    let dl := magSubAt b m e lo.1 lo.2
    let dh := magSubAt b hi.1 hi.2 m e
    let up := match rnd with
      | .rz => false
      | .rdn => s
      | .rup => !s
      | .rna => dh ≤ dl
      | .sr => srUp r (dl * 2 ^ 16 / (dl + dh)) 16
      | _ => dh < dl || (dh == dl && n % 2 == 1)
    (code (if up then n + 1 else n), fNX)

/-- Conversion into E8M0 (Table 9-4). -/
def roundE8 (s : Bool) (m : Nat) (e : Int) : Nat × Nat :=
  if m = 0 then (0, fUF + fNX)
  else
    let z := e + (bitlen m : Int) - 1 + 127
    let c := if z < 0 then 0 else if 254 < z then 254 else z.toNat
    let same := !s && magLe m e 1 ((c : Int) - 127) && magLe 1 ((c : Int) - 127) m e
    (c, (if same then 0 else fNX) + (if 254 < z then fOF else 0))

/-- Range of an integer format. -/
def intMin (f : Fmt) : Int :=
  match f with
  | .int8 | .int16 | .int32 => -((2 ^ (f.bits - 1) : Nat) : Int)
  | _ => 0
def intMax (f : Fmt) : Int :=
  match f with
  | .int8 | .int16 | .int32 => ((2 ^ (f.bits - 1) : Nat) : Int) - 1
  | _ => ((2 ^ f.bits : Nat) : Int) - 1

/-- An exact integer clamped to a format's range: the code, and whether it was clamped. -/
def clampInt (f : Fmt) (z : Int) : Nat × Bool :=
  if z < intMin f then (wrapN f.bits (intMin f), true)
  else if intMax f < z then (wrapN f.bits (intMax f), true)
  else (wrapN f.bits z, false)

/-- Conversion of a value that is no integer-format value into an integer format (R178). -/
def toIntFmt (f : Fmt) (rnd : RndK) (r : Nat) (v : FV) : Nat × Nat :=
  match v with
  | .nan _ => (0, fNV + fISAT)
  | .inf s => (wrapN f.bits (if s then intMin f else intMax f), fNV + fISAT)
  | .fin s m e =>
    let (k, ex) := roundAt rnd s r m e 0
    let z : Int := if s then -(k : Int) else k
    let (c, sat) := clampInt f z
    (c, (if ex && !sat then 0 else fNX) + (if sat then fISAT else 0))

/-- Conversion of a value into a format (Table 9-4, R173, R178). -/
def cvtTo (f : Fmt) (rnd : RndK) (nanovf : Bool) (r : Nat) (v : FV) : Nat × Nat :=
  match f with
  | .int8 | .uint8 | .int16 | .uint16 | .int32 | .uint32 => toIntFmt f rnd r v
  | .lns6 =>
    match v with
    | .nan sg => (0x30, if sg then fNV else 0)
    | .inf s => (0x0F + (if s then 0x20 else 0), fOF + fNX)
    | .fin s m e => roundLns rnd r s m e
  | .e8m0 =>
    match v with
    | .nan sg => (0xFF, if sg then fNV else 0)
    | .inf _ => (0xFF, fNV)
    | .fin s m e => roundE8 s m e
  | _ =>
    match v with
    | .nan sg => if f = .e2m1 then (0, fNV) else ((fspec f).nanc, if sg then fNV else 0)
    | .inf s =>
      if (fspec f).infc = 0 then (ovf f rnd nanovf s, fOF + fNX) else ((fspec f).infc + signBit f s, 0)
    | .fin s m e => roundBin f rnd nanovf r s m e

/-- VCVT of one element (R346): integer to integer saturates, the same format keeps the code. -/
def cvtElem (src dst : Fmt) (rnd : RndK) (nanovf ftz : Bool) (r c : Nat) : Nat × Nat :=
  if src.isInt && dst.isInt then
    let z := if src = .int8 ∨ src = .int16 ∨ src = .int32 then sextN src.bits c else ((c % 2 ^ src.bits : Nat) : Int)
    let (k, sat) := clampInt dst z
    (k, if sat then fISAT else 0)
  else
    let v := rdVal ftz src c
    let (k, fl) :=
      if src = dst then
        match v with
        | .nan sg => (if src = .lns6 then 0x30 else if src = .e8m0 then 0xFF else (fspec dst).nanc, if sg then fNV else 0)
        | .fin s 0 _ => if src = .lns6 then (bits c 0 6, 0) else if src = .e8m0 then (c % 2 ^ src.bits, 0) else (signBit dst s, 0)
        | _ => (if src = .lns6 then bits c 0 6 else c % 2 ^ src.bits, 0)
      else cvtTo dst rnd nanovf r v
    if ftz && dst.isFP && isSub dst k then (signBit dst (tbit k (dst.bits - 1)), Nat.lor fl (fUF + fNX)) else (k, fl)

/-- Sum of two values (R174: a zero sum of opposite signs is +0, or -0 under rdn). -/
def fvAdd (rnd : RndK) (a b : FV) : FV × Nat :=
  match a, b with
  | .nan x, .nan y => (.nan false, if x || y then fNV else 0)
  | .nan x, _ => (.nan false, if x then fNV else 0)
  | _, .nan y => (.nan false, if y then fNV else 0)
  | .inf s, .inf t => if s = t then (.inf s, 0) else (.nan false, fNV)
  | .inf s, _ => (.inf s, 0)
  | _, .inf t => (.inf t, 0)
  | .fin s m e, .fin t n g =>
    let q := min e g
    let x : Int := (if s then -1 else 1) * ((m * 2 ^ (e - q).toNat : Nat) : Int)
    let y : Int := (if t then -1 else 1) * ((n * 2 ^ (g - q).toNat : Nat) : Int)
    let z := x + y
    if z = 0 then (.fin (if s = t then s else rnd = .rdn) 0 0, 0)
    else (.fin (z < 0) z.natAbs q, 0)

def fvNeg : FV → FV
  | .nan x => .nan x
  | .inf s => .inf (!s)
  | .fin s m e => .fin (!s) m e

def fvMul (a b : FV) : FV × Nat :=
  match a, b with
  | .nan x, .nan y => (.nan false, if x || y then fNV else 0)
  | .nan x, _ => (.nan false, if x then fNV else 0)
  | _, .nan y => (.nan false, if y then fNV else 0)
  | .inf s, .inf t => (.inf (s != t), 0)
  | .inf s, .fin t n _ => if n = 0 then (.nan false, fNV) else (.inf (s != t), 0)
  | .fin s m _, .inf t => if m = 0 then (.nan false, fNV) else (.inf (s != t), 0)
  | .fin s m e, .fin t n g => (.fin (s != t) (m * n) (e + g), 0)

/-- a * b + c before rounding; infinity times zero sets NV even when c is a NaN (R338). -/
def fvFma (rnd : RndK) (a b c : FV) : FV × Nat :=
  let (p, f1) := fvMul a b
  let (s, f2) := fvAdd rnd p c
  (s, Nat.lor f1 f2)

/-- a / b: a quotient with over 80 significant bits and a sticky lowest bit. -/
def fvDiv (a b : FV) : FV × Nat :=
  match a, b with
  | .nan x, .nan y => (.nan false, if x || y then fNV else 0)
  | .nan x, _ => (.nan false, if x then fNV else 0)
  | _, .nan y => (.nan false, if y then fNV else 0)
  | .inf _, .inf _ => (.nan false, fNV)
  | .inf s, .fin t _ _ => (.inf (s != t), 0)
  | .fin s _ _, .inf t => (.fin (s != t) 0 0, 0)
  | .fin s m e, .fin t n g =>
    if n = 0 then (if m = 0 then (.nan false, fNV) else (.inf (s != t), fDZ))
    else
      let k := 80 + bitlen n
      let q := m * 2 ^ k / n
      let r := m * 2 ^ k % n
      (.fin (s != t) (2 * q + (if r = 0 then 0 else 1)) (e - g - (k : Int) - 1), 0)

/-- Integer square root from the top bit down. -/
def isqrtGo (n : Nat) : Nat → Nat → Nat
  | 0, r => r
  | k + 1, r => if (r + 2 ^ k) * (r + 2 ^ k) ≤ n then isqrtGo n k (r + 2 ^ k) else isqrtGo n k r
def isqrt (n : Nat) : Nat := isqrtGo n (bitlen n / 2 + 1) 0

/-- The square root with over 80 significant bits and a sticky lowest bit. -/
def fvSqrt (a : FV) : FV × Nat :=
  match a with
  | .nan x => (.nan false, if x then fNV else 0)
  | .inf s => if s then (.nan false, fNV) else (.inf false, 0)
  | .fin s m e =>
    if m = 0 then (.fin s 0 0, 0)
    else if s then (.nan false, fNV)
    else
      let o := (e % 2).toNat
      let n := m * 2 ^ (o + 200)
      let q := isqrt n
      (.fin false (2 * q + (if q * q = n then 0 else 1)) ((e - (o : Int) - 200) / 2 - 1), 0)

/-- Round an arithmetic result into FP32, FP16 or BF16 with FTZ (R169, R174). -/
def finishFP (f : Fmt) (rnd : RndK) (ftz : Bool) (r : Nat) (x : FV × Nat) : Nat × Nat :=
  let (c, fl) := cvtTo f rnd false r x.1
  let (c, fl) := if ftz && isSub f c then (signBit f (tbit c (f.bits - 1)), Nat.lor fl (fUF + fNX)) else (c, fl)
  (c, Nat.lor x.2 fl)

/-- Order of two values that are no NaN: less, with -0 equal to +0. -/
def fvLt (a b : FV) : Bool :=
  match a, b with
  | .inf true, .inf true => false
  | .inf true, _ => true
  | _, .inf true => false
  | _, .inf false => (match a with | .inf false => false | _ => true)
  | .inf false, _ => false
  | .fin s m e, .fin t n g =>
    let q := min e g
    let x : Int := (if s then -1 else 1) * ((m * 2 ^ (e - q).toNat : Nat) : Int)
    let y : Int := (if t then -1 else 1) * ((n * 2 ^ (g - q).toNat : Nat) : Int)
    x < y
  | .nan _, _ => false
  | _, .nan _ => false

def fvIsNan : FV → Bool
  | .nan _ => true
  | _ => false
def fvIsSNan : FV → Bool
  | .nan x => x
  | _ => false
def fvIsZero : FV → Bool
  | .fin _ 0 _ => true
  | _ => false
def fvSign : FV → Bool
  | .inf s => s
  | .fin s _ _ => s
  | .nan _ => false

/-- Less, ordering -0 below +0 (R338, R320, R372). -/
def fvLtZ (a b : FV) : Bool :=
  if fvIsZero a && fvIsZero b then fvSign a && !fvSign b else fvLt a b

/-- The smaller (`mx` false) or the larger of two codes; a NaN gives the canonical NaN (R338). -/
def fvMinMax (f : Fmt) (ftz mx : Bool) (ca cb : Nat) : Nat × Nat :=
  let a := rdVal ftz f ca
  let b := rdVal ftz f cb
  if fvIsNan a || fvIsNan b then ((fspec f).nanc, if fvIsSNan a || fvIsSNan b then fNV else 0)
  else
    let pickB := if mx then fvLtZ a b else fvLtZ b a
    let v := if pickB then b else a
    ((cvtTo f .rne false 0 v).1, 0)

/-- fp32_add, one RNE rounding, subnormals kept (R294, R320, R394). -/
def fp32Add (a b : Nat) : Nat := (finishFP .fp32 .rne false 0 (fvAdd .rne (valOf .fp32 a) (valOf .fp32 b))).1

/-- The larger FP32 value with -0 below +0 and the canonical NaN for a NaN (R320). -/
def fp32Max (a b : Nat) : Nat := (fvMinMax .fp32 false true a b).1

/-- Multiply by a power of two. -/
def fvScale (k : Int) : FV → FV
  | .fin s m e => .fin s m (e + k)
  | v => v

/-- floor(log2) of a magnitude. -/
def flog2 (m : Nat) (e : Int) : Int := e + (bitlen m : Int) - 1

/-- emax of R179. -/
def mxEmax : Fmt → Int
  | .e2m1 => 2 | .e4m3 => 8 | .e5m2 => 15 | _ => 3

/-- The largest magnitude of a block as a pair, zero for none. -/
def blockMax : List FV → Nat × Int
  | [] => (0, 0)
  | .fin _ m e :: l => let r := blockMax l; if magLe r.1 r.2 m e then (m, e) else r
  | _ :: l => blockMax l

/-- mx_scale of R179, with its flags. -/
def mxScale (f : Fmt) (block : List FV) : Nat × Nat :=
  if block.any (fun v => match v with | .fin _ _ _ => false | _ => true) then (0xFF, fNV)
  else
    let (m, e) := blockMax block
    if m = 0 then (127, 0)
    else
      let z := flog2 m e - mxEmax f + 127
      (if z < 0 then 0 else if 254 < z then 254 else z.toNat, 0)

/-- mx_element of R179: saturating conversion, NaN codes under scale 0xFF. -/
def mxElem (f : Fmt) (rnd : RndK) (r c : Nat) (x : FV) : Nat × Nat :=
  if c = 0xFF then ((cvtTo f .rne false 0 (.nan false)).1, 0)
  else
    match fvScale (127 - (c : Int)) x with
    | .fin s m e =>
      match f with
      | .lns6 => roundLns rnd r s m e
      | _ =>
        let (k, fl) := roundBin f rnd false r s m e
        if Nat.land fl fOF ≠ 0 then ((fspec f).maxc + signBit f s, fl) else (k, fl)
    | v => cvtTo f rnd false r v

/-- An MX element's value with its block scale code (R179). -/
def mxVal (f : Fmt) (code scale : Nat) : FV :=
  if scale = 0xFF then (match valOf f code with | .nan x => .nan x | _ => .nan false)   -- a signalling element stays one (R168)
  else fvScale ((scale : Int) - 127) (valOf f code)

/-- The exact product of two LNS6 elements through a kiln's table (R171, R172). -/
def lnsProduct (tab : List Nat) (a b ca cb : Nat) : FV :=
  if bits a 0 6 = 0x30 || bits b 0 6 = 0x30 || ca = 0xFF || cb = 0xFF then .nan false
  else if bits a 0 6 = 0x10 || bits b 0 6 = 0x10 then .fin false 0 0
  else
    let q := lnsQ a + lnsQ b
    let (m, e) := lnsMagQ tab q
    .fin ((tbit a 5).xor ((tbit b 5).xor (tbit (nthN tab (q - 4 * (q / 4)).toNat) 31))) m (e + (ca : Int) + (cb : Int) - 254)

/-- A special function's value on special operands (Table 9-5); none elsewhere. -/
def specialValue (k : Nat) (f : Fmt) (v : FV) : Option (FV × Nat) :=
  match v with
  | .nan x => some (.nan false, if x then fNV else 0)
  | .inf s =>
    some (match k with
      | 0 => (.fin s 0 0, 0)
      | 1 => if s then (.nan false, fNV) else (.fin false 0 0, 0)
      | 2 => if s then (.fin false 0 0, 0) else (.inf false, 0)
      | 3 => if s then (.nan false, fNV) else (.inf false, 0)
      | 4 => (.fin s 1 0, 0)
      | _ => if s then (.fin false 0 0, 0) else (.fin false 1 0, 0))
  | .fin s m e =>
    if m = 0 then
      (match k with
        | 0 | 1 => some (.inf s, fDZ)
        | 2 => none
        | 3 => some (.inf true, fDZ)
        | 4 => some (.fin s 0 0, 0)
        | _ => some (.fin false 1 (-1), 0))
    else if (k = 1 ∨ k = 3) ∧ s then some (.nan false, fNV)
    else if k = 2 ∧ !s ∧ magLe (2 ^ ((fspec f).eb - 1)) 0 m e then some (.inf false, fOF)
    else if k = 3 ∧ magLe m e 1 0 ∧ magLe 1 0 m e then some (.fin false 0 0, 0)
    else none

/-! The exact values of the special functions, in fixed point with 200 fraction bits: what the bounds of Table 9-5 are
measured against. -/

def fxOne : Nat := 2 ^ 200
/-- e^(t / fxOne) for t below fxOne. -/
def fxExp (t : Nat) : Nat :=
  ((List.range 60).foldl (fun (a : Nat × Nat) k => (a.1 + a.2, a.2 * t / fxOne / (k + 1))) (0, fxOne)).1
/-- artanh of z / fxOne, which is at most one third. -/
def fxAtanh (z : Nat) : Nat :=
  ((List.range 70).foldl (fun (a : Nat × Nat) k => (a.1 + a.2 / (2 * k + 1), a.2 * z / fxOne * z / fxOne)) (0, z)).1
/-- ln 2. -/
def fxLn2 : Nat := 2 * fxAtanh (fxOne / 3)
/-- m * 2^e in fixed point, at most `cap`. -/
def fxOf (cap m : Nat) (e : Int) : Nat := if magLe m e cap 0 then shiftN m (e + 200) else cap * fxOne
/-- 2^(x / fxOne), as a mantissa with 200 fraction bits and an exponent. -/
def fxExp2 (x : Int) : Nat × Int := (fxExp ((x % (fxOne : Int)).toNat * fxLn2 / fxOne), x / (fxOne : Int))
/-- e^(x / fxOne), in the same form. -/
def fxExpE (x : Int) : Nat × Int := fxExp2 (x * (fxOne : Int) / (fxLn2 : Int))
/-- log2 of m * 2^e. -/
def fxLog2 (m : Nat) (e : Int) : Int :=
  let h := 2 ^ (bitlen m - 1)
  (e + (bitlen m : Int) - 1) * (fxOne : Int) + (2 * fxAtanh ((m - h) * fxOne / (m + h)) * fxOne / fxLn2 : Nat)

/-- The value of a special function of a finite operand, known to over 80 bits, where Table 9-5 names none. -/
def specialExact (k : Nat) (s : Bool) (m : Nat) (e : Int) : FV :=
  let sg (x : Nat) : Int := if s then -(x : Int) else x
  match k with
  | 0 => (fvDiv (.fin false 1 0) (.fin s m e)).1
  | 1 => (fvDiv (.fin false 1 0) (fvSqrt (.fin s m e)).1).1
  | 2 => let (a, n) := fxExp2 (sg (fxOf 1000 m e)); .fin false a (n - 200)
  | 3 => let x := fxLog2 m e; .fin (decide (x < 0)) x.natAbs (-200)
  | 4 =>
    if magLe m e 1 (-30) then .fin s (m * (3 * fxOne - shiftN (m * m) (2 * e + 200)) / 3) (e - 200)
    else
      let (a, n) := fxExpE (2 * fxOf 100 m e : Nat)
      let y := shiftN a n
      .fin s ((y - fxOne) * fxOne / (y + fxOne)) (-200)
  | _ =>
    let (a, n) := fxExpE (sg (fxOf 1000 m e))
    if s then .fin false (a * fxOne / (fxOne + shiftN a n)) (n - 200)
    else let y := shiftN a n; .fin false (y * fxOne / (y + fxOne)) (-200)

/-- Whether a code is within b ulps of a value known to over 80 bits (R186). -/
def withinUlps (b : Nat) (f : Fmt) (c : Nat) (x : FV) : Bool :=
  match valOf f c, x with
  | .fin s m e, .fin t n g =>
    let p := fspec f
    let q := max (g + (bitlen n : Int) - 1 - (p.mb : Int)) p.qmin
    let l := min (min e g) q
    let d := if s == t then magSubAt l m e n g + magSubAt l n g m e else m * 2 ^ (e - l).toNat + n * 2 ^ (g - l).toNat
    d ≤ b * 2 ^ (q - l).toNat
  | _, _ => false

/-- m * 2^e is the number n * 2^g. -/
def magEq (m : Nat) (e : Int) (n : Nat) (g : Int) : Bool := magLe m e n g && magLe n g m e

/-- Whether a result is the exact value of a special function of a finite operand: of an operand in a binary format the first two are
rational, 2^x and log2 x are so only at an integer x and at a power of two, and the last two are so only at zero. -/
def specialHits (k : Nat) (s : Bool) (m : Nat) (e : Int) (r : FV) : Bool :=
  match r with
  | .fin t n g =>
    let top (n : Nat) (g : Int) : Int := g + (bitlen n : Int) - 1
    match k with
    | 0 => s == t && magEq (m * n) (e + g) 1 0
    | 1 => !t && magEq (m * n * n) (e + 2 * g) 1 0
    | 2 => !t && n == 2 ^ (bitlen n - 1) && (let j := top n g; magEq m e j.natAbs 0 && (m == 0 || s == decide (j < 0)))
    | 3 => m == 2 ^ (bitlen m - 1) && (let j := top m e; magEq n g j.natAbs 0 && (n == 0 || t == decide (j < 0)))
    | _ => false
  | _ => false

/-- A special function of an operand code: exact on special values; elsewhere a free value within the bound of Table 9-5, one
ulp for VRCP and VRSQ and two for the others (log 6). Its flags follow from it (R174, R184). -/
def specialFn (k : Nat) (f : Fmt) (ftz : Bool) (c : Nat) : Nat × Nat :=
  let v := rdVal ftz f c
  match specialValue k f v, v with
  | some x, _ => finishFP f .rne ftz 0 x
  | none, .fin s m e =>
    let g := Config.special k f (c % 2 ^ f.bits) % 2 ^ f.bits
    let x := specialExact k s m e
    if withinUlps (if k < 2 then 1 else 2) f g x then
      let nx := if specialHits k s m e (valOf f g) then 0 else fNX
      if !isSub f g then (g, nx)
      else if ftz then (signBit f (tbit g (f.bits - 1)), fUF + fNX)
      else (g, if nx = 0 then 0 else fUF + fNX)
    else finishFP f .rne ftz 0 (x, 0)
  | none, _ => finishFP f .rne ftz 0 (v, 0)

end Sys2Proof.Machine
end

