-- ==== Sys2Proof/Machine/Ops.lean ====
section
/-! DEFINITION. The named operations over cores, contexts and registers, and what a syllable does to its parcel:
it goes, stalls or stops. -/

namespace Sys2Proof.Machine

/-- The outcome of a step. -/
abbrev Res := Host.Outcome State Fault Refusal

/-- The state of a core. -/
def State.core (s : State) (c : Nat) : Core := mget {} s.cores c
def State.setCore (s : State) (c : Nat) (k : Core) : State := { s with cores := mset s.cores c k }
def State.modCore (s : State) (c : Nat) (f : Core → Core) : State := s.setCore c (f (s.core c))
def State.kiln (s : State) (k : Nat) : Kiln := mget {} s.kilns k
def State.setKiln (s : State) (k : Nat) (x : Kiln) : State := { s with kilns := mset s.kilns k x }
def State.modKiln (s : State) (k : Nat) (f : Kiln → Kiln) : State := s.setKiln k (f (s.kiln k))
def State.modHub (s : State) (f : Hub → Hub) : State := { s with hub := f s.hub }
/-- Act next, before what the script holds. -/
def State.soon (s : State) (l : List Act) : State := { s with script := l ++ s.script }
def State.send (s : State) (o : Out) : State := { s with out := s.out ++ [o] }
/-- Draw the number of a fresh free value (log 5). -/
def State.draw (s : State) : State := { s with free := s.free + 1 }

/-- Context 0 L, 1 K, 2 S. -/
def Core.ctx (k : Core) (x : Nat) : Ctx := if x = 0 then k.cl else if x = 1 then k.ck else k.cs
def Core.setCtx (k : Core) (x : Nat) (t : Ctx) : Core :=
  if x = 0 then { k with cl := t } else if x = 1 then { k with ck := t } else { k with cs := t }
def Core.modCtx (k : Core) (x : Nat) (f : Ctx → Ctx) : Core := k.setCtx x (f (k.ctx x))
/-- Engine 0 C0, 1 C1, 2 M. -/
def Core.eng (k : Core) (e : Nat) : Eng := if e = 0 then k.e0 else if e = 1 then k.e1 else k.em
def Core.setEng (k : Core) (e : Nat) (x : Eng) : Core :=
  if e = 0 then { k with e0 := x } else if e = 1 then { k with e1 := x } else { k with em := x }
def Core.modEng (k : Core) (e : Nat) (f : Eng → Eng) : Core := k.setEng e (f (k.eng e))

/-- A scalar register; x0 reads 0 (Table 6-2). -/
def Ctx.rx (t : Ctx) (r : XReg) : Word := if r = 0 then 0 else mget 0 t.x r.toNat
/-- Write a scalar register; a write of x0 is discarded. -/
def Ctx.wx (t : Ctx) (r : XReg) (w : Word) : Ctx := if r = 0 then t else { t with x := mput 0 t.x r.toNat w }

/-- Physical index of a vector register through RRB (R258). -/
def Core.vphys (k : Core) (n : Nat) : Nat := if n < 16 then n else 16 + (n - 16 + k.sys.rrb) % 48
/-- Physical index of a predicate through PRB (R258). -/
def Core.pphys (k : Core) (n : Nat) : Nat := if n < 8 then n else 8 + (n - 8 + k.sys.prb) % 8
/-- A vector register by physical index. -/
def Core.rv (k : Core) (n : Nat) : Tile := mget 0 k.v n
def Core.wv (k : Core) (n : Nat) (t : Tile) : Core := { k with v := mput 0 k.v n t }
/-- A predicate by physical index; p0 reads all ones (R257). -/
def Core.rp (k : Core) (n : Nat) : PredReg := if n = 0 then BitVec.allOnes 2048 else mget 0 k.p n
def Core.wp (k : Core) (n : Nat) (t : PredReg) : Core := if n = 0 then k else { k with p := mput 0 k.p n t }

/-- An engine register. -/
def Eng.rr (e : Eng) (n : Nat) : Word := mget 0 e.r n
def Eng.wr (e : Eng) (n : Nat) (w : Word) : Eng := { e with r := mput 0 e.r n w }

/-- A flag (R107). -/
def Core.flag (k : Core) (f : Nat) : BitVec 32 := mget 0 k.flags f

/-- A flag reaches a target (R108). -/
def reaches (flag target : BitVec 32) : Bool := (flag - target).toNat < 2 ^ 31

/-- VSH fields (R335). -/
def vshRows (v : BitVec 32) : Nat := bits v.toNat 0 6 + 1
def vshCols (v : BitVec 32) : Nat := bits v.toNat 6 11 + 1
def vshFmt (v : BitVec 32) : Fmt := (fmtOf (bits v.toNat 20 4)).getD .fp32
def mkVsh (rows cols : Nat) (f : Fmt) : BitVec 32 :=
  BitVec.ofNat 32 ((rows - 1) % 64 + (cols - 1) % 2048 * 2 ^ 6 + f.code * 2 ^ 20)
/-- Elements of a tile. -/
def vshN (v : BitVec 32) : Nat := vshRows v * vshCols v
/-- Bytes of a tile of a format (R270, R327). -/
def tileBytes (n : Nat) (f : Fmt) : Nat := (n * f.bits + 7) / 8
/-- Passes of a tile of B bytes (R270). -/
def passesOf (b : Nat) : Nat := max 1 ((b + 255) / 256)

/-- The core and the context of the stream that issues. -/
def State.me (s : State) : Core := s.core s.cur.core
def State.my (s : State) : Ctx := s.me.ctx s.cur.src
def State.setMe (s : State) (k : Core) : State := s.setCore s.cur.core k
def State.modMe (s : State) (f : Core → Core) : State := s.modCore s.cur.core f
def State.modMy (s : State) (f : Ctx → Ctx) : State := s.modMe (fun k => k.modCtx s.cur.src f)

/-- Bytes of a parcel of context x (R250). -/
def parcelBytes (x : Nat) : Nat := if x = 1 then 32 else 16

/-- Raise a stop cause at issue (R190): the parcel stops and none of its syllables takes effect. -/
def raiseAt (s : State) (cause detail : Nat) (addr : Word) : State :=
  let r : Raise := ⟨cause, s.cur.src, s.cur.slot, detail, addr, 0xFFFF, false⟩
  { s.modMe (fun k => { k with raises := k.raises ++ [r] }) with cur := { s.cur with verdict := .stop } }

/-- ILLEGAL with a detail code of Table 13-10. -/
def illegal (s : State) (detail : Nat) : State := raiseAt s 4 detail 0

/-- Raise a cause on a core after issue, for a stream (R190). -/
def raiseOn (s : State) (c cause stream slot detail : Nat) (addr : Word) : State :=
  s.modCore c (fun k => { k with raises := k.raises ++ [⟨cause, stream, slot, detail, addr, 0xFFFF, true⟩] })

/-- The syllable stalls its parcel at issue. The parcel is attempted again, so an arrival it has made and a release it
has been given stay with it until it issues (R292). -/
def stallOn (s : State) (w : WaitK) : State :=
  { s.modMy (fun t => if t.wait = some w then t else { t with wait := some w, waitFrom := 0 })
    with cur := { s.cur with verdict := .stall } }

/-- An encoded instruction of a bundle context: it must have an issuer; an ill-formed one is ILLEGAL (R269). -/
def issue (i : Instr) (s : State) (f : State → State) : Res :=
  if s.cur.src ≤ 2 then (if i.wf then .next (f s) else .next (illegal s 0)) else .fault .noIssuer

/-- A VC syllable issues from K only. -/
def issueV (i : Instr) (s : State) (f : State → State) : Res :=
  if s.cur.src = 1 then (if i.wf then .next (f s) else .next (illegal s 0)) else .fault .noIssuer

/-- A new operation of the issuing context, with nothing captured. -/
def blankFlight (s : State) (i : Instr) : Flight :=
  { id := s.me.nextId, i := i, src := s.cur.src, slot := s.cur.slot, pc := s.cur.pc, tok := none,
    issue := s.me.scyc.toNat, phase := .fixed, remain := 0, live := true, fault := 0, prog := 0, ea := 0,
    space := .g, ops := [], cnt := 0, fpctl := s.me.sys.fpctl, vsh := s.me.sys.vsh, dest := 0, data := 0, tA := none, tB := none,
    tC := none, pr := none, td := none }

/-- Put an operation in flight, attached to its token if it has one. -/
def fly (s : State) (f : Flight) : State :=
  s.modMe (fun k =>
    let k := { k with flights := k.flights ++ [f], nextId := k.nextId + 1 }
    match f.tok with
    | some t => k.modCtx f.src (fun x => { x with tok := mmod 0 x.tok t.toNat (· + 1) })
    | none => k)

/-- A fixed-latency operation with scalar sources (R109). -/
def flyFixed (s : State) (i : Instr) (lat : Nat) (ops : List Word) : State :=
  fly s { blankFlight s i with remain := lat, ops := ops }

/-- A variable-latency operation whose reply time is free (log 5): it is attached to the parcel's token (R110). -/
def flyVar (s : State) (i : Instr) (ops : List Word) (ph : Phase) : State :=
  fly s { blankFlight s i with tok := s.cur.tok, phase := ph, live := false, ops := ops }

/-- Draw a latency (log 5). -/
def State.wait (s : State) : State × Nat := (s.draw, Config.latency s.free)

/-- A request that a unit of the core serves after a free time (log 5). -/
def flySoon (s : State) (i : Instr) (ops : List Word) : State :=
  let (s, n) := s.wait
  fly s { blankFlight s i with tok := s.cur.tok, phase := .sent, remain := n, ops := ops }

/-- The operation with a number. -/
def Core.flight (k : Core) (id : Nat) : Option Flight := k.flights.find? (fun f => f.id == id)
def Core.modFlight (k : Core) (id : Nat) (g : Flight → Flight) : Core :=
  { k with flights := k.flights.map (fun f => if f.id = id then g f else f) }
/-- Remove an operation and free its token (R110). -/
def Core.dropFlight (k : Core) (f : Flight) : Core :=
  let k := { k with flights := k.flights.filter (fun g => g.id != f.id) }
  match f.tok with
  | some t => k.modCtx f.src (fun x => { x with tok := mmod 0 x.tok t.toNat (· - 1) })
  | none => k

/-- A counter's increment (R217, R218); the OVERFLOW record is written by `ctrAdd`'s caller in Debug. -/
def Core.bump (k : Core) (i n : Nat) : Core :=
  let v := mget 0 k.ctr i + n
  { k with ctr := mput 0 k.ctr i (v % 2 ^ 48),
           cntovf := if 2 ^ 48 ≤ v then k.cntovf ||| (1#32 <<< i) else k.cntovf }

/-- The job's world. -/
def Core.world (k : Core) : BitVec 10 := match k.job with | some j => j.world | none => 0
/-- A job runs on the core: started, and not at its end yet. -/
def Core.runs (k : Core) : Bool := k.job.isSome && !k.starting && !k.ended
/-- It runs a job of a world (R107, R121, R392). -/
def Core.runsIn (k : Core) (w : BitVec 10) : Bool := k.runs && k.world == w
/-- Interlocked mode (R112, R114). -/
def Core.inter (k : Core) : Bool := match k.job with | some j => j.inter | none => false

/-- The kiln of a core: its cluster's (R115), clusters being four successive cores. -/
def kilnOf (c : Nat) : Nat := c / 4
def dieOf (c : Nat) : Nat := c / 64

/-- Whether a stream runs (R102). -/
def StreamSt.isRun : StreamSt → Bool
  | .running | .stalled => true
  | _ => false

/-- Stream state codes of Table 10-2. -/
def StreamSt.code : StreamSt → Nat
  | .notStarted => 0 | .running => 1 | .ended => 2 | .parked => 3 | .stalled => 4

/-- Scratchpad bytes below the limit in force (R121, R128). -/
def Core.spLimit (k : Core) : Nat := 131072 * k.gran

/-- Deliver the data of an LDQ to the entry it reserved, or to the pop that took it (R104). -/
def Core.fillQ (k : Core) (id : Nat) (w : Word) : Core :=
  { k with
    queues := k.queues.map (fun e => (e.1, { e.2 with ents := e.2.ents.map (fun q =>
      if q.val = none ∧ q.src = id then { q with val := some w } else q) })),
    flights := k.flights.map (fun f =>
      match f.i with
      | .qpop _ _ | .qpeek _ _ =>
        if f.phase = .unsent ∧ f.dest = id then
          { f with phase := .captured, data := w.toNat, remain := 1, live := true } else f
      | _ => f) }

end Sys2Proof.Machine
end

