-- ==== Sys2Proof/Machine/Trace.lean ====
section
/-! DEFINITION. The trace buffer (R213-R216), counters (R217, R218) and the error log (R39). -/

namespace Sys2Proof.Machine

/-- The module's own id acts as kind 0 (Table 7-2). -/
def State.normPa (s : State) (pa : Nat) : Nat :=
  if pa / 2 ^ 54 = 1 ∧ bits pa 40 10 = s.hub.accid.toNat then pa % 2 ^ 40 else pa

/-- Bytes as they lie in memory, by physical address. -/
def State.rawRd (s : State) (pa n : Nat) : List Byte :=
  match pa / 2 ^ 54 with
  | 0 => rdBs s.mem pa n
  | 1 => rdBs s.peerMem (pa % 2 ^ 50) n
  | 2 => rdBs s.hostMem (pa % 2 ^ 48) n
  | _ => List.replicate n 0
def State.rawWr (s : State) (pa : Nat) (bs : List Byte) : State :=
  match pa / 2 ^ 54 with
  | 0 => { s with mem := wrBs s.mem pa bs }
  | 1 => { s with peerMem := wrBs s.peerMem (pa % 2 ^ 50) bs }
  | 2 => { s with hostMem := wrBs s.hostMem (pa % 2 ^ 48) bs }
  | _ => s

/-- Write bytes by physical address, as the hub writes world-0 memory. -/
def State.pwr (s : State) (pa : Nat) (bs : List Byte) : State := s.rawWr (s.normPa pa) bs

/-- A record's bytes (R213); `more` holds the later units. -/
def trBytes (seq ty core : Nat) (scyc a b : Nat) (more : List Byte) : List Byte :=
  leBytes 4 (seq % 4096 * 2 ^ 20 + more.length / 16 * 2 ^ 18 + ty * 2 ^ 12 + core)
    ++ leBytes 6 scyc ++ leBytes 2 a ++ leBytes 4 b ++ more

/-- place(u) of R215 in the mode of TRCTL; none when the record must be dropped. -/
def trPlace (s : State) (ty core scyc a b : Nat) (more : List Byte) : Option State :=
  let t := s.hub.trc
  let size := t.size.toNat
  let u := 16 + more.length
  let wrap := !(t.wr + u ≤ size)
  let need := if wrap then size - t.wr + u else u
  let room := if size = 0 then 0 else (t.rd.toNat + size - t.wr - 16) % size
  if size = 0 ∨ (!tbit t.ctl.toNat 30 ∧ room < need) then none
  else
    let base := t.base.toNat
    let s := if wrap then
        { s with hub := { s.hub with trc := { t with seq := (t.seq + 1) % 4096 } } }.pwr (base + t.wr) (trBytes t.seq 1 core scyc 0 0 [])
      else s
    let at' := if wrap then 0 else t.wr
    let t := s.hub.trc
    some ({ s with hub := { s.hub with trc := { t with seq := (t.seq + 1) % 4096, wr := (at' + u) % size } } }.pwr (base + at')
      (trBytes t.seq ty core scyc a b more))

/-- Write a trace record of a type whose enable bit in TYPES is `bitNo` (R214, R215). -/
def State.trace (s : State) (bitNo ty core scyc a b : Nat) (more : List Byte) : State :=
  let t := s.hub.trc
  if !tbit t.ctl.toNat 31 ∨ !tbit t.ctl.toNat bitNo then s
  else
    let s1 := if t.lost = 0 then some s else
      (trPlace s 6 core scyc 0 t.lost []).map (fun s => { s with hub := { s.hub with trc := { s.hub.trc with lost := 0 } } })
    match s1.bind (fun s => trPlace s ty core scyc a b more) with
    | some s' => s'
    | none => { s with hub := { s.hub with trc := { t with
        lost := t.lost + 1, drop := if t.drop = BitVec.allOnes 32 then t.drop else t.drop + 1,
        ctl := t.ctl ||| (1#32 <<< 29) } } }

/-- A counter of a core has `n` events in this cycle (R218). -/
def State.count (s : State) (c i n : Nat) : State := s.modCore c (fun k => { k with cnew := mput 0 k.cnew i (mget 0 k.cnew i + n) })

/-- What a cycle has counted is added as it ends, with the OVERFLOW records; a counter cleared in it stays 0, and a new CNTCFG comes
into force (R218). -/
def State.settleCounts (s : State) : State :=
  let h := s.hub
  let n := h.fqfull + h.fqnew
  let s := s.modHub (fun h => { h with
    fqnew := 0, fqclr := false, fqfull := if h.fqclr then h.fqfull else n % 2 ^ 48, fqovf := h.fqovf || (!h.fqclr && 2 ^ 48 ≤ n) })
  let s := if !h.fqclr ∧ 2 ^ 48 ≤ n then s.trace 23 5 0 (s.core 0).scyc.toNat 8 0 [] else s
  s.cores.foldl (fun s e =>
    let k := e.2
    if k.cnew.isEmpty && k.cclr.isEmpty && k.cfgNext.isNone then s
    else
      let s := k.cnew.foldl (fun (s : State) x =>
        if k.cclr.contains x.1 then s
        else
          let t := s.modCore e.1 (fun k => k.bump x.1 x.2)
          if mget 0 k.ctr x.1 + x.2 < 2 ^ 48 then t else t.trace 23 5 e.1 k.scyc.toNat x.1 (bits k.cntcfg.toNat 0 8) []) s
      s.modCore e.1 (fun k => { k with cnew := [], cclr := [], cfgNext := none, cntcfg := k.cfgNext.getD k.cntcfg })) s

/-- Append an error-log entry (R39): the newest 1,024 are kept. -/
def State.logErr (s : State) (cls req : Nat) (addr : Word) (detail : BitVec 32) (world status : Nat) : State :=
  s.modHub (fun h =>
    let n := h.errpos + 1
    let m := mset h.log n.toNat ⟨cls, req, h.podTime.toNat, addr, detail, world, status⟩
    { h with errpos := n, log := if 1024 < n.toNat then mdel m (n.toNat - 1024) else m })

/-- REQ of Table 2-8. -/
def reqCode (kind id : Nat) : Nat := kind * 4096 + id

end Sys2Proof.Machine
end

