-- ==== Sys2Proof/Machine/Cache.lean ====
section
/-! DEFINITION. Replacement in a set of a cache by class (07 R137, R138), as L1 and L2 share it. -/

namespace Sys2Proof.Machine

/-- A line of a set: its number, class (0 NORMAL, 1 PERSIST, 2 STREAM), order, and whether it may not go. -/
structure Way where
  key   : Nat
  cls   : Nat
  ord   : Int
  fixed : Bool

/-- The line of least order. -/
def firstWay : List Way → Option Way
  | [] => none
  | a :: l => match firstWay l with
    | some b => if b.ord < a.ord then some b else some a
    | none => some a

/-- The line that gives way: a PERSIST line only where no other line may go; none where every line is locked or pinned. -/
def victim (l : List Way) : Option Nat :=
  let free := l.filter (fun w => !w.fixed)
  let plain := free.filter (fun w => w.cls != 1)
  (firstWay (if plain.isEmpty then free else plain)).map (·.key)

/-- The class a line is inserted with: a ninth PERSIST line of a set counts as NORMAL. -/
def insClass (cls : Nat) (l : List Way) : Nat := if cls = 1 ∧ 8 ≤ (l.filter (fun w => w.cls == 1)).length then 0 else cls

/-- Its order: a STREAM line is next to go, another line is the most recent one. -/
def insOrd (cls : Nat) (l : List Way) : Int :=
  if cls = 2 then l.foldl (fun m w => min m (w.ord - 1)) 0 else l.foldl (fun m w => max m (w.ord + 1)) 0

end Sys2Proof.Machine
end

