-- ==== Sys2Proof/Machine/Crypto.lean ====
section
/-! DEFINITION. AES-256-XTS on 16-byte units (R42), SHA-512 (R49, R55, R58) and AES key unwrap (R49). The spec names
these standards and does not restate them: FIPS 197, IEEE 1619, FIPS 180-4 and RFC 3394 are taken from
outside (log 8, PRESUMED). -/

namespace Sys2Proof.Machine

/-- Multiplication by x in the AES field. -/
def aesX (b : Byte) : Byte := if b.getLsbD 7 then (b <<< 1) ^^^ 0x1B#8 else b <<< 1

/-- Product in the AES field, from bit `n - 1` of `a` down. -/
def aesMulGo (a b : Byte) : Nat → Byte → Byte
  | 0, acc => acc
  | n + 1, acc => aesMulGo a b n (aesX acc ^^^ (if a.getLsbD n then b else 0))
def aesMul (a b : Byte) : Byte := aesMulGo a b 8 0

/-- Inverse in the AES field: the 254th power. -/
def aesInvGo : Nat → Byte → Byte → Byte
  | 0, _, acc => acc
  | n + 1, s, acc => let s := aesMul s s; aesInvGo n s (aesMul acc s)
def aesInv (a : Byte) : Byte := aesInvGo 7 a 1

def aesS (a : Byte) : Byte :=
  let b := aesInv a
  b ^^^ b.rotateLeft 1 ^^^ b.rotateLeft 2 ^^^ b.rotateLeft 3 ^^^ b.rotateLeft 4 ^^^ 0x63#8
def aesSI (a : Byte) : Byte := aesInv (a.rotateLeft 1 ^^^ a.rotateLeft 3 ^^^ a.rotateLeft 6 ^^^ 0x05#8)

def xorBs (a b : List Byte) : List Byte := List.zipWith (· ^^^ ·) a b
def nthB (l : List Byte) (n : Nat) : Byte := l.getD n 0

/-- Key expansion: word `n` from the words before it, newest first, each word four bytes. -/
def aesKeyGo : Nat → Nat → Byte → List (List Byte) → List (List Byte)
  | 0, _, _, ws => ws.reverse
  | k + 1, n, rc, ws =>
    let t := ws.getD 0 []
    let o := ws.getD 7 []
    let t' :=
      if n % 8 = 0 then xorBs ((t.drop 1 ++ t.take 1).map aesS) [rc, 0, 0, 0]
      else if n % 8 = 4 then t.map aesS else t
    aesKeyGo k (n + 1) (if n % 8 = 0 then aesX rc else rc) (xorBs o t' :: ws)

/-- The 15 round keys of a 32-byte key, 16 bytes each. -/
def aesKeys (key : List Byte) : List (List Byte) :=
  let ws := (List.range 8).map (fun k => (key.drop (4 * k)).take 4)
  let all := (aesKeyGo 52 8 1 ws.reverse).flatten
  (List.range 15).map (fun k => (all.drop (16 * k)).take 16)

/-- ShiftRows by `d` columns per row (1 forward, 3 back). -/
def aesShift (d : Nat) (s : List Byte) : List Byte :=
  (List.range 16).map (fun i => nthB s ((i + 4 * d * (i % 4)) % 16))

/-- MixColumns with the given first row of the matrix. -/
def aesMix (c : List Byte) (s : List Byte) : List Byte :=
  (List.range 16).map (fun i =>
    (List.range 4).foldl (fun acc k => acc ^^^ aesMul (nthB c ((k + 4 - i % 4) % 4)) (nthB s (4 * (i / 4) + k))) 0)

def aesRounds (ks : List (List Byte)) : Nat → List Byte → List Byte
  | 0, s => s
  | n + 1, s =>
    let t := aesShift 1 (s.map aesS)
    let u := if n = 0 then t else aesMix [2, 3, 1, 1] t
    aesRounds ks n (xorBs u (ks.getD (14 - n) []))

/-- AES-256 encryption of one block. -/
def aesEnc (key blk : List Byte) : List Byte :=
  let ks := aesKeys key
  aesRounds ks 14 (xorBs blk (ks.getD 0 []))

def aesRoundsI (ks : List (List Byte)) : Nat → List Byte → List Byte
  | 0, s => s
  | n + 1, s =>
    let t := xorBs ((aesShift 3 s).map aesSI) (ks.getD n [])
    aesRoundsI ks n (if n = 0 then t else aesMix [14, 11, 13, 9] t)

/-- AES-256 decryption of one block. -/
def aesDec (key blk : List Byte) : List Byte :=
  let ks := aesKeys key
  aesRoundsI ks 14 (xorBs blk (ks.getD 14 []))

/-- A key pair as 64 bytes, the data key first. -/
def keyBytes (k : BitVec 512) : List Byte := leBytes 64 k.toNat

/-- XTS of one 16-byte unit: encryption when `enc`. -/
def xtsUnit (enc : Bool) (k : BitVec 512) (tweak : Nat) (u : List Byte) : List Byte :=
  let kb := keyBytes k
  let t := aesEnc (kb.drop 32) (leBytes 16 tweak)
  let f := if enc then aesEnc else aesDec
  xorBs (f (kb.take 32) (xorBs u t)) t

def shaK0 : List Word := [
   0x428A2F98D728AE22#64, 0x7137449123EF65CD#64, 0xB5C0FBCFEC4D3B2F#64, 0xE9B5DBA58189DBBC#64,
   0x3956C25BF348B538#64, 0x59F111F1B605D019#64, 0x923F82A4AF194F9B#64, 0xAB1C5ED5DA6D8118#64,
   0xD807AA98A3030242#64, 0x12835B0145706FBE#64, 0x243185BE4EE4B28C#64, 0x550C7DC3D5FFB4E2#64,
   0x72BE5D74F27B896F#64, 0x80DEB1FE3B1696B1#64, 0x9BDC06A725C71235#64, 0xC19BF174CF692694#64,
   0xE49B69C19EF14AD2#64, 0xEFBE4786384F25E3#64, 0x0FC19DC68B8CD5B5#64, 0x240CA1CC77AC9C65#64]

def shaK1 : List Word := [
   0x2DE92C6F592B0275#64, 0x4A7484AA6EA6E483#64, 0x5CB0A9DCBD41FBD4#64, 0x76F988DA831153B5#64,
   0x983E5152EE66DFAB#64, 0xA831C66D2DB43210#64, 0xB00327C898FB213F#64, 0xBF597FC7BEEF0EE4#64,
   0xC6E00BF33DA88FC2#64, 0xD5A79147930AA725#64, 0x06CA6351E003826F#64, 0x142929670A0E6E70#64,
   0x27B70A8546D22FFC#64, 0x2E1B21385C26C926#64, 0x4D2C6DFC5AC42AED#64, 0x53380D139D95B3DF#64,
   0x650A73548BAF63DE#64, 0x766A0ABB3C77B2A8#64, 0x81C2C92E47EDAEE6#64, 0x92722C851482353B#64]

def shaK2 : List Word := [
   0xA2BFE8A14CF10364#64, 0xA81A664BBC423001#64, 0xC24B8B70D0F89791#64, 0xC76C51A30654BE30#64,
   0xD192E819D6EF5218#64, 0xD69906245565A910#64, 0xF40E35855771202A#64, 0x106AA07032BBD1B8#64,
   0x19A4C116B8D2D0C8#64, 0x1E376C085141AB53#64, 0x2748774CDF8EEB99#64, 0x34B0BCB5E19B48A8#64,
   0x391C0CB3C5C95A63#64, 0x4ED8AA4AE3418ACB#64, 0x5B9CCA4F7763E373#64, 0x682E6FF3D6B2B8A3#64,
   0x748F82EE5DEFB2FC#64, 0x78A5636F43172F60#64, 0x84C87814A1F0AB72#64, 0x8CC702081A6439EC#64]

def shaK3 : List Word := [
   0x90BEFFFA23631E28#64, 0xA4506CEBDE82BDE9#64, 0xBEF9A3F7B2C67915#64, 0xC67178F2E372532B#64,
   0xCA273ECEEA26619C#64, 0xD186B8C721C0C207#64, 0xEADA7DD6CDE0EB1E#64, 0xF57D4F7FEE6ED178#64,
   0x06F067AA72176FBA#64, 0x0A637DC5A2C898A6#64, 0x113F9804BEF90DAE#64, 0x1B710B35131C471B#64,
   0x28DB77F523047D84#64, 0x32CAAB7B40C72493#64, 0x3C9EBE0A15C9BEBC#64, 0x431D67C49C100D4C#64,
   0x4CC5D4BECB3E42B6#64, 0x597F299CFC657E2A#64, 0x5FCB6FAB3AD6FAEC#64, 0x6C44198C4A475817#64]

def shaK : List Word := shaK0 ++ shaK1 ++ shaK2 ++ shaK3

def shaH : List Word := [
   0x6A09E667F3BCC908#64, 0xBB67AE8584CAA73B#64, 0x3C6EF372FE94F82B#64, 0xA54FF53A5F1D36F1#64,
   0x510E527FADE682D1#64, 0x9B05688C2B3E6C1F#64, 0x1F83D9ABFB41BD6B#64, 0x5BE0CD19137E2179#64]

/-- The big-endian number of a byte list, and back. -/
def beNat (l : List Byte) : Nat := leNat l.reverse
def beBytes (n v : Nat) : List Byte := (leBytes n v).reverse

/-- The message schedule, newest first. -/
def shaSched : Nat → List Word → List Word
  | 0, ws => ws.reverse
  | n + 1, ws =>
    let a := nthW ws 14
    let b := nthW ws 1
    let s0 := a.rotateRight 1 ^^^ a.rotateRight 8 ^^^ (a >>> 7)
    let s1 := b.rotateRight 19 ^^^ b.rotateRight 61 ^^^ (b >>> 6)
    shaSched n ((nthW ws 15 + s0 + nthW ws 6 + s1) :: ws)

def shaRound (s : List Word) (kw : Word × Word) : List Word :=
  let a := nthW s 0; let b := nthW s 1; let c := nthW s 2; let e := nthW s 4
  let s1 := e.rotateRight 14 ^^^ e.rotateRight 18 ^^^ e.rotateRight 41
  let ch := (e &&& nthW s 5) ^^^ (~~~e &&& nthW s 6)
  let t1 := nthW s 7 + s1 + ch + kw.1 + kw.2
  let s0 := a.rotateRight 28 ^^^ a.rotateRight 34 ^^^ a.rotateRight 39
  let mj := (a &&& b) ^^^ (a &&& c) ^^^ (b &&& c)
  [t1 + (s0 + mj), a, b, c, nthW s 3 + t1, e, nthW s 5, nthW s 6]

def shaBlock (h : List Word) (blk : List Byte) : List Word :=
  let w := (List.range 16).map (fun k => BitVec.ofNat 64 (beNat ((blk.drop (8 * k)).take 8)))
  let s := (List.zip shaK (shaSched 64 w.reverse)).foldl shaRound h
  List.zipWith (· + ·) h s

/-- SHA-512 of a byte list. -/
def sha512 (msg : List Byte) : List Byte :=
  let n := msg.length
  let pad := msg ++ [0x80#8] ++ List.replicate ((239 - n % 128) % 128) 0 ++ beBytes 16 (8 * n)
  let h := (List.range (pad.length / 128)).foldl (fun h k => shaBlock h ((pad.drop (128 * k)).take 128)) shaH
  (h.map (fun w => beBytes 8 w.toNat)).flatten

/-- The digest as a number, first byte most significant. -/
def sha512N (msg : List Byte) : BitVec 512 := BitVec.ofNat 512 (beNat (sha512 msg))

/-- One inner step of AES key unwrap: A, the registers, and t (RFC 3394). -/
def unwrapStep (key : List Byte) (n : Nat) (a : List Byte × List (List Byte)) (t : Nat) : List Byte × List (List Byte) :=
  let i := (t - 1) % n
  let b := aesDec key (xorBs a.1 (beBytes 8 t) ++ a.2.getD i [])
  (b.take 8, a.2.set i (b.drop 8))

/-- AES key unwrap: none when the check value does not match. -/
def aesUnwrap (key wrapped : List Byte) : Option (List Byte) :=
  let n := wrapped.length / 8 - 1
  let rs := (List.range n).map (fun k => (wrapped.drop (8 * (k + 1))).take 8)
  let r := ((List.range (6 * n)).reverse.map (· + 1)).foldl (unwrapStep key n) (wrapped.take 8, rs)
  if r.1 = List.replicate 8 0xA6#8 then some r.2.flatten else none

end Sys2Proof.Machine
end

