-- ==== Sys2Proof/Machine/Translate.lean ====
section
/-! DEFINITION. Address translation (R123-R126), physical memory by kind (Table 7-2), world ownership (R41), the
encryption of sealed data at rest (R42, R43, R51), watched ranges (R57) and L2 lines (R135, R140). -/

namespace Sys2Proof.Machine

/-- The kind of a physical address, and whether it breaks the zero rules of Table 7-2. -/
inductive PaKind | hbm | peer | host | mmio | bad
deriving DecidableEq, Repr

def paKind (accid : BitVec 10) (pa : Nat) : PaKind :=
  match pa / 2 ^ 54 with
  | 0 => if bits pa 40 14 = 0 then .hbm else .bad
  | 1 => if bits pa 50 4 ≠ 0 then .bad else if bits pa 40 10 = accid.toNat then .hbm else .peer
  | 2 => if bits pa 48 6 = 0 then .host else .bad
  | 3 => if bits pa 24 30 = 0 then .mmio else .bad
  | _ => .bad

def State.world (s : State) (w : Nat) : World := mget {} s.hub.worlds w
def State.modWorld (s : State) (w : Nat) (f : World → World) : State :=
  s.modHub (fun h => { h with worlds := mset h.worlds w (f (mget {} h.worlds w)) })

/-- Bytes of an item of a scrub class: L1 and L2 lines and instruction lines are 128 bytes (R129, R133, R146) and a key pair is 64
(R49); the spec does not size the others (log 21). -/
def scrubSize (cls : Nat) : Nat := if cls = 2 ∨ cls = 3 ∨ cls = 7 then 128 else if cls = 8 then 64 else Config.scrubBytes cls

/-- Count cleared items of a class for a world's scrub receipt (R53, R55). -/
def State.scrubAdd (s : State) (w cls n : Nat) : State :=
  if w = 0 ∨ n = 0 then s
  else s.modWorld w (fun x => { x with
    cleared := match x.cleared.find? (fun e => e.1 == cls) with
      | some (_, m, b) => x.cleared.filter (fun e => e.1 != cls) ++ [(cls, m + n, b + n * scrubSize cls)]
      | none => x.cleared ++ [(cls, n, n * scrubSize cls)] })

/-- Local HBM is 1 TiB (R5). -/
abbrev hbmSize : Nat := 2 ^ 40

/-- The world that owns a granule of local HBM (R41): a sealed world's ranges, else world 0. -/
def State.owner (s : State) (pa : Nat) : Nat :=
  match s.hub.worlds.find? (fun e => e.1 != 0 && e.2.st != 0 && e.2.ranges.any (fun r => r.1 ≤ pa && pa < r.1 + r.2)) with
  | some e => e.1
  | none => 0

/-- The tweak of a unit (R42). -/
def State.tweak (s : State) (pa : Nat) : Nat :=
  match pa / 2 ^ 54 with
  | 0 => s.hub.accid.toNat * 2 ^ 48 + pa % 2 ^ 48
  | 1 => bits pa 40 10 * 2 ^ 48 + pa % 2 ^ 40
  | _ => 2 ^ 58 + pa % 2 ^ 48

/-- The key pair of a generation's parity. -/
def World.key (w : World) (par : Bool) : BitVec 512 := if par then w.k1 else w.k0
def World.live (w : World) (par : Bool) : Bool := if par then w.live1 else w.live0
/-- Parity of the current generation (R51). -/
def World.cur (w : World) : Bool := w.count % 2 == 1

/-- The generation number to which a line's bit resolves (R51). -/
def World.genNo (w : World) (par : Bool) : Nat := if w.cur = par then w.count else w.count - 1
/-- Whether a generation number is still live. -/
def World.genLive (w : World) (g : Nat) : Bool :=
  (g == w.count || g + 1 == w.count) && w.live (g % 2 == 1)

def State.lineBit (s : State) (pa : Nat) : Bool := mget false s.gens (pa / 128)

/-- Plaintext of whole 16-byte units of a sealed world. -/
def State.unitRd (s : State) (w : World) (pa : Nat) : List Byte :=
  xtsUnit false (w.key (s.lineBit pa)) (s.tweak pa) (s.rawRd pa 16)

/-- A request to a peer module finds a port that is up (R16). The spec does not say which ports reach which module: every trained one
reaches every peer, and the source of pod time (log 46). -/
def State.routed (s : State) (pa : Nat) : Bool := s.hub.ports != 0 || paKind s.hub.accid pa != .peer

/-- The plaintext of `n` bytes for a world (R43). -/
def State.plainRd (s : State) (world pa n : Nat) : List Byte :=
  if world = 0 then s.rawRd pa n
  else
    let w := s.world world
    let a := pa / 16 * 16
    let k := (pa + n - a + 15) / 16
    (((List.range k).map (fun i => s.unitRd w (a + 16 * i))).flatten.drop (pa - a)).take n

/-- Encrypt and store whole units under a generation's parity. -/
def State.unitsWr (s : State) (w : World) (par : Bool) (pa : Nat) : List Byte → Nat → State
  | _, 0 => s
  | bs, k + 1 =>
    let s := s.rawWr pa (xtsUnit true (w.key par) (s.tweak pa) (bs.take 16))
    s.unitsWr w par (pa + 16) (bs.drop 16) k

/-- Re-encrypt a line under a generation's parity (R52, R411). -/
def State.rekey (s : State) (world pa : Nat) (par : Bool) : State :=
  if s.lineBit pa = par then s
  else
    let a := pa / 128 * 128
    let bs := s.plainRd world a 128
    let s := s.unitsWr (s.world world) par a bs 8
    { s with gens := mput false s.gens (a / 128) par }

/-- Store plaintext bytes that lie in one line, under the generation the request captured (R43, R51): the line keeps
one generation throughout, and never goes back from the current one. -/
def State.lineWr (s : State) (world : Nat) (gen : Bool) (pa : Nat) (bs : List Byte) : State :=
  if world = 0 then s.rawWr pa bs
  else
    let w := s.world world
    let par := if s.lineBit pa = w.cur then w.cur else gen
    let s := s.rekey world pa par
    let a := pa / 16 * 16
    let k := (pa + bs.length - a + 15) / 16
    let old := s.plainRd world a (16 * k)
    s.unitsWr w par a (old.take (pa - a) ++ bs ++ old.drop (pa - a + bs.length)) k

/-- Store plaintext bytes, line by line; `fuel` bounds the lines. -/
def State.plainWrGo (s : State) (world : Nat) (gen : Bool) (pa : Nat) (bs : List Byte) : Nat → State
  | 0 => s
  | fuel + 1 =>
    if bs.isEmpty then s
    else
      let n := 128 - pa % 128
      (s.lineWr world gen pa (bs.take n)).plainWrGo world gen (pa + n) (bs.drop n) fuel
def State.plainWr (s : State) (world : Nat) (gen : Bool) (pa : Nat) (bs : List Byte) : State :=
  s.plainWrGo world gen pa bs (bs.length / 128 + 2)

/-- Write a range-log ring record (R57). -/
def State.rlRecord (s : State) (range req pa n : Nat) (refused : Bool) (world : Nat) : State :=
  let h := s.hub
  let seq := h.rlhead + 1
  let at' := h.rlring.toNat + 32 * ((seq.toNat + 2 ^ 32 - 1) % 65536)
  let rec' := leBytes 4 seq.toNat ++ leBytes 2 range ++ leBytes 2 req ++ leBytes 8 h.podTime.toNat
    ++ leBytes 8 pa ++ leBytes 4 n ++ leBytes 2 (if refused then 1 else 0) ++ leBytes 2 world
  { s with hub := { h with rlhead := seq } }.pwr at' rec'

def sat64 (n : Nat) : Nat := if 2 ^ 64 ≤ n then 2 ^ 64 - 1 else n

/-- The enabled watched ranges that an access meets, and those of them that refuse its requester's kind (R57). -/
def State.rangesHit (s : State) (pa n : Nat) : Map RRange :=
  s.hub.rranges.filter (fun e => tbit e.2.ctl.toNat 31 && pa < e.2.base + e.2.len && e.2.base < pa + n)
def State.rangesBad (s : State) (kind pa n : Nat) : Map RRange := (s.rangesHit pa n).filter (fun e => !tbit e.2.ctl.toNat (16 + kind))

/-- Watched ranges on an access that L2 or memory serves (R57); false when a range refuses the requester's kind. An access that the
world check refuses gets no record (log 66). -/
def State.rangeAccess (s : State) (kind id world pa n : Nat) (wr : Bool) : State × Bool :=
  let hit := s.rangesHit pa n
  let bad := s.rangesBad kind pa n
  if !bad.isEmpty then
    (bad.foldl (fun s e => s.rlRecord e.1 (reqCode kind id) pa n true world) s, false)
  else
    (hit.foldl (fun s e =>
      let lo := max pa e.2.base
      let m := min (pa + n) (e.2.base + e.2.len) - lo
      let t := s.hub.podTime.toNat
      let (r, w, f, _) := mget (0, 0, 0, 0) e.2.cnt kind
      let c := (if wr then r else sat64 (r + m), if wr then sat64 (w + m) else w, if f = 0 then t else f, t)
      let s := s.modHub (fun h => { h with rranges := mset h.rranges e.1 { e.2 with cnt := mset e.2.cnt kind c } })
      if wr && tbit e.2.ctl.toNat 15 then s.rlRecord e.1 (reqCode kind id) lo m false world else s) s, true)

/-- The owner of a local granule is the request's world (R41), which is not being torn down (R54). -/
def State.owns (s : State) (world pa n : Nat) : Bool :=
  pa + n ≤ hbmSize && s.owner pa == world && s.owner (pa + n - 1) == world && !(world != 0 && (s.world world).st == 4)

/-- The checks at the home of a local granule (R41, R57). A refusal is logged with the physical address and the status it is
answered with. -/
def State.homeCheckS (s : State) (kind id world pa n : Nat) (wr : Bool) (st : Nat) : State × Bool :=
  if !s.owns world pa n then (s.logErr 1 (reqCode kind id) (BitVec.ofNat 64 pa) 0 world st, false)
  else
    let (s, ok) := s.rangeAccess kind id world pa n wr
    if ok then (s, true) else (s.logErr 1 (reqCode kind id) (BitVec.ofNat 64 pa) 0 world st, false)
def State.homeCheck (s : State) (kind id world pa n : Nat) (wr : Bool) : State × Bool := s.homeCheckS kind id world pa n wr 0

/-- An access that may not go to an MMIO address is logged (R122). -/
def State.mmioLog (s : State) (req world pa : Nat) : State :=
  if paKind s.hub.accid pa = .mmio then s.logErr 1 req (BitVec.ofNat 64 (pa % 2 ^ 24)) 0 world 0 else s

/-- An enabled format range that holds a line (R139). -/
def State.fmtRange (s : State) (pa : Nat) : Option FmtRange :=
  (s.fmts.find? (fun e => tbit e.2.ctl.toNat 31 && e.2.base.toNat ≤ pa && pa < e.2.base.toNat + e.2.len.toNat)).map (·.2)

/-- The lines of a range of bytes: number, first byte in it and how many. -/
def lineParts (pa n : Nat) : List (Nat × Nat × Nat) :=
  (List.range ((pa % 128 + n + 127) / 128)).map (fun j =>
    let lo := if j = 0 then pa % 128 else 0
    (pa / 128 + j, lo, Nat.min 128 (pa % 128 + n - 128 * j) - lo))

/-- The die of a line's home (R133). -/
def homeDie (pa : Nat) : Nat := Nat.xor (bits pa 8 3) (bits pa 21 3)

/-- Numbers of a line's home way and of its guest copy on a die in L2, and the die and the line of such a number. -/
def l2Home (line : Nat) : Nat := 9 * line
def l2Guest (line die : Nat) : Nat := 9 * line + 1 + die % 8
def l2Die (n : Nat) : Nat := if n % 9 = 0 then homeDie (128 * (n / 9)) else n % 9 - 1
/-- The copy of a line that serves a die: its home way there, else a guest copy. -/
def l2At (line die : Nat) : Nat := if homeDie (128 * line) = die then l2Home line else l2Guest line die

/-- The slice, the same on every die (R133, R134), and whether two numbers share a set: 2,048 sets of 16 ways in a slice (R2). -/
def l2Slice (line : Nat) : Nat := Nat.xor (bits (128 * line) 12 6) (bits (128 * line) 24 6)
def l2Same (a b : Nat) : Bool :=
  l2Die a == l2Die b && l2Slice (a / 9) == l2Slice (b / 9) && Config.l2Set (a / 9) % 2048 == Config.l2Set (b / 9) % 2048
/-- The number of the other line of a pair, the same copy of it (R135); its own where the line is in no pair. -/
def L2Line.mate (x : L2Line) (n : Nat) : Nat := if x.bps = 0 then n else 9 * Nat.xor (n / 9) 1 + n % 9
/-- What goes with a line that leaves L2: a home way takes its guest copies with it (log 68), and the other line of a pair goes too
(R135). -/
def L2Line.goes (x : L2Line) (n m : Nat) : Bool :=
  m == n || m == x.mate n || (n % 9 == 0 && (m / 9 == n / 9 || m / 9 == x.mate n / 9))

/-- A way of a set for its replacement: neither a pinned line nor one that is kept goes, alone or with another (R138). -/
def State.l2Way (s : State) (kept : List Nat) (e : Nat × L2Line) : Way :=
  ⟨e.1, e.2.cls, e.2.ord, s.l2.any (fun q => (q.2.pins != 0 || kept.contains q.1) && e.2.goes e.1 q.1)⟩

/-- A line leaves L2, written back where it was written. -/
def State.l2Drop (s : State) (n : Nat) : State :=
  match mfind s.l2 n with
  | none => s
  | some x => { s with l2 := s.l2.filter (fun e => !x.goes n e.1) }

/-- Room for a line in its set (R137, R138), at the cost of no line of its own pair. -/
def State.l2Room (s : State) (n : Nat) (kept : List Nat) : State :=
  if s.l2.length < 16 then s
  else
    let set := s.l2.filter (fun e => l2Same e.1 n)
    if set.length < 16 then s else match victim (set.map (s.l2Way kept)) with
      | some v => s.l2Drop v
      | none => s

/-- Insert a line with a class (R137). -/
def State.l2Put (s : State) (n cls : Nat) (x : L2Line) : State :=
  let s := s.l2Room n [l2Home (n / 9), l2Home (x.mate n / 9), x.mate n]
  let cls := if s.l2.length < 8 then cls else insClass cls ((s.l2.filter (fun e => l2Same e.1 n)).map (s.l2Way []))
  { s with l2 := mset s.l2 n { x with cls := cls, ord := insOrd cls (s.l2.map (s.l2Way [])) } }

/-- The 16 bytes of a scale unit as the controller loads them from HBM; where L2 has written them and not yet written them back, the
spec does not say which of the two it loads (log 68). -/
def State.scaleUnit (s : State) (unit : Nat) : Nat :=
  match (mfind s.l2 (l2Home (unit / 128))).bind (·.hbm) with
  | some h => if Config.freeBool s.free then leNat (rdBs s.mem unit 16) else bits h.toNat (8 * (unit % 128)) 128
  | none => leNat (rdBs s.mem unit 16)

/-- A scale unit of a sealed world, from the generation under which it lies in memory to another one. -/
def State.reseal (s : State) (world unit : Nat) (old new : Bool) (v : Nat) : Nat :=
  if world = 0 ∨ old = new then v
  else
    let w := s.world world
    let t := s.tweak unit
    leNat (xtsUnit true (w.key new) t (xtsUnit false (w.key old) t (leBytes 16 v)))

/-- The generation of a pair's scale codes (R141): that of its data; where its two lines differ, the current one. -/
def State.sideGen (s : State) (world pa : Nat) : Bool :=
  let cur := (s.world world).cur
  let lo := pa / 256 * 256
  if s.lineBit lo = cur ∨ s.lineBit (lo + 128) = cur then cur else !cur

/-- An L2 line at its home as it is filled: tag and sidecar by the format ranges (R135, R140). A sealed pair's scale codes come under
the generation of its data, whichever one the walker has left their unit under (R52, R141). -/
def State.newLine (s : State) (world line : Nat) : L2Line :=
  let pa := 128 * line
  match s.fmtRange pa with
  | none => { tag := 15, bps := 0, side := 0, world := BitVec.ofNat 10 world, gen := s.lineBit pa }
  | some r =>
    let bps := bits r.ctl.toNat 0 2
    let unit := r.scale.toNat + 16 * ((pa - r.base.toNat) / 256)
    let sgen := s.sideGen world pa
    let side := if bps = 0 then 0 else bits (s.reseal world unit (s.lineBit unit) sgen (s.scaleUnit unit)) (if line % 2 = 1 then 64 else 0) 64
    { tag := bits r.ctl.toNat 4 4, bps := bps, side := BitVec.ofNat 64 side, unit := unit, sgen := sgen,
      world := BitVec.ofNat 10 world, gen := s.lineBit pa }

/-- A line comes into L2 for a die, with its pair where the range is block-scaled (R134, R135): first at its home, then as a guest copy.
True for a hit at the home. -/
def State.l2Fill (s : State) (world pa die cls : Nat) : State × Bool :=
  if pa / 2 ^ 54 ≠ 0 then (s, false)
  else
    let line := pa / 128
    let hit := (mfind s.l2 (l2Home line)).isSome
    let home (s : State) (l : Nat) : State :=
      if (mfind s.l2 (l2Home l)).isSome then s else s.l2Put (l2Home l) cls (s.newLine world l)
    let guest (s : State) (l : Nat) : State :=
      match mfind s.l2 (l2Home l), mfind s.l2 (l2Guest l die) with
      | some x, none =>
        let s := { s with l2 := mset s.l2 (l2Home l) { x with guests := x.guests ||| (1#8 <<< (die % 8)) } }
        s.l2Put (l2Guest l die) cls { x with pins := 0, guests := 0, hbm := none, kill := [] }
      | _, _ => s
    let s := home s line
    let pair := (mfind s.l2 (l2Home line)).any (fun x => x.bps != 0)
    let s := if pair then home s (Nat.xor line 1) else s
    if homeDie pa = die then (s, hit)
    else
      let s := guest s line
      (if pair then guest s (Nat.xor line 1) else s, hit)

/-- The homes of some bytes serve them to an agent that is on no die of the module. -/
def State.l2Served (s : State) (world pa n : Nat) : State :=
  (lineParts pa n).foldl (fun s p => (s.l2Fill world (128 * p.1) (homeDie (128 * p.1)) 0).1) s

/-- The scale codes of a line's pair, in each of its copies, are brought under a generation with its data (R52, R141). -/
def State.resealSide (s : State) (world pa : Nat) (par : Bool) : State :=
  let lo := pa / 256 * 2
  (List.range 9).foldl (fun s r =>
    match mfind s.l2 (9 * lo + r), mfind s.l2 (9 * (lo + 1) + r) with
    | some x, some y =>
      if x.bps = 0 ∨ x.sgen = par ∨ x.world.toNat ≠ world then s
      else
        let c := s.reseal world x.unit x.sgen par (x.side.toNat + 2 ^ 64 * y.side.toNat)
        let m := mset s.l2 (9 * lo + r) { x with side := BitVec.ofNat 64 c, sgen := par }
        { s with l2 := mset m (9 * (lo + 1) + r) { y with side := BitVec.ofNat 64 (c / 2 ^ 64), sgen := par } }
    | _, _ => s) s

/-- A line is re-encrypted under a generation where it stands, in HBM and in L2 (R52, R411). -/
def State.renew (s : State) (world pa : Nat) (par : Bool) : State :=
  let s := (s.rekey world pa par).resealSide world pa par
  if s.l2.isEmpty then s
  else
    let one (e : Nat × L2Line) : Nat × L2Line := if e.1 / 9 = pa / 128 then (e.1, { e.2 with gen := s.lineBit pa, hbm := none }) else e
    { s with l2 := s.l2.map one }

/-- Who a write is, for the clocks (R155). -/
structure WrBy where
  die    : Nat
  no     : Nat
  clk    : List Nat
  core   : Nat
  stream : Nat
  id     : Nat

/-- A write of die `src` with this number is among those that a clock names. -/
def named (clk : List Nat) (src no : Nat) : Bool := no ≤ nthN clk src

/-- Every die has applied every write: the invalidations under way are done at once, which their order allows at any time. A write that
is no core's comes after this (log 68). -/
def State.flushInvs (s : State) : State := if s.invs.isEmpty then s else { s with invs := [], clks := [] }

/-- What a line holds as stored. -/
def State.lineRaw (s : State) (line : Nat) : BitVec 1024 := BitVec.ofNat 1024 (leNat (rdBs s.mem (128 * line) 128))

/-- A write has been applied to a line at its home; `old` is the module before it. HBM still holds the old line (R133). The die of the
writing core drops its guest copy at once and the home sends invalidations to the others (R134). -/
def State.l2Wrote (s old : State) (by' : Option WrBy) (pa : Nat) : State :=
  let line := pa / 128
  let s := match mfind s.l2 (l2Home line) with
    | some x => if x.bps = 0 ∨ old.lineBit pa = s.lineBit pa then s else s.resealSide x.world.toNat pa (s.lineBit pa)
    | none => s
  let s := match mfind s.l2 (l2Home line) with
    | some x => { s with l2 := mset s.l2 (l2Home line) { x with
        guests := 0, gen := s.lineBit pa,
        hbm := if old.lineBit pa = s.lineBit pa then some (x.hbm.getD (old.lineRaw line)) else none } }
    | none => s
  if s.l2.all (fun e => e.1 / 9 != line || e.1 % 9 == 0) ∧ s.invs.isEmpty then s
  else
    let dies := (List.range 8).filter (fun d => (mfind s.l2 (l2Guest line d)).isSome || s.invs.any (fun v => v.line == line && v.die == d))
    let s := { s with l2 := s.l2.filter (fun e => e.1 / 9 != line || e.1 % 9 == 0) }
    match by' with
    | none => s
    | some b =>
      let one (s : State) (d : Nat) : State :=
        if d = b.die then s
        else
          let (s, n) := s.wait
          { s with invs := s.invs ++ [⟨line, d, old.lineRaw line, old.lineBit pa, b.die, b.no, b.clk, b.core, b.stream, b.id, n⟩] }
      let s := dies.foldl one s
      if s.invs.isEmpty then s
      else { s with clks := mset s.clks line ((List.range 8).map (fun e =>
        Nat.max (nthN (mget [] s.clks line) e) (if e = b.die then b.no else nthN b.clk e))) }

/-- The HBM writes that a die has not applied to its view, by issuing die and number: those that their home has not applied, and those
whose invalidation of its guest copy is under way (R155). -/
def State.outAt (s : State) (die : Nat) : List (Nat × Nat) :=
  s.cores.flatMap (fun e => (e.2.wq.filter (fun w => w.no != 0)).map (fun w => (dieOf e.1, w.no)))
    ++ (s.invs.filter (fun v => v.die == die)).map (fun v => (v.src, v.no))

/-- The clock of a die (R155): for each die, up to which of its writes all have been applied here; its own count from their issue. -/
def State.dieClk (s : State) (die : Nat) : List Nat :=
  let out := s.outAt die
  (List.range 8).map (fun e =>
    if e = die then mget 0 s.dieWr e
    else (out.filter (fun p => p.1 == e)).foldl (fun m p => Nat.min m (p.2 - 1)) (mget 0 s.dieWr e))

/-- A die has applied every write that a clock names. -/
def State.clkMet (s : State) (die : Nat) (clk : List Nat) : Bool := (s.outAt die).all (fun p => !named clk p.1 p.2)
/-- An invalidation under way on a die is of a write that a clock names. -/
def State.clkWaits (s : State) (die : Nat) (clk : List Nat) : Bool := s.invs.any (fun v => v.die == die && named clk v.src v.no)
/-- Every die has applied the writes that a core can have observed (R159). -/
def State.seenAll (s : State) (c : Nat) : Bool :=
  s.invs.isEmpty || (let clk := s.dieClk (dieOf c); s.invs.all (fun v => !named clk v.src v.no))

/-- The module as a die sees some bytes of HBM: a line whose invalidation is under way there reads as its guest copy (R155). -/
def State.viewAt (s : State) (die pa n : Nat) : State :=
  if s.invs.isEmpty ∨ pa / 2 ^ 54 ≠ 0 then s
  else (lineParts pa n).foldl (fun t p =>
    match s.invs.find? (fun v => v.die == die && v.line == p.1) with
    | some v => { t with mem := wrBs t.mem (128 * v.line) (leBytes 128 v.old.toNat), gens := mput false t.gens v.line v.oldGen }
    | none => t) s
/-- A read of some bytes on a die has to wait: a line that no guest copy serves was written after a write that the die has still to
apply. -/
def State.readWaits (s : State) (die pa n : Nat) : Bool :=
  !s.invs.isEmpty && pa / 2 ^ 54 == 0 && (lineParts pa n).any (fun p =>
    !s.invs.any (fun v => v.die == die && v.line == p.1) && s.clkWaits die (mget [] s.clks p.1))

/-- What a line's data is bound to on a die: its generation bit there (R51). -/
def State.bitAt (s : State) (die pa : Nat) : Bool :=
  match s.invs.find? (fun v => v.die == die && v.line == pa / 128) with
  | some v => v.oldGen
  | none => s.lineBit pa
/-- The key generation of the lines of an access, plus 1; that of the line whose key may go first (R51). -/
def State.genOf (s : State) (die world : Nat) (parts : List (Nat × Nat)) : Nat :=
  if world = 0 then 0
  else
    let w := s.world world
    let lines := parts.flatMap (fun p => (lineParts p.1 p.2).map (fun l => 128 * l.1))
    1 + lines.foldl (fun g pa => Nat.min g (w.genNo (s.bitAt die pa))) w.count

/-- What translation finds. -/
inductive Walk
  | leaf (e : TlbEnt)
  | invalid            -- V = 0
  | malformed
  | wrongWorld (pa : Nat)
deriving DecidableEq, Repr

/-- One level of the radix walk (R123, R124); `k` levels remain. A tag that differs is named by the physical address of the request,
or by the table that the entry points to (log 66). -/
def State.walkGo (s : State) (world va : Nat) : Nat → Nat → Walk
  | 0, _ => .malformed
  | k + 1, tab =>
    let lvl := 4 - k
    let i := bits va (16 + 10 * k) 10
    let rd (j : Nat) : Nat := rdN s.mem (tab + 8 * j) 8
    let g := rd (i / 32 * 32)
    let two := lvl = 4 ∧ tbit g 0 ∧ tbit g 4 ∧ bits g 5 2 = 1
    let e := if two then g else rd i
    let ps := bits e 5 2
    let pa := bits e 11 43 * 8192
    if !tbit e 0 then .invalid
    else if bits e 7 4 ≠ 0 ∨ ps = 3 then .malformed
    else if tbit e 4 then
      let size := if ps = 0 then 65536 else if ps = 1 then 2 ^ 21 else 2 ^ 26
      if lvl < 3 ∨ (lvl = 3 ∧ ps ≠ 2) ∨ (lvl = 4 ∧ ps = 2) ∨ pa % size ≠ 0 ∨ (lvl = 4 ∧ ps = 1 ∧ !two) then .malformed
      else if bits e 54 10 ≠ world then .wrongWorld (pa + va % size)
      else .leaf ⟨BitVec.ofNat 10 world, va / size * size, size, pa, tbit e 1, tbit e 2, tbit e 3⟩
    else if lvl = 4 then .malformed
    else if bits e 54 10 ≠ world then .wrongWorld pa
    else s.walkGo world va k pa

/-- A full walk of a world's tables. -/
def State.walk (s : State) (world va : Nat) : Walk := s.walkGo world va 4 (s.world world).root.toNat

/-- A TLB entry that holds an address. -/
def tlbFind (l : List TlbEnt) (world va : Nat) : Option TlbEnt :=
  l.find? (fun e => e.world.toNat == world && e.va ≤ va && va < e.va + e.size)

/-- Add an entry, dropping the oldest beyond the capacity (log 17). -/
def tlbAdd (cap : Nat) (l : List TlbEnt) (e : TlbEnt) : List TlbEnt := (e :: l.filter (· != e)).take cap

/-- The outcome of a translation for one access. -/
inductive Tr
  | ok (pa : Nat)
  | miss
  | page (malformed : Bool)
  | access
deriving DecidableEq, Repr

/-- Permissions an access needs (R124). -/
structure Need where
  r : Bool := false
  w : Bool := false
  x : Bool := false
deriving DecidableEq, Repr

def TlbEnt.permits (e : TlbEnt) (n : Need) : Bool := (!n.r || e.r) && (!n.w || e.w) && (!n.x || e.x)

/-- Translate through the core's L1 TLB only (R125). -/
def State.trL1 (s : State) (c va : Nat) (n : Need) (world : Nat := (s.core c).world.toNat) : Tr :=
  match tlbFind (s.core c).tlb world va with
  | some e => if e.permits n then .ok (s.normPa (e.pa + (va - e.va))) else .access
  | none => .miss

/-- Bring a page's entry into the core's TLBs: the last-level TLB first, a walk on a miss there (R125). -/
def State.trFill (s : State) (c va : Nat) (world : Nat := (s.core c).world.toNat) : State × Walk :=
  let die := dieOf c
  let ll := mget [] s.ltlb die
  let w := match tlbFind ll world va with
    | some e => Walk.leaf e
    | none => s.walk world va
  match w with
  | .leaf e =>
    ({ s with ltlb := mset s.ltlb die (tlbAdd 4096 ll e) }.modCore c (fun k => { k with tlb := tlbAdd 128 k.tlb e }), w)
  | _ => (s, w)

/-- Translate for a unit that waits on a miss itself (R125): copy engines, transfer units, instruction fetch. -/
def State.trFull (s : State) (c va : Nat) (n : Need) (req : Nat := reqCode 1 c) (world : Nat := (s.core c).world.toNat) : State × Tr :=
  match s.trL1 c va n world with
  | .miss =>
    let (s, w) := s.trFill c va world
    (match w with | .wrongWorld pa => s.logErr 1 req (BitVec.ofNat 64 pa) 0 world 0 | _ => s, match w with
      | .leaf e => if e.permits n then .ok (s.normPa (e.pa + (va - e.va))) else .access
      | .invalid => .page false
      | .malformed => .page true
      | .wrongWorld _ => .access)
  | t => (s, t)

/-- Translate for the hub in a world, with a fresh walk (R64, R409). -/
def State.trHub (s : State) (world va : Nat) (n : Need) : Tr :=
  if 2 ^ 56 ≤ va then .access
  else match s.walk world va with
    | .leaf e => if e.permits n then .ok (s.normPa (e.pa + (va - e.va))) else .access
    | .invalid => .page false
    | .malformed => .page true
    | .wrongWorld _ => .access

/-- The parts of a range that lie in one 64 KiB page each. -/
def pageParts (va n : Nat) : List (Nat × Nat) :=
  (List.range ((va % 65536 + n + 65535) / 65536)).map (fun k =>
    let lo := if k = 0 then va else va / 65536 * 65536 + 65536 * k
    (lo, Nat.min (va + n) (va / 65536 * 65536 + 65536 * (k + 1)) - lo))

/-- Where a hub access of a requester kind may go once translated: its home takes it (R41, R54, R57). -/
def State.agentOk (s : State) (kind world pa n : Nat) : Bool :=
  match paKind s.hub.accid pa with
  | .hbm => s.owns world pa n && (s.rangesBad kind pa n).isEmpty
  | .peer | .host => s.routed pa
  | _ => false

/-- What a virtual read of a world by the hub (kind 4) or a kiln (kind 3) returns: none where a byte is not readable or is refused. -/
def State.agentRd (s : State) (kind world va n : Nat) : Option (List Byte) :=
  let go := (pageParts va n).map (fun p =>
    match s.trHub world p.1 { r := true } with
    | .ok pa => if s.agentOk kind world pa p.2 then some (s.plainRd world pa p.2) else none
    | _ => none)
  if go.all (·.isSome) then some (go.filterMap id).flatten else none
def State.hubRd (s : State) (world va n : Nat) : Option (List Byte) := s.agentRd 4 world va n

/-- Whether every byte of a virtual range is mapped with W in a world and passes the world check. -/
def State.hubWritable (s : State) (world va n : Nat) : Bool :=
  n = 0 || (pageParts va n).all (fun p =>
    match s.trHub world p.1 { w := true } with
    | .ok pa => s.agentOk 4 world pa p.2
    | _ => false)

/-- One page of such an access is made: what its translation or its home finds, with the entry or the record of a refusal (R41), and
the count of watched ranges (R57). -/
def State.agentPart (s : State) (kind id world va n : Nat) (wr : Bool) (need : Need) : State × Tr :=
  match (if 2 ^ 56 ≤ va then Walk.invalid else s.walk world va) with
  | .wrongWorld pa => (s.logErr 1 (reqCode kind id) (BitVec.ofNat 64 pa) 0 world 0, .access)
  | _ => match s.trHub world va need with
    | .ok pa => match paKind s.hub.accid pa with
      | .hbm =>
        let (s, ok) := s.homeCheck kind id world pa n wr
        (s, if ok then .ok pa else .access)
      | .peer | .host =>
        if s.routed pa then (s, .ok pa) else (s.logErr 5 (reqCode kind id) (BitVec.ofNat 64 va) 0 world 0, .access)
      | _ => (s, .access)
    | t => (s, t)

/-- A read as it is made, page by page up to the first refusal; its value is `agentRd`'s. -/
def State.agentSees (s : State) (kind id world va n : Nat) : State :=
  ((pageParts va n).foldl (fun (a : State × Bool) p =>
    if a.2 then (match a.1.agentPart kind id world p.1 p.2 false { r := true } with
      | (s, .ok _) => (s, true)
      | (s, _) => (s, false)) else a) (s, true)).1
def State.hubSees (s : State) (world va n : Nat) : State := s.agentSees 4 0 world va n

/-- A store or atomic has been performed at these bytes: waits on their line are read again (R68). -/
def State.waitsTouched (s : State) (pa n : Nat) : State :=
  s.modHub (fun h => { h with opbs := h.opbs.map (fun e => (e.1, { e.2 with
    retry := e.2.retry.filter (fun r => match e.2.waits[r.1]? with
      | some (a, _) => (match s.trHub e.2.world.toNat a.toNat { r := true } with
        | .ok p => !(p / 128 * 128 < pa + n && pa / 128 * 128 < p + 8)
        | _ => true)
      | none => false) })) })

/-- Bytes have been stored at a home; `old` is the module before: the lines' other copies follow, and waits on them are read again
(R68, R134). -/
def State.stored (s old : State) (by' : Option WrBy) (pa n : Nat) : State :=
  let s := if pa / 2 ^ 54 ≠ 0 then s
    else (lineParts pa n).foldl (fun s p => s.l2Wrote old by' (128 * p.1)) (if by'.isNone then s.flushInvs else s)
  s.waitsTouched pa n

/-- Plaintext bytes of a world are stored at their home, encrypted under a generation where the world is sealed (R43). -/
def State.homeWr (s : State) (by' : Option WrBy) (world : Nat) (gen : Bool) (pa : Nat) (bs : List Byte) : State :=
  (s.plainWr world gen pa bs).stored s by' pa bs.length

/-- A virtual write by the hub, page by page; pages that refuse it are skipped by the caller's check. -/
def State.hubWr (s : State) (world va : Nat) (bs : List Byte) : State :=
  (pageParts va bs.length).foldl (fun s p =>
    match s.agentPart 4 0 world p.1 p.2 true { w := true } with
    | (s, .ok pa) => s.homeWr none world (s.world world).cur pa ((bs.drop (p.1 - va)).take p.2)
    | (s, _) => s) s

end Sys2Proof.Machine
end

