-- ==== Sys2Proof/Machine/Operands.lean ====
section
/-! DEFINITION. What each encoded instruction reads and writes, and how long it takes: the operand forms of
Table 13-2, the passes of R270, the latencies and occupancies of Table 13-11 and the interlocks of R112. -/

namespace Sys2Proof

open Machine

/-- The fields of a VC syllable that has the common layout (R255). -/
def Instr.vop : Instr → Option VOp
  | .vadd o | .vsub o | .vmul o | .vfma o | .vfms o | .vfnma o | .vmin o | .vmax o | .vabs o | .vneg o
  | .vdiv o | .vsqrt o | .vrcp o | .vrsq o | .vexp2 o | .vlog2 o | .vtanh o | .vsigm o | .vrnd o | .vclass o
  | .viadd o | .visub o | .vimul24 o | .vimulh24 o | .vimul32 o | .vimulh32 o | .vimac24 o | .vimin o
  | .vimax o | .viabs o | .vand o | .vor o | .vxor o | .vshl o | .vshr o | .vsra o | .vrshr o | .viadds o
  | .vsel o | .vmov o | .vtrn o | .vgath o | .viota o => some o
  | .vsat o _ | .vcvt o _ | .vpack o _ | .vunpk o _ _ | .vqmx o _ | .vdqmx o _ | .vbrd o _ _
  | .vredr o _ | .vredc o _ | .vrotc o _ | .vshc o _ => some o
  | .vcmp _ _ o => some o
  | _ => none

/-- The result element format (R327), where it is a format. -/
def Instr.dfmt (i : Instr) (o : VOp) : Fmt :=
  match i with
  | .vcvt _ f | .vpack _ f | .vunpk _ _ f | .vqmx _ f | .vdqmx _ f => f
  | _ => o.fmt

/-- Elements of a source tile (R327, R347). -/
def Instr.srcN (i : Instr) (n : Nat) : Nat := match i with | .vunpk .. => 2 * n | _ => n
/-- Elements of the result tile (R347). -/
def Instr.dstN (i : Instr) (n : Nat) : Nat := match i with | .vpack .. => 2 * n | _ => n

/-- Tile bytes of operand B (R348, R349). -/
def Instr.bBytes (i : Instr) (o : VOp) (n : Nat) : Nat :=
  match i with
  | .vqmx .. | .vdqmx .. => n / 32
  | .vgath .. => 2 * n
  | _ => tileBytes n o.fmt

/-- Tile bytes of the result. -/
def Instr.dBytes (i : Instr) (o : VOp) (n : Nat) : Nat := tileBytes (i.dstN n) (i.dfmt o)

/-- Passes of a syllable under a shape (R270). -/
def Instr.passes (i : Instr) (vsh : BitVec 32) : Nat :=
  let n := vshN vsh
  match i with
  | .ldv .. | .stv .. => passesOf (tileBytes n (vshFmt vsh))
  | _ => match i.vop with
    | some o => Nat.max (passesOf (tileBytes (i.srcN n) o.fmt)) (passesOf (i.dBytes o n))
    | none => 1

/-- Latency and occupancy of a VC syllable of P passes (Table 13-11). -/
def Instr.vcTime (i : Instr) (p : Nat) : Nat × Nat :=
  match i with
  | .vadd _ | .vsub _ | .vmul _ | .vfma _ | .vfms _ | .vfnma _ | .vmin _ | .vmax _ => (3 + p, p)
  | .vabs _ | .vneg _ | .vrnd _ | .vclass _ => (2 + p, p)
  | .vdiv _ | .vsqrt _ => (12 + 2 * p, 2 * p)
  | .vrcp _ | .vrsq _ | .vexp2 _ | .vlog2 _ | .vtanh _ | .vsigm _ => (8 + p, p)
  | .vimul24 _ | .vimulh24 _ | .vimac24 _ => (3 + p, p)
  | .vimul32 _ | .vimulh32 _ => (3 + 4 * p, 4 * p)
  | .vcvt .. | .vpack .. | .vunpk .. => (3 + p, p)
  | .vqmx .. | .vdqmx .. => (4 + p, p)
  | .vmov _ | .vbrd .. | .viota _ => (1 + p, p)
  | .vredr .. | .vredc .. => (6 + p, p)
  | .vtrn _ | .vrotc .. | .vshc .. => (4 + p, p)
  | .vgath _ => (8 + 2 * p, 2 * p)
  | .pand .. | .por .. | .pxor .. | .pnot .. | .vsetsh _ => (1, 1)
  | .vnop => (0, 0)
  | _ => (2 + p, p)

/-- The address part of an MC syllable. -/
def Instr.maddr : Instr → Option MAddr
  | .ldb o | .ldbu o | .ldh o | .ldhu o | .ldw o | .ldwu o | .ldd o => some o.m
  | .stb o | .sth o | .stw o | .std o => some o.m
  | .ldq _ m | .ldv _ m | .stv _ m | .ldp _ m | .stp _ m | .bind _ _ m => some m
  | .aadd o | .aand o | .aor o | .axor o | .amin o | .amax o | .aminu o | .amaxu o | .aswap o | .acas o
  | .afadd o | .afmax o => some o.m
  | _ => none

/-- An atomic's operation and its destination (R319, R320). -/
def Instr.atom : Instr → Option (AtomK × AtOp)
  | .aadd o => some (.add, o) | .aand o => some (.and, o) | .aor o => some (.or, o) | .axor o => some (.xor, o)
  | .amin o => some (.min, o) | .amax o => some (.max, o) | .aminu o => some (.minu, o)
  | .amaxu o => some (.maxu, o) | .aswap o => some (.swap, o) | .acas o => some (.cas, o)
  | .afadd o => some (.fadd, o) | .afmax o => some (.fmax, o)
  | _ => none

/-- A scalar load: destination, bytes, sign extension (R308). -/
def Instr.load : Instr → Option (XReg × Nat × Bool)
  | .ldb o => some (o.xd, 1, true) | .ldbu o => some (o.xd, 1, false)
  | .ldh o => some (o.xd, 2, true) | .ldhu o => some (o.xd, 2, false)
  | .ldw o => some (o.xd, 4, true) | .ldwu o => some (o.xd, 4, false)
  | .ldd o => some (o.xd, 8, false)
  | _ => none

/-- A scalar store: source and bytes (R309). -/
def Instr.store : Instr → Option (XReg × Nat)
  | .stb o => some (o.xs, 1) | .sth o => some (o.xs, 2) | .stw o => some (o.xs, 4) | .std o => some (o.xs, 8)
  | _ => none

def Instr.isDiv : Instr → Bool
  | .div _ | .divu _ | .rem _ | .remu _ => true
  | _ => false

/-- A divide that takes its operands as signed. -/
def Instr.signedDiv : Instr → Bool
  | .div _ | .rem _ => true
  | _ => false

def Instr.isSpecial : Instr → Bool
  | .vrcp _ | .vrsq _ | .vexp2 _ | .vlog2 _ | .vtanh _ | .vsigm _ => true
  | _ => false

/-- Variable-latency syllables (R110, Table 13-11, R403). -/
def Instr.isVar (i : Instr) : Bool :=
  i.isDiv || i.isSpecial ||
  match i with
  | .qpop .. | .qpeek .. | .sgwait .. | .launch _ | .fork .. | .sreward _ | .sgcancel .. | .sginfo ..
  | .tscore _ | .tgrow _ | .tinfo .. | .estat .. | .iclock _ | .icinv .. | .ldq .. => true
  | .ldv _ m | .ldp _ m => m.space != .sp
  | _ => match i.load with
    | some _ => (match i.maddr with | some m => m.space != .sp | none => false)
    | none => i.atom.isSome

/-- The two source registers and destination of a register form. -/
def Instr.r3 : Instr → Option R3
  | .add o | .sub o | .and o | .or o | .xor o | .andn o | .shl o | .shr o | .sra o | .rotr o
  | .mul o | .mulh o | .mulhu o | .div o | .divu o | .rem o | .remu o | .min o | .max o | .minu o | .maxu o
  | .seq o | .sne o | .slt o | .sltu o | .lea o _ _ | .launch o | .iclock o => some o
  | .sel o _ => some o
  | .bfi o _ _ => some o
  | _ => none

/-- A destination and one source register. -/
def Instr.r2 : Instr → Option (XReg × XReg)
  | .clz o | .ctz o | .popc o | .sreward o | .tscore o | .tgrow o | .kstart o => some (o.xd, o.xa)
  | .cstart o _ => some (o.xd, o.xa)
  | .flueld o _ => some (o.xd, o.xa)
  | .bfx o _ _ _ => some (o.xd, o.xa)
  | .addi o | .andi o | .ori o | .xori o | .muli o | .slti o | .sltui o | .seqi o | .lic o | .brlc o => some (o.xd, o.xa)
  | .shli o | .shri o | .srai o => some (o.xd, o.xa)
  | _ => none

/-- Scalar destinations, in the order in which they are written (R294: the status last). -/
def Instr.xDst (i : Instr) : List XReg :=
  match i with
  | .gred _ xd _ _ xc => [xd, xc]
  | .li xd _ | .addpc xd _ | .qpop xd _ | .qpeek xd _ | .fwait xd _ _ | .gbar xd _ | .gstep xd _ | .mwait xd
  | .fork xd _ _ | .sgwait xd _ | .sgcancel xd _ _ | .sginfo xd _ _ | .tinfo xd _ | .klease xd | .krel xd
  | .estop xd _ | .estat xd _ | .rds xd _ | .icinv xd _ | .spstat xd _ => [xd]
  | .call _ => [31]
  | _ => match i.r3, i.r2, i.load, i.atom with
    | some o, _, _, _ => [o.xd]
    | _, some o, _, _ => [o.1]
    | _, _, some o, _ => [o.1]
    | _, _, _, some o => [o.2.xd]
    | _, _, _, _ => []

/-- Broadcast ports among the sources. -/
def VSrc.xs : VSrc → List XReg
  | .x n => [n]
  | _ => []

/-- Scalar sources. -/
def Instr.xSrc (i : Instr) : List XReg :=
  match i with
  | .sel o xc => [o.xa, o.xb, xc]
  | .brz xa _ | .brnz xa _ | .jr xa | .loop xa _ | .loopm xa _ _ | .qpush _ xa | .fset _ _ xa | .wrs _ xa => [xa]
  | .brlt xa xb _ | .brge xa xb _ | .brltu xa xb _ | .brgeu xa xb _ | .finc _ _ xa xb | .icunlk xa xb => [xa, xb]
  | .fwait _ _ xb | .gred _ _ _ xb _ | .fork _ _ xb | .sgcancel _ _ xb => [xb]
  | .vsetsh x => [x]
  | .pref _ xb xp _ => [xb, xp]
  | .cinv _ xb xl _ => [xb, xl]
  | .acas o => [o.m.xbase, o.m.xpol, o.xd]
  | _ => match i.store, i.maddr, i.vop, i.r3, i.r2 with
    | some s, some m, _, _, _ => [s.1, m.xbase, m.xpol]
    | _, some m, _, _, _ => [m.xbase, m.xpol]
    | _, _, some o, _, _ => o.a.xs ++ o.b.xs ++ o.c.xs
    | _, _, _, some o, _ => [o.xa, o.xb]
    | _, _, _, _, some o => [o.2]
    | _, _, _, _, _ => []

/-- Vector registers read and written, by port number. -/
def VSrc.vs : VSrc → List Nat
  | .v n => [n.toNat]
  | _ => []
def VDst.vs : VDst → List Nat
  | .v n => [n.toNat]
  | _ => []
def Instr.vSrc (i : Instr) : List Nat :=
  match i with
  | .stv v _ => [v.toNat]
  | .vqmx o _ => o.a.vs
  | _ => match i.vop with | some o => o.a.vs ++ o.b.vs ++ o.c.vs | none => []
def Instr.vDst (i : Instr) : List Nat :=
  match i with
  | .ldv v _ => [v.toNat]
  | .vqmx o _ => o.d.vs ++ o.b.vs
  | _ => match i.vop with | some o => o.d.vs | none => []
/-- Predicates read and written, by field value. -/
def Instr.pSrc (i : Instr) : List Nat :=
  match i with
  | .pand _ a b | .por _ a b | .pxor _ a b => [a.toNat, b.toNat]
  | .pnot _ a => [a.toNat]
  | .stp p _ => [p.toNat]
  | _ => match i.vop with | some o => [o.p.toNat] | none => []
def Instr.pDst : Instr → List Nat
  | .pand d _ _ | .por d _ _ | .pxor d _ _ | .pnot d _ => [d.toNat]
  | .vcmp d _ _ => [d.toNat]
  | .ldp p _ => [p.toNat]
  | _ => []

/-- Whether a VC syllable produces a tile result (R332). -/
def Instr.tileResult (i : Instr) : Bool :=
  match i with
  | .vcmp .. => false
  | _ => i.vop.isSome

/-- A register an operation reads or writes, physical: space 0 x of a context, 1 v, 2 p, 3 VSH. -/
abbrev RegId := Nat × Nat

/-- Registers read: scalar ones of the issuing context; broadcast ports read K's (R257). -/
def Instr.reads (i : Instr) (k : Core) (x : Nat) : List RegId :=
  (i.xSrc.filter (· != 0)).map (fun r => (0, 32 * x + r.toNat))
    ++ i.vSrc.map (fun n => (1, k.vphys n))
    ++ (i.pSrc.filter (· != 0)).map (fun n => (2, k.pphys n))
    ++ (if i.vop.isSome || (match i with | .ldv .. | .stv .. | .ldp .. | .stp .. => true | _ => false) then [(3, 0)] else [])

/-- Registers written. -/
def Instr.writes (i : Instr) (k : Core) (x : Nat) : List RegId :=
  (i.xDst.filter (· != 0)).map (fun r => (0, 32 * x + r.toNat))
    ++ i.vDst.map (fun n => (1, k.vphys n))
    ++ (i.pDst.filter (· != 0)).map (fun n => (2, k.pphys n))
    ++ (match i with | .vsetsh _ => [(3, 0)] | _ => [])

/-- The fixed latency of a syllable that has one (Table 13-11), with P passes. -/
def Instr.fixedLat (i : Instr) (p : Nat) : Nat :=
  match i with
  | .mul _ | .mulh _ | .mulhu _ | .muli _ => 3
  | .kstart _ | .cstart .. | .estop .. | .flueld .. | .rds .. | .spstat .. => 2
  | .ldv .. => 6 + p
  | .ldp .. => 5
  | _ => if i.load.isSome then 4
    else match i with
      | .vcmp .. => (i.vcTime p).1
      | .pand .. | .por .. | .pxor .. | .pnot .. | .vsetsh _ => 1
      | _ => if i.vop.isSome then (i.vcTime p).1 else 1

/-- Occupancy (Table 13-11, R272). -/
def Instr.occ (i : Instr) (p : Nat) : Nat :=
  match i with
  | .ldv .. | .stv .. => p
  | _ => if i.vop.isSome then (i.vcTime p).2 else 1

end Sys2Proof

namespace Sys2Proof.Machine

/-- Two results of one parcel in one register in one SCYC (R109, DETAIL 3). -/
def twice (k : Core) (x : Nat) (l : List Instr) : Bool :=
  let w := l.map (fun i => if i.isVar then [] else
    ((i.writes k x).eraseDups).map (fun r => (r, i.fixedLat (i.passes k.sys.vsh))))
  let all := w.flatten
  all.length != all.eraseDups.length

/-- An interlocked syllable is held while an earlier operation writes a register it names (R112). -/
def hazard (k : Core) (x : Nat) (i : Instr) : Bool :=
  let names := i.reads k x ++ i.writes k x
  k.flights.any (fun f => f.src == x &&
    (f.i.xDst.any (fun r => r != 0 && names.contains (0, 32 * x + r.toNat))
      || (f.i.tileResult && f.i.vDst != [] && names.contains (1, f.dest))
      || (match f.i with
          | .ldv .. => names.contains (1, f.dest)
          | .ldp .. | .vcmp .. | .pand .. | .por .. | .pxor .. | .pnot .. => names.contains (2, f.dest)
          | .vqmx o _ => names.contains (1, f.ea.toNat) && o.b != .none
          | .vsetsh _ => names.contains (3, 0)
          | _ => false)
      || (f.i.tileResult && (match i.vop with
          | some o => [o.a, o.b, o.c].any (fun p => match p with | .va _ => f.slot == 2 | .vb _ => f.slot == 3 | _ => false)
          | none => false))))

end Sys2Proof.Machine
end

