-- ==== Sys2Proof/Machine/Scalar.lean ====
section
/-! DEFINITION. The integer register, immediate and address forms of the SC class (14 R276-R279). -/

namespace Sys2Proof.Machine

/-- A truth value as a register value (Table 14-1). -/
def ofBit (b : Bool) : Word := if b then 1 else 0

/-- High halves of the 128-bit products. -/
def mulhS (a b : Word) : Word := wordOf (a.toInt * b.toInt / 2 ^ 64)
def mulhU (a b : Word) : Word := BitVec.ofNat 64 (a.toNat * b.toNat / 2 ^ 64)

/-- Quotients and remainders with the special cases of R277. -/
def divS (a b : Word) : Word := if b = 0 then BitVec.allOnes 64 else a.sdiv b
def divU (a b : Word) : Word := if b = 0 then BitVec.allOnes 64 else a / b
def remS (a b : Word) : Word := if b = 0 then a else a.srem b
def remU (a b : Word) : Word := if b = 0 then a else a % b

/-- What a divide writes. -/
def divVal (i : Instr) (a b : Word) : Word :=
  match i with
  | .div _ => divS a b
  | .divu _ => divU a b
  | .rem _ => remS a b
  | _ => remU a b

/-- Cycles of a divide: n is the number of significant bits of the dividend's magnitude (R277). -/
def divLat (signed : Bool) (a : Word) : Nat :=
  let n := bitlen (if signed then a.toInt.natAbs else a.toNat)
  6 + min 32 (2 * ((n + 3) / 4))

/-- Leading and trailing zeros and set bits (Table 14-1). -/
def clzW (a : Word) : Word := BitVec.ofNat 64 (64 - bitlen a.toNat)
def ctzGo (v : Nat) : Nat → Nat
  | 0 => 0
  | k + 1 => if v % 2 = 1 then 0 else 1 + ctzGo (v / 2) k
def ctzW (a : Word) : Word := BitVec.ofNat 64 (ctzGo a.toNat 64)
def popGo (v : Nat) : Nat → Nat
  | 0 => 0
  | k + 1 => v % 2 + popGo (v / 2) k
def popW (a : Word) : Word := BitVec.ofNat 64 (popGo a.toNat 64)

/-- A bit field taken out, zero- or sign-extended, and put in (R278). -/
def bfxW (sx : Bool) (pos len : Nat) (a : Word) : Word :=
  let v := bits a.toNat pos len
  if sx then wordOf (sextN len v) else BitVec.ofNat 64 v
def bfiW (pos len : Nat) (a b : Word) : Word := BitVec.ofNat 64 (setBits b.toNat pos len a.toNat)

/-- A signed immediate (R274). -/
def simm (imm : BitVec 30) : Word := imm.signExtend 64
def uimm (imm : BitVec 30) : Word := imm.zeroExtend 64

/-- What a scalar operation writes, from the sources captured at its issue: `x` is its context, `d` the value held in
DATA for the operations whose result comes from elsewhere. -/
def evalSC (i : Instr) (x : Nat) (pc : Word) (ops : List Word) (d : Nat) : List (XReg × Word) :=
  let a := nthW ops 0
  let b := nthW ops 1
  let sh := b.toNat % 64
  match i with
  | .add o => [(o.xd, a + b)]
  | .sub o => [(o.xd, a - b)]
  | .and o => [(o.xd, a &&& b)]
  | .or o => [(o.xd, a ||| b)]
  | .xor o => [(o.xd, a ^^^ b)]
  | .andn o => [(o.xd, a &&& ~~~b)]
  | .shl o => [(o.xd, a <<< sh)]
  | .shr o => [(o.xd, a >>> sh)]
  | .sra o => [(o.xd, a.sshiftRight sh)]
  | .rotr o => [(o.xd, a.rotateRight sh)]
  | .mul o => [(o.xd, a * b)]
  | .mulh o => [(o.xd, mulhS a b)]
  | .mulhu o => [(o.xd, mulhU a b)]
  | .div o | .divu o | .rem o | .remu o => [(o.xd, BitVec.ofNat 64 d)]
  | .min o => [(o.xd, if a.slt b then a else b)]
  | .max o => [(o.xd, if a.slt b then b else a)]
  | .minu o => [(o.xd, if a < b then a else b)]
  | .maxu o => [(o.xd, if a < b then b else a)]
  | .seq o => [(o.xd, ofBit (a == b))]
  | .sne o => [(o.xd, ofBit (a != b))]
  | .slt o => [(o.xd, ofBit (a.slt b))]
  | .sltu o => [(o.xd, ofBit (a < b))]
  | .sel o _ => [(o.xd, if nthW ops 2 = 0 then b else a)]
  | .clz o => [(o.xd, clzW a)]
  | .ctz o => [(o.xd, ctzW a)]
  | .popc o => [(o.xd, popW a)]
  | .bfx o sx pos len1 => [(o.xd, bfxW sx pos.toNat (len1.toNat + 1) a)]
  | .bfi o pos len1 => [(o.xd, bfiW pos.toNat (len1.toNat + 1) a b)]
  | .addi o => [(o.xd, a + simm o.imm)]
  | .andi o => [(o.xd, a &&& uimm o.imm)]
  | .ori o => [(o.xd, a ||| uimm o.imm)]
  | .xori o => [(o.xd, a ^^^ uimm o.imm)]
  | .shli o => [(o.xd, a <<< o.n.toNat)]
  | .shri o => [(o.xd, a >>> o.n.toNat)]
  | .srai o => [(o.xd, a.sshiftRight o.n.toNat)]
  | .muli o => [(o.xd, a * simm o.imm)]
  | .slti o => [(o.xd, ofBit (a.slt (simm o.imm)))]
  | .sltui o => [(o.xd, ofBit (a < simm o.imm))]
  | .seqi o => [(o.xd, ofBit (a == simm o.imm))]
  | .li xd imm => [(xd, simm imm)]
  | .lic o => [(o.xd, (a <<< 30) ||| uimm o.imm)]
  | .addpc xd imm => [(xd, pc + simm imm)]
  | .lea o k e => [(o.xd, a + (b <<< k.toNat) + e.signExtend 64)]
  | .call _ => [(31, pc + BitVec.ofNat 64 (parcelBytes x))]
  | .brlc o => [(o.xd, a - 1)]
  | .rds xd _ => [(xd, a)]
  | .spstat xd _ => [(xd, a)]
  | .gred _ xd _ _ xc => [(xd, BitVec.ofNat 64 d), (xc, BitVec.ofNat 64 (d / 2 ^ 64))]
  | _ => i.xDst.map (fun r => (r, BitVec.ofNat 64 d))

/-- A register form without a wait: its sources are captured at issue, its result lands at the latency (R109). -/
def sc3 (i : Instr) (o : R3) (s : State) : Res :=
  issue i s (fun s => flyFixed s i (i.fixedLat 1) [s.my.rx o.xa, s.my.rx o.xb])

/-- A form with one register source. -/
def sc1 (i : Instr) (xa : XReg) (s : State) : Res :=
  issue i s (fun s => flyFixed s i (i.fixedLat 1) [s.my.rx xa])

/-- A divide: a second one of the context stalls at issue while the first is in flight (R272, R277). Its result is held in DATA from
the start, so that a stop records it with STATE 3 (R275). -/
def scDiv (i : Instr) (o : R3) (s : State) : Res :=
  issue i s (fun s =>
    if s.me.flights.any (fun f => f.src == s.cur.src && f.i.isDiv) then stallOn s .other
    else
      let a := s.my.rx o.xa
      let b := s.my.rx o.xb
      fly s { blankFlight s i with
        tok := s.cur.tok, phase := .captured, remain := divLat i.signedDiv a, ops := [a, b], data := (divVal i a b).toNat })

/-- SC_NOP (R252): no effect. -/
def execScNop (s : State) : Res := issue .scNop s (fun s => s)

/- Table 14-1. -/
def execAdd (o : R3) (s : State) : Res := sc3 (.add o) o s
def execSub (o : R3) (s : State) : Res := sc3 (.sub o) o s
def execAnd (o : R3) (s : State) : Res := sc3 (.and o) o s
def execOr (o : R3) (s : State) : Res := sc3 (.or o) o s
def execXor (o : R3) (s : State) : Res := sc3 (.xor o) o s
def execAndn (o : R3) (s : State) : Res := sc3 (.andn o) o s
def execShl (o : R3) (s : State) : Res := sc3 (.shl o) o s
def execShr (o : R3) (s : State) : Res := sc3 (.shr o) o s
def execSra (o : R3) (s : State) : Res := sc3 (.sra o) o s
def execRotr (o : R3) (s : State) : Res := sc3 (.rotr o) o s
def execMul (o : R3) (s : State) : Res := sc3 (.mul o) o s
def execMulh (o : R3) (s : State) : Res := sc3 (.mulh o) o s
def execMulhu (o : R3) (s : State) : Res := sc3 (.mulhu o) o s
def execMin (o : R3) (s : State) : Res := sc3 (.min o) o s
def execMax (o : R3) (s : State) : Res := sc3 (.max o) o s
def execMinu (o : R3) (s : State) : Res := sc3 (.minu o) o s
def execMaxu (o : R3) (s : State) : Res := sc3 (.maxu o) o s
def execSeq (o : R3) (s : State) : Res := sc3 (.seq o) o s
def execSne (o : R3) (s : State) : Res := sc3 (.sne o) o s
def execSlt (o : R3) (s : State) : Res := sc3 (.slt o) o s
def execSltu (o : R3) (s : State) : Res := sc3 (.sltu o) o s
def execDiv (o : R3) (s : State) : Res := scDiv (.div o) o s
def execDivu (o : R3) (s : State) : Res := scDiv (.divu o) o s
def execRem (o : R3) (s : State) : Res := scDiv (.rem o) o s
def execRemu (o : R3) (s : State) : Res := scDiv (.remu o) o s
def execSel (o : R3) (xc : XReg) (s : State) : Res :=
  issue (.sel o xc) s (fun s => flyFixed s (.sel o xc) 1 [s.my.rx o.xa, s.my.rx o.xb, s.my.rx xc])
def execClz (o : R2) (s : State) : Res := sc1 (.clz o) o.xa s
def execCtz (o : R2) (s : State) : Res := sc1 (.ctz o) o.xa s
def execPopc (o : R2) (s : State) : Res := sc1 (.popc o) o.xa s
/- R278. -/
def execBfx (o : R2) (sx : Bool) (pos len1 : BitVec 6) (s : State) : Res := sc1 (.bfx o sx pos len1) o.xa s
def execBfi (o : R3) (pos len1 : BitVec 6) (s : State) : Res := sc3 (.bfi o pos len1) o s
/- Table 14-2. -/
def execAddi (o : I2) (s : State) : Res := sc1 (.addi o) o.xa s
def execAndi (o : I2) (s : State) : Res := sc1 (.andi o) o.xa s
def execOri (o : I2) (s : State) : Res := sc1 (.ori o) o.xa s
def execXori (o : I2) (s : State) : Res := sc1 (.xori o) o.xa s
def execMuli (o : I2) (s : State) : Res := sc1 (.muli o) o.xa s
def execSlti (o : I2) (s : State) : Res := sc1 (.slti o) o.xa s
def execSltui (o : I2) (s : State) : Res := sc1 (.sltui o) o.xa s
def execSeqi (o : I2) (s : State) : Res := sc1 (.seqi o) o.xa s
def execLic (o : I2) (s : State) : Res := sc1 (.lic o) o.xa s
def execShli (o : Sh) (s : State) : Res := sc1 (.shli o) o.xa s
def execShri (o : Sh) (s : State) : Res := sc1 (.shri o) o.xa s
def execSrai (o : Sh) (s : State) : Res := sc1 (.srai o) o.xa s
def execLi (xd : XReg) (imm : BitVec 30) (s : State) : Res := issue (.li xd imm) s (fun s => flyFixed s (.li xd imm) 1 [])
def execAddpc (xd : XReg) (imm : BitVec 30) (s : State) : Res :=
  issue (.addpc xd imm) s (fun s => flyFixed s (.addpc xd imm) 1 [])
def execLea (o : R3) (k : BitVec 3) (d : BitVec 27) (s : State) : Res := sc3 (.lea o k d) o s

end Sys2Proof.Machine
end

