-- ==== Sys2Proof/Machine/Flags.lean ====
section
/-! DEFINITION. FPST (09 R184, R185), the flags f0-f63 (06 R107, R108; 08 R159), the flag-wait log (11 R219), L1
generations (07 R130, R131) and the conditions of releases and fences (08 R159; 15 R322). -/

namespace Sys2Proof.Machine

/-- Flags of the operations that land in one SCYC are set together (R185). -/
def Core.orFpst (k : Core) (f : Nat) : Core :=
  { k with sys := { k.sys with fpst := k.sys.fpst ||| BitVec.ofNat 32 f } }

/-- Release scope carried by an annotation: its scope code + 1, or the widest FENCE before it (R152, R159). -/
def relWide (os : OS) (t : Ctx) : Nat :=
  Nat.max (if os.ord = .rel ∨ os.ord = .ar then os.scope.code + 1 else 0) t.frel

/-- One write to a flag by a setter (16 bits, R219): a value set or an increment. -/
def Core.flagWrite (k : Core) (f : Nat) (set : Bool) (v : BitVec 32) (setter wide : Nat) (first : Bool) : Core :=
  let x := if set then v else k.flag f + v
  let h := if first then [] else mget [] k.fhist f
  { k with
    flags := mput 0 k.flags f x,
    fhist := mset k.fhist f (h ++ [(setter, x)]),
    flagOs := mput 0 k.flagOs f (Nat.max wide (mget 0 k.flagOs f)) }

/-- The setter code of a stream of a core (R219). -/
def setterCode (stream core : Nat) : Nat := stream * 2 ^ 13 + core

/-- Insert an increment in the order of R219. -/
def incInsert (i : FlagInc) : List FlagInc → List FlagInc
  | [] => [i]
  | j :: l => if i.key < j.key then i :: j :: l else j :: incInsert i l

/-- The key of R219 for a core's own engines (0-2) and for a FINC. -/
def fincKey (core ctx : Nat) : Nat := 3 + 4 * core + ctx

/-- The setter of an increment's key. -/
def keySetter (own key : Nat) : Nat :=
  if key < 3 then setterCode (3 + key) own else setterCode ((key - 3) % 4) ((key - 3) / 4)

/-- Apply the FSETs and increments that reach flags in one SCYC (R107): FSETs in context order, the last one
setting the value, then every increment. `sets` holds context, flag, value and release scope. -/
def Core.flagCycle (k : Core) (own : Nat) (sets : List (Nat × Nat × BitVec 32 × Nat)) (incs : List FlagInc) : Core :=
  let go := sets.foldl (fun (a : Core × List Nat) e =>
    (a.1.flagWrite e.2.1 true e.2.2.1 (setterCode e.1 own) e.2.2.2 (!a.2.contains e.2.1), e.2.1 :: a.2)) (k, [])
  (incs.foldl (fun (a : Core × List Nat) i =>
    (a.1.flagWrite i.flag false i.val (keySetter own i.key) i.wide (!a.2.contains i.flag), i.flag :: a.2)) go).1

/-- The setter whose write made a flag reach a target (R219): the first contribution of its last change after which
the target is reached. -/
def Core.setterOf (k : Core) (f : Nat) (target : BitVec 32) : Nat :=
  match (mget [] k.fhist f).find? (fun e => reaches e.2 target) with
  | some e => e.1
  | none => setterCode 7 0

/-- Log a flag wait (R219): waiter stream, flag, target, cycles, and code 0 satisfied, 1-3 released, 4 stopped. -/
def State.logWait (s : State) (c stream f : Nat) (target : BitVec 32) (cycles code : Nat) : State :=
  if cycles < s.hub.trc.fwthr.toNat then s
  else
    let k := s.core c
    let setter := if code = 0 then k.setterOf f target else setterCode 7 0
    s.trace 22 4 c k.scyc.toNat (f + 256 * stream) target.toNat
      (leBytes 8 cycles ++ leBytes 2 setter ++ leBytes 1 code ++ leBytes 5 0)

/-- A bump that would make GEN a multiple of 128 waits for the sweep in progress (R131). -/
def Core.bumpWaits (k : Core) : Bool := (k.l1gen + 1).toNat % 128 == 0 && k.sweep != 0

/-- GENBUMP (R130, R131); a sweep ends within 8,192 cycles (log 5). -/
def Core.genbump (k : Core) : Core :=
  let g := k.l1gen + 1
  { k with l1gen := g, sweep := if g.toNat % 128 = 0 then 1 + Config.sweepTime g.toNat % 8192 else k.sweep }

/-- Whether an acquire of this scope carries a GENBUMP (R129). -/
def bumps (x : ScopeK) : Bool := 2 ≤ x.code

/-- Stores, atomics and remote FINCs. -/
def isWrite (i : Instr) : Bool :=
  i.store.isSome || i.atom.isSome ||
  match i with
  | .stv .. | .stp .. | .finc .. => true
  | _ => false

/-- Loads and atomics. -/
def isRead (i : Instr) : Bool :=
  i.load.isSome || i.atom.isSome ||
  match i with
  | .ldq .. | .ldv .. | .ldp .. => true
  | _ => false

/-- Fences and cache operations that hold the next parcel (R322). -/
def isFence : Instr → Bool
  | .fence _ | .syncg _ | .rcfence | .cinv .. => true
  | _ => false

/-- The ordering annotation of an access. -/
def Flight.os (f : Flight) : OS :=
  match f.i.maddr, f.i with
  | some m, _ => m.os
  | _, .finc os .. => os
  | _, _ => ⟨.none, .ctx⟩
def isAcq (o : OS) : Bool := o.ord == .acq || o.ord == .ar
def isRel (o : OS) : Bool := o.ord == .rel || o.ord == .ar

/-- A later access of the stream has to wait: an acquire of it has no data yet (Table 8-3; log 69). -/
def Core.acqAway (k : Core) (x : Nat) : Bool := k.flights.any (fun g => g.src == x && isRead g.i && isAcq g.os && g.phase.away)

/-- Every write of a stream issued before `id` has been accepted by the write path. -/
def Core.accepted (k : Core) (stream id : Nat) : Bool :=
  k.flights.all (fun f => !(f.src == stream && f.id < id && isWrite f.i && f.phase == .unsent))

/-- A write that is still to enter the write path. -/
def Flight.toApply (f : Flight) : Bool := isWrite f.i && (f.phase == .unsent || f.phase == .held)
/-- Every such write has entered the write path. -/
def Core.entered (k : Core) (stream id : Nat) : Bool := k.flights.all (fun f => !(f.src == stream && f.id < id && f.toApply))

/-- Every such write has been applied at its home. -/
def Core.applied (k : Core) (stream id : Nat) : Bool :=
  k.entered stream id && k.wq.all (fun w => !(w.stream == stream && w.id < id))

/-- Every such write that leaves the module has been acknowledged by its destination (R156). -/
def Core.acked (k : Core) (stream id : Nat) : Bool :=
  k.entered stream id && k.wq.all (fun w => !(w.stream == stream && w.id < id && w.kind == 0 && w.addr / 2 ^ 54 != 0))

/-- Every write the core has issued before `id`, of any of its streams, has been applied: the writes a stream can
have observed before their home applied them are those of its own core. -/
def Core.observed (k : Core) (id : Nat) : Bool :=
  k.wq.all (fun w => id ≤ w.id) && k.flights.all (fun f => !(f.id < id && f.toApply))

/-- A read whose value is not bound yet. -/
def Flight.unbound (f : Flight) : Bool := isRead f.i && (f.phase == .unsent || f.phase == .held || f.phase == .sent)
/-- Every read the core has issued before `id`, of any of its streams, is bound. -/
def Core.bound (k : Core) (id : Nat) : Bool := k.flights.all (fun f => !(f.id < id && f.unbound))

/-- A port's write drain is unfinished: tiles of the binding context's bindings still to be written (R317). -/
def Core.draining (k : Core) (x : Nat) : Bool :=
  k.ports.any (fun p => p.2.wr && p.2.ctx == x && (!p.2.tiles.isEmpty || !p.2.part.isEmpty))

/-- What keeps a stream from its rendezvous or barrier: a read not yet bound, a write not accepted, passes of a scratchpad access still to
come, tiles still to be drained (Table 8-3). -/
def Core.heldBack (k : Core) (x : Nat) : Bool :=
  k.flights.any (fun f => f.src == x && (f.unbound || (isWrite f.i && f.phase == .unsent)))
    || k.passes.any (fun p => p.1 == x) || k.draining x

/-- No FINC of a stream is on its way to its flag. -/
def State.fincsGone (s : State) (c x : Nat) : Bool := s.hub.fincs.all (fun f => f.src != 4 * c + x)

/-- The wait of a release (Table 8-5). -/
def State.released (s : State) (c x id : Nat) (scope : ScopeK) : Bool :=
  let k := s.core c
  match scope with
  | .ctx => true
  | .core | .clu | .mod => k.accepted x id && !k.draining x
  | .die => k.applied x id && s.fincsGone c x && !k.draining x
  | .pod | .sys => k.acked x id && !k.draining x

/-- Every earlier load of a stream has its data (R322). -/
def Core.loaded (k : Core) (x id : Nat) : Bool :=
  k.flights.all (fun f => !(f.src == x && f.id < id && isRead f.i && f.phase.away)) && k.passes.all (fun p => !(p.1 == x && p.2.1 < id))

/-- Every earlier write of a stream has been applied at its home, and with a scope of `mod` or wider at the dies that hold guest copies
(R159). -/
def State.fenced (s : State) (c x id : Nat) (scope : ScopeK) : Bool :=
  let k := s.core c
  k.applied x id && s.fincsGone c x && !k.draining x
    && (scope.code < 4 || s.invs.all (fun v => !(v.core == c && v.stream == x)))

/-- Whether a fence of a stream completes (R322-R324); CINV completes when its lines are done. -/
def State.fenceDone (s : State) (c : Nat) (f : Flight) : Bool :=
  let k := s.core c
  match f.i with
  | .fence os => match os.ord with
    | .acq => k.loaded f.src f.id && !(bumps os.scope && k.bumpWaits)
    | .rel => s.released c f.src f.id os.scope
    | _ => k.loaded f.src f.id && s.fenced c f.src f.id os.scope && !(bumps os.scope && k.bumpWaits)
  | .syncg scope =>
    k.loaded f.src f.id && s.fenced c f.src f.id scope && (scope == .ctx || k.observed f.id)
      && (scope.code < 4 || s.seenAll c) && !(bumps scope && k.bumpWaits)
  | .rcfence => s.released c f.src f.id .core
  | _ => false

/-- What a completed fence does. -/
def Core.fenceEnd (k : Core) (f : Flight) : Core :=
  let k := k.dropFlight f
  match f.i with
  | .fence os =>
    let k := if os.ord ≠ .rel ∧ bumps os.scope then k.genbump else k
    if os.ord = .acq then k else k.modCtx f.src (fun t => { t with frel := Nat.max t.frel (os.scope.code + 1) })
  | .syncg scope =>
    let k := if bumps scope then k.genbump else k
    k.modCtx f.src (fun t => { t with frel := Nat.max t.frel (scope.code + 1) })
  | .rcfence => { k with recs := [] }
  | _ => k

end Sys2Proof.Machine
end

