-- ==== Sys2Proof/Machine/Sync.lean ====
section
/-! DEFINITION. Queues, flags, the rendezvous and group barriers (14 R289-R294; 06 R102, R104-R108). -/

namespace Sys2Proof.Machine

/-- A queue. -/
def Core.que (k : Core) (q : Nat) : Que := mget {} k.queues q
def Core.setQue (k : Core) (q : Nat) (x : Que) : Core := { k with queues := mput {} k.queues q x }

/-- Whether an L1 line is locked by a queue entry (R132). -/
def Core.locked (k : Core) (line : Nat) : Bool :=
  k.queues.any (fun q => q.2.ents.any (fun e => e.lock == some line))

/-- The number of locked lines; one locked by several LDQs counts once. -/
def Core.lockCount (k : Core) : Nat :=
  ((k.queues.map (fun q => q.2.ents.filterMap (·.lock))).flatten.eraseDups).length

/-- Whether the L1 line of a physical line is. -/
def Core.lockedPa (k : Core) (line : Nat) : Bool :=
  k.queues.any (fun q => q.2.ents.any (fun e => e.lockPa == some line))

/-- A line that no LDQ locks any more is judged as any line (R132): it goes where it is stale or was invalidated while locked (R325). -/
def Core.unlockLine (k : Core) (line : Nat) : Core :=
  if k.lockedPa line then k
  else match mfind k.l1 line with
    | some x => { k with l1 := if x.gen = k.l1gen ∧ x.kill.isEmpty then mset k.l1 line { x with keep := false } else mdel k.l1 line }
    | none => k
def Core.unlock (k : Core) (lock : Option Nat) : Core := match lock with | some l => k.unlockLine l | none => k

/-- The queues are emptied, and every line unlocks (R103, R132). -/
def Core.dropQueues (k : Core) : Core :=
  (k.queues.flatMap (fun q => q.2.ents.filterMap (·.lockPa))).foldl Core.unlockLine { k with queues := [] }

/-- Room for a push: a queue that is full, or one for which an earlier context waits with a push in this cycle, has
none (R105). -/
def State.room (s : State) (q : BitVec 3) : Bool :=
  let k := s.me
  (k.que q.toNat).ents.length < 8 &&
    !(!s.cur.dry && (List.range s.cur.src).any (fun y => (k.ctx y).wait == some (.queue q true)))

/-- Push an entry; pops see it from the next SCYC on (R105). -/
def Core.push (k : Core) (q : Nat) (e : QEnt) : Core :=
  let x := k.que q
  k.setQue q { ents := x.ents ++ [e], fresh := x.fresh + 1 }

/-- QPUSH (R289). -/
def execQpush (q : BitVec 3) (xa : XReg) (s : State) : Res :=
  issue (.qpush q xa) s (fun s =>
    if s.room q then s.modMe (fun k => k.push q.toNat { val := some (s.my.rx xa), src := 0, lock := none })
    else stallOn s (.queue q true))

/-- QPOP and QPEEK: the head entry, filled or reserved (R104, R289). -/
def popLike (i : Instr) (q : BitVec 3) (take : Bool) (s : State) : Res :=
  issue i s (fun s =>
    let x := s.me.que q.toNat
    match x.ents with
    | e :: rest =>
      if x.ents.length ≤ x.fresh then stallOn s (.queue q false)
      else
        let s := if take then s.modMe (fun k => (k.setQue q.toNat { x with ents := rest }).unlock e.lockPa) else s
        match e.val with
        | some v => fly s { blankFlight s i with tok := s.cur.tok, phase := .captured, remain := 2, data := v.toNat }
        | none => fly s { blankFlight s i with tok := s.cur.tok, phase := .unsent, live := false, dest := e.src }
    | [] => stallOn s (.queue q false))
def execQpop (xd : XReg) (q : BitVec 3) (s : State) : Res := popLike (.qpop xd q) q true s
def execQpeek (xd : XReg) (q : BitVec 3) (s : State) : Res := popLike (.qpeek xd q) q false s

/-- A flag of the own core is written once an acquire of the stream has its data, and a release once its condition holds (Table 8-3,
Table 8-5). -/
def flagWaits (s : State) (os : OS) : Bool :=
  s.me.acqAway s.cur.src || (isRel os && !s.released s.cur.core s.cur.src s.me.nextId os.scope)

/-- FSET (R290): the flag changes at issue + 1; DATA holds the release scope. -/
def execFset (os : OS) (f : BitVec 6) (xa : XReg) (s : State) : Res :=
  issue (.fset os f xa) s (fun s =>
    if flagWaits s os then stallOn s .other
    else fly s { blankFlight s (.fset os f xa) with
      remain := 1, ops := [(s.my.rx xa).setWidth 32 |>.setWidth 64], dest := f.toNat, data := relWide os s.my })

/-- FINC (R290): local when xa is the issuer's core id; a remote one follows the stream's earlier stores. -/
def execFinc (os : OS) (f : BitVec 6) (xa xb : XReg) (s : State) : Res :=
  let i : Instr := .finc os f xa xb
  issue i s (fun s =>
    let c := s.my.rx xa
    let x := { blankFlight s i with ops := [(s.my.rx xb).setWidth 32 |>.setWidth 64, c], dest := f.toNat,
                                    data := relWide os s.my }
    if 512 ≤ c.toNat then raiseAt s 6 0 c
    else if c.toNat = s.cur.core then (if flagWaits s os then stallOn s .other else fly s { x with remain := 1 })
    else fly s { x with phase := .unsent, remain := 2, ea := c })

/-- A stall has ended: the parcel issues and the result lands one cycle later (R292). -/
def passWait (s : State) (i : Instr) (data : Nat) : State :=
  let s := { s with cur := { s.cur with verdict := .go } }
  fly s { blankFlight s i with remain := 1, data := data }

/-- FWAIT (R108, R159, R291): reaches its target, or is released with a code. -/
def execFwait (xd : XReg) (f : BitVec 6) (xb : XReg) (s : State) : Res :=
  let i : Instr := .fwait xd f xb
  issue i s (fun s =>
    let k := s.me
    let t := s.my
    let target : BitVec 32 := (t.rx xb).setWidth 32
    let log (s : State) (code : Nat) : State :=
      if t.wait = some (.flag f target) then s.logWait s.cur.core s.cur.src f.toNat target t.waitFrom code else s
    match t.rel with
    | some r => passWait (log s (r % 256)) i (r % 256)
    | none =>
      let wide := 3 ≤ mget 0 k.flagOs f.toNat
      if reaches (k.flag f.toNat) target then
        let s := log s 0
        if k.acqAway s.cur.src then stallOn s .other
        else if wide && k.bumpWaits then stallOn s .sweep
        else passWait (if wide then s.modMe Core.genbump else s) i 0
      else stallOn s (.flag f target))

/-- RDV (R102, R292): the edge on which every running stream has arrived releases it. The stream's accesses come before its arrival
(Table 8-3). -/
def execRdv (s : State) : Res :=
  issue .rdv s (fun s =>
    if s.my.rel.isSome then s
    else if s.me.heldBack s.cur.src then stallOn s .other
    else stallOn s .rdv)

/-- The group-table entry a core sees at a slot (R75). -/
def Core.grpAt (k : Core) (g : Nat) : Option Nat :=
  match k.job with
  | some j => match mget 0 j.slots g with
    | 0 => none
    | e + 1 => some e
  | none => none

def State.grp (s : State) (e : Nat) : Grp := mget {} s.hub.groups e
def State.modGrp (s : State) (e : Nat) (f : Grp → Grp) : State :=
  s.modHub (fun h => { h with groups := mset h.groups e (f (mget {} h.groups e)) })

/-- Cores of a member mask, ascending. -/
def coresOf (m : BitVec 512) : List Nat := (List.range 512).filter (fun c => m.getLsbD c)

/-- The mask of some cores. -/
def maskOf (l : List Nat) : BitVec 512 := l.foldl (fun m c => m ||| (1#512 <<< c)) 0

/-- Give a release to the contexts of a core that wait on an entry's barrier; the lowest code stays (R108). The K context of a stopped
core also waits as its stop has kept it (R292). -/
def Core.barGive (k : Core) (e r : Nat) : Core :=
  let give (t : Ctx) : Ctx := match t.wait with
    | some (.bar g) =>
      if k.grpAt g.toNat = some e ∧ t.arrived then
        { t with rel := some (match t.rel with | some q => if r % 256 < q % 256 then r else q | none => r) }
      else t
    | _ => t
  let k := (List.range 3).foldl (fun (k : Core) x => k.modCtx x give) k
  { k with stop := k.stop.map (fun st => { st with k := give st.k }) }

/-- Release every member that has arrived, switched-out ones too, and advance EPOCH (R293). -/
def State.barRelease (s : State) (e code : Nat) (v : Word) : State :=
  let g := s.grp e
  let r := code + 256 * v.toNat
  let s := (coresOf g.arrived).foldl (fun s c => s.modCore c (fun k => k.barGive e r)) s
  let s := s.modHub (fun h => { h with saved := h.saved.map (fun v => { v with keep := v.keep.barGive e r }) })
  s.modGrp e (fun g => { g with arrived := 0, redacc := 0, epoch := g.epoch + 1, what := [], left := none, waits := [],
                                members := g.members ||| g.newMem, newMem := 0 })

/-- GRED's reduction over member values in ascending core id (R294). -/
def gredFold (op : Nat) (l : List Word) : Word :=
  match op, l with
  | 8, l => l.foldl (fun a b => BitVec.ofNat 64 (fp32Add a.toNat (b.toNat % 2 ^ 32))) 0
  | _, [] => 0
  | op, a :: l => l.foldl (fun a b =>
      match op with
      | 0 => a + b
      | 1 => if b.slt a then b else a
      | 2 => if a.slt b then b else a
      | 3 => if b < a then b else a
      | 4 => if a < b then b else a
      | 5 => a &&& b
      | 6 => a ||| b
      | _ => a ^^^ b) a

/-- Arrivals in ascending core id. -/
def insWhat (w : Nat × Nat × Word) : List (Nat × Nat × Word) → List (Nat × Nat × Word)
  | [] => [w]
  | v :: l => if w.1 < v.1 then w :: v :: l else v :: insWhat w l

/-- The reduction of the members that have arrived, for a GRED; 0 for another barrier. -/
def Grp.reduced (g : Grp) : Word :=
  let code := (g.what.head?.map (·.2.1)).getD 0
  if 1 ≤ code ∧ code ≤ 9 then gredFold (code - 1) (g.what.map (·.2.2)) else 0

/-- A group-table entry as the debug functions read it (R77). -/
def Grp.bytes (g : Grp) : List Byte :=
  leBytes 64 g.members.toNat ++ leBytes 1 g.kind ++ leBytes 1 g.slot ++ leBytes 2 g.world.toNat ++ leBytes 2 g.count
    ++ leBytes 2 (coresOf g.arrived).length ++ leBytes 4 g.epoch.toNat ++ leBytes 4 g.bwdog ++ leBytes 8 g.opb.toNat
    ++ leBytes 8 g.redacc.toNat ++ leBytes 32 0

/-- Engine words a GSTEP still waits for: the word in progress when it arrived, then its writes, with the guest copies they
invalidate (R155), and its link units (R145). -/
def State.gstepPoll (s : State) (e : Nat) : State :=
  let g := s.grp e
  let l := g.waits.filterMap (fun w =>
    let k := s.core w.1
    if w.2.1 < 2 then
      if (k.eng w.2.1).acqs < w.2.2 then some w else some (w.1, w.2.1 + 2, k.nextId)
    else if k.wq.any (fun p => p.stream == w.2.1 + 1 && p.id < w.2.2)
      || s.invs.any (fun v => v.core == w.1 && v.stream == w.2.1 + 1 && v.id < w.2.2)
      || s.hub.units.any (fun u => u.src == w.1 && u.eng + 2 == w.2.1 && u.id < w.2.2) then some w else none)
  if l = g.waits then s else s.modGrp e (fun g => { g with waits := l })

/-- Complete a barrier at which every member has arrived and every covered copy word has been acknowledged. -/
def State.barCheck (s : State) (e : Nat) : State :=
  let s := s.gstepPoll e
  let g := s.grp e
  if g.arrived = g.members ∧ g.members ≠ 0 ∧ g.waits.isEmpty then
    s.barRelease e 0 g.reduced
  else s

/-- A member's arrival (R292, R293): `code` is 0 GBAR, 1 + op GRED, 32 GSTEP. -/
def State.barArrive (s : State) (e c code : Nat) (v : Word) : State :=
  let g := s.grp e
  if g.arrived.getLsbD c then s
  else
    let k := s.core c
    let waits := if code = 32 then
        ((List.range 2).filter (fun n => (k.eng n).cur.isSome)).map (fun n => (c, n, (k.eng n).acqs + 1))
          ++ (List.range 2).map (fun n => (c, n + 2, k.nextId)) else []
    let s := s.modGrp e (fun g => { g with
      arrived := g.arrived ||| (1#512 <<< c), what := insWhat (c, code, v) g.what, waits := g.waits ++ waits,
      left := match g.left with | some n => some n | none => if g.bwdog = 0 then none else some g.bwdog })
    let s := s.modGrp e (fun g => { g with redacc := g.reduced })
    let g := s.grp e
    if g.what.any (fun w => w.2.1 != code) then s.barRelease e 4 0 else s.barCheck e

/-- Scope of a barrier's passing: the narrowest that holds every member (Table 8-4). -/
def barWide (g : Grp) : Bool :=
  match coresOf g.members with
  | [] | [_] => false
  | _ => true

/-- GBAR, GRED and GSTEP (R293): the arrival is made once the stream's reads are bound and the writes that it can have observed have been
applied on every die, since it acts as a release (R152, R154); DATA holds the value and, above it, the status. -/
def barrier (i : Instr) (g : BitVec 2) (code : Nat) (v : Word) (pack : Nat → Nat → Nat) (s : State) : State :=
  let k := s.me
  match k.grpAt g.toNat with
  | none => passWait s i (pack 5 0)
  | some e =>
    if (s.grp e).kind = 3 then passWait s i (pack 5 0)
    else
      let s := stallOn s (.bar g)
      let s := if s.my.arrived ∨ k.heldBack s.cur.src ∨ !k.observed k.nextId ∨ !s.seenAll s.cur.core ∨ s.hub.fincs.any (fun f => f.src / 4 == s.cur.core) then s
        else (s.modMy (fun t => { t with arrived := true })).barArrive e s.cur.core code v
      match s.my.rel with
      | some r =>
        let st := r % 256
        let bump := st = 0 ∧ (code = 32 ∨ barWide (s.grp e))
        if bump ∧ s.me.bumpWaits then stallOn s .sweep
        else passWait (if bump then s.modMe Core.genbump else s) i (pack st (if st = 0 then r / 256 else 0))
      | none => s
def execGbar (xd : XReg) (g : BitVec 2) (s : State) : Res :=
  issue (.gbar xd g) s (barrier (.gbar xd g) g 0 0 (fun st _ => st))
def execGred (op : BitVec 4) (xd : XReg) (g : BitVec 2) (xb xc : XReg) (s : State) : Res :=
  issue (.gred op xd g xb xc) s (fun s =>
    barrier (.gred op xd g xb xc) g (1 + op.toNat) (s.my.rx xb) (fun st v => v + 2 ^ 64 * st) s)
def execGstep (xd : XReg) (g : BitVec 2) (s : State) : Res :=
  issue (.gstep xd g) s (barrier (.gstep xd g) g 32 0 (fun st _ => st))

end Sys2Proof.Machine
end

