-- ==== Sys2Proof/Machine/Control.lean ====
section
/-! DEFINITION. Branches, calls, hardware loops, safe points, traps and HALT (14 R280-R288, R300). The transfer itself
is made at the parcel's end from State.cur, since a taken transfer, LEXIT and the loop test exclude one another. -/

namespace Sys2Proof.Machine

/-- PC plus an offset counted in parcels (R280). -/
def target (s : State) (off : BitVec 30) : Word := s.cur.pc + simm off * BitVec.ofNat 64 (parcelBytes s.cur.src)

/-- LOOPFORM (R282-R287). -/
def loopform (s : State) : State := raiseAt s 10 0 0

/-- A taken transfer: misaligned targets are an ALIGN stop (R250), the next parcel issues no earlier than issue + 3
(R273). -/
def transfer (s : State) (a : Word) : State :=
  if a.toNat % parcelBytes s.cur.src ≠ 0 then raiseAt s 8 0 a
  else { s with cur := { s.cur with jump := some a, late := true } }

/-- A branch: under an active LOOPM a LOOPFORM stop, taken or not (R280). -/
def branch (i : Instr) (off : BitVec 30) (taken : State → Bool) (s : State) : Res :=
  issue i s (fun s =>
    if s.my.seq.isSome then loopform s
    else if taken s then transfer s (target s off) else s)

def execBr (off : BitVec 30) (s : State) : Res := branch (.br off) off (fun _ => true) s
def execBrz (xa : XReg) (off : BitVec 30) (s : State) : Res := branch (.brz xa off) off (fun s => s.my.rx xa == 0) s
def execBrnz (xa : XReg) (off : BitVec 30) (s : State) : Res := branch (.brnz xa off) off (fun s => s.my.rx xa != 0) s
def execBrlt (xa xb : XReg) (off : BitVec 30) (s : State) : Res :=
  branch (.brlt xa xb off) off (fun s => (s.my.rx xa).slt (s.my.rx xb)) s
def execBrge (xa xb : XReg) (off : BitVec 30) (s : State) : Res :=
  branch (.brge xa xb off) off (fun s => !(s.my.rx xa).slt (s.my.rx xb)) s
def execBrltu (xa xb : XReg) (off : BitVec 30) (s : State) : Res :=
  branch (.brltu xa xb off) off (fun s => s.my.rx xa < s.my.rx xb) s
def execBrgeu (xa xb : XReg) (off : BitVec 30) (s : State) : Res :=
  branch (.brgeu xa xb off) off (fun s => !(s.my.rx xa < s.my.rx xb : Bool)) s

/-- JR (R281). -/
def execJr (xa : XReg) (s : State) : Res :=
  issue (.jr xa) s (fun s => if s.my.seq.isSome then loopform s else transfer s (s.my.rx xa))

/-- CALL (R281): the link lands in x31 at issue + 1. -/
def execCall (off : BitVec 30) (s : State) : Res :=
  issue (.call off) s (fun s =>
    if s.my.seq.isSome then loopform s else transfer (flyFixed s (.call off) 1 []) (target s off))

/-- The bases after one rotation (R285). -/
def Core.rotate (k : Core) : Core :=
  { k with sys := { k.sys with rrb := (k.sys.rrb + 47) % 48, prb := (k.sys.prb + 7) % 8 } }

/-- The rotation that K's parcel has asked for is made as its SCYC ends: the new bases apply from the next parcel of any context on. -/
def Core.rotDue (k : Core) : Core := if k.rot then { k.rotate with rot := false } else k

/-- BRLC (R285): a taken one follows the stall rule; one that falls through issues its successor at issue + 3. -/
def execBrlc (o : I2) (s : State) : Res :=
  issue (.brlc o) s (fun s =>
    if s.my.seq.isSome then loopform s
    else
      let v := s.my.rx o.xa - 1
      let s := flyFixed s (.brlc o) 1 [s.my.rx o.xa]
      let s := { s with cur := { s.cur with brlc := s.cur.src == 1 } }
      if (0 : Word).slt v then { transfer s (target s o.imm) with cur := { (transfer s (target s o.imm)).cur with late := false } }
      else { s with cur := { s.cur with late := true } })

/-- LEXIT's next parcel: the loop rules of R283 do not apply to this one (R284). -/
def skipTo (s : State) (a : Word) (late : Bool) : State :=
  { s with cur := { s.cur with jump := some a, late := late, lexit := true } }
/-- The next parcel of a LOOP or LOOPM, unless a loop that ends at its own parcel goes round (R283). -/
def openTo (s : State) (a : Word) (late : Bool) : State :=
  { s with cur := { s.cur with jump := some a, late := late, skip := true } }

/-- LOOP (R282). -/
def execLoop (xa : XReg) (len : BitVec 30) (s : State) : Res :=
  issue (.loop xa len) s (fun s =>
    let t := s.my
    let u := parcelBytes s.cur.src
    let n := (t.rx xa).toNat
    let l := len.toNat
    if t.seq.isSome ∨ l = 0 ∨ 65536 < l ∨ 2 ^ 32 ≤ n ∨ 4 ≤ t.loops.length then loopform s
    else if n = 0 then openTo s (s.cur.pc + BitVec.ofNat 64 (u * (l + 1))) true
    else { s with cur := { s.cur with push := some ⟨s.cur.pc + BitVec.ofNat 64 u, n, u * (l - 1)⟩ } })

/-- LOOPM (R286, R287): ILLEGAL in L and S. -/
def execLoopm (xa : XReg) (ns1 : BitVec 3) (ii1 : BitVec 10) (s : State) : Res :=
  issue (.loopm xa ns1 ii1) s (fun s =>
    let t := s.my
    let n := (t.rx xa).toNat
    let ii := ii1.toNat + 1
    if s.cur.src ≠ 1 then illegal s 0
    else if t.seq.isSome ∨ 2 ^ 32 ≤ n then loopform s
    else if n = 0 then openTo s (s.cur.pc + BitVec.ofNat 64 (32 * (ii + 1))) true
    else
      let s := s.modMy (fun t => { t with seq := some ⟨s.cur.pc + 32, ii, ns1.toNat + 1, n, 0, 0⟩ })
      openTo s (s.cur.pc + 32) false)

/-- LEXIT (R284). -/
def execLexit (s : State) : Res :=
  issue .lexit s (fun s =>
    let t := s.my
    match t.seq, t.loops with
    | none, e :: rest =>
      let s := s.modMy (fun t => { t with loops := rest })
      skipTo s (e.start + BitVec.ofNat 64 (e.endOff + parcelBytes s.cur.src)) true
    | _, _ => loopform s)

/-- SAFEPT (R202, R288): no effect unless a pre-emption request is pending; then it stalls with its parcel not issued. -/
def execSafept (idx : BitVec 16) (s : State) : Res :=
  issue (.safept idx) s (fun s =>
    if s.me.preempt.isSome ∧ !s.me.hmode then stallOn s (.safept idx) else s)

/-- TRAP and BKPT (R300). -/
def execTrap (imm : BitVec 8) (s : State) : Res := issue (.trap imm) s (fun s => raiseAt s 3 imm.toNat 0)
def execBkpt (imm : BitVec 8) (s : State) : Res := issue (.bkpt imm) s (fun s => raiseAt s 1 imm.toNat 0)

/-- HALT (R103, R300): the context ends once its results have landed; in handler mode the job ends. -/
def execHalt (s : State) : Res :=
  issue .halt s (fun s =>
    if s.my.seq.isSome then loopform s
    else if s.me.hmode then s.modMe (fun k => { k with hjob := true })
    else s.modMy (fun t => { t with halting := true }))

end Sys2Proof.Machine
end

