-- ==== Sys2Proof/Machine/System.lean ====
section
/-! DEFINITION. System registers (14 R299; 09 R176, R183, R184), the instruction cache (07 R146, R147; 14 R301), SPLIT
(07 R127, R128) and GENBUMP (07 R130, R131). -/

namespace Sys2Proof.Machine

/-- What RDS reads (Table 14-6); none for a number that is not in the table. -/
def sysRead (s : State) (n : Nat) : Option Word :=
  let k := s.me
  match n with
  | 0x000 => some (k.sys.fpctl.setWidth 64)
  | 0x001 => some (k.sys.fpst.setWidth 64)
  | 0x002 => some (k.sys.srseed.setWidth 64)
  | 0x003 => some (k.sys.srcnt.setWidth 64)
  | 0x008 => some (k.scyc.setWidth 64)
  | 0x009 => some (BitVec.ofNat 64 s.cur.core)
  | 0x00A => some (k.world.setWidth 64)
  | 0x00B => some (Config.stepping.setWidth 64)
  | 0x00C => some (k.l1gen.setWidth 64)
  | 0x00D => some (BitVec.ofNat 64 k.gran)
  | 0x010 => some (BitVec.ofNat 64 k.sys.rrb)
  | 0x011 => some (BitVec.ofNat 64 k.sys.prb)
  | 0x018 => some k.sys.tvec
  | 0x019 => some (ofBit k.hmode)
  | 0x020 => some s.hub.podTime
  | _ => none

/-- Whether WRS may write a value to a register; none for a read-only one (Table 14-6, R183, R184). -/
def sysWriteOk (x n : Nat) (v : Word) : Option Bool :=
  match n with
  | 0x000 => some (v.toNat < 2 ^ 5 && v.toNat % 8 ≤ 5)
  | 0x001 => some (v.toNat < 2 ^ 6)
  | 0x002 | 0x003 => some (v.toNat < 2 ^ 32)
  | 0x010 => some (x == 1 && v.toNat < 48)
  | 0x011 => some (x == 1 && v.toNat < 8)
  | 0x018 => some (v.toNat < 2 ^ 56 && v.toNat % 32 == 0)
  | _ => none

/-- RDS (R299): the value is taken at issue and lands at issue + 2. -/
def execRds (xd : XReg) (n : BitVec 12) (s : State) : Res :=
  issue (.rds xd n) s (fun s =>
    match sysRead s n.toNat with
    | some v => flyFixed s (.rds xd n) 2 [v]
    | none => illegal s 0)

/-- WRS (R299): ILLEGAL for no such register or a bad value, PRIV for a read-only one; it acts at issue + 1. -/
def execWrs (n : BitVec 12) (xa : XReg) (s : State) : Res :=
  issue (.wrs n xa) s (fun s =>
    let v := s.my.rx xa
    match sysRead s n.toNat, sysWriteOk s.cur.src n.toNat v with
    | none, _ => illegal s 0
    | some _, none => raiseAt s 5 0 0
    | some _, some false => illegal s 0
    | some _, some true => flyFixed s (.wrs n xa) 1 [v])

/-- What a WRS does when it lands; a W1C of FPST comes before the flags that land in the same SCYC (R185). -/
def SysRegs.write (r : SysRegs) (n : Nat) (v : Word) : SysRegs :=
  match n with
  | 0x000 => { r with fpctl := v.setWidth 32 }
  | 0x001 => { r with fpst := r.fpst &&& ~~~(v.setWidth 32) }
  | 0x002 => { r with srseed := v.setWidth 32 }
  | 0x003 => { r with srcnt := v.setWidth 32 }
  | 0x010 => { r with rrb := v.toNat }
  | 0x011 => { r with prb := v.toNat }
  | 0x018 => { r with tvec := v }
  | _ => r

/-- Cores within a scope of a core (Table 8-1). -/
def inScope (scope : ScopeK) (c d : Nat) : Bool :=
  match scope with
  | .ctx | .core => c == d
  | .clu => c / 4 == d / 4
  | .die => c / 64 == d / 64
  | _ => true

/-- Whether a virtual line is locked in the instruction cache (R147). -/
def Core.ilocked (k : Core) (line : Nat) : Bool := k.ilock.any (fun r => r.1 ≤ line && line < r.1 + r.2)

/-- A line comes into the instruction cache of 2,048 lines (R2, R146): a full one gives up a line that is not locked. -/
def Core.icPut (k : Core) (line : Nat) (b : BitVec 1024) : Core :=
  if k.icache.length < 2048 then { k with icache := mset k.icache line b }
  else
    let free := (k.icache.map (·.1)).filter (fun l => !k.ilocked l)
    match free[Config.icVictim line % Nat.max 1 free.length]? with
    | some v => { k with icache := mset (mdel k.icache v) line b }
    | none => k

/-- A fetch from host memory or a peer module takes a free time (R14, R16): none once the line is there. `who` numbers the fetch in
`Core.far`; one without a number comes at once (log 46). -/
def State.fetchWait (s : State) (c who va pa : Nat) : Option State :=
  if who = 0 then none
  else match mfind (s.core c).far who with
    | none =>
      let (s, n) := s.wait
      some (s.modCore c (fun k => { k with far := mset k.far who ⟨s.hub.podTime.toNat, n, pa, va⟩ }))
    | some x => if x.pa ≠ pa then some (s.modCore c (fun k => { k with far := mdel k.far who }))
      else if x.left = 0 ∧ s.routed pa then none else some s

/-- Fetch an instruction line: the cache first, else memory by a page with X (R146, R250). Cause 0: the line is on its way. -/
def State.fetchLine (s : State) (c line : Nat) (world : Nat := (s.core c).world.toNat) (who : Nat := 0) :
    State × Except (Nat × Bool) (BitVec 1024) :=
  match mfind (s.core c).icache line with
  | some b => (s, .ok b)
  | none =>
    if 2 ^ 56 ≤ 128 * line then (s, .error (6, false))
    else match s.trFull c (128 * line) { x := true } (reqCode 1 c) world with
      | (s, .ok pa) =>
        let take (s : State) : State × Except (Nat × Bool) (BitVec 1024) :=
          let b := BitVec.ofNat 1024 (leNat (s.plainRd world pa 128))
          (s.modCore c (fun k => k.icPut line b), .ok b)
        match paKind s.hub.accid pa with
        | .hbm =>
          let (s, ok) := s.homeCheck 1 c world pa 128 false
          if ok then take (s.l2Fill world pa (dieOf c) 0).1 else (s, .error (6, false))
        | .peer | .host => match s.fetchWait c who (128 * line) pa with
          | some s => (s, .error (0, false))
          | none => take (if who = 0 then s else s.modCore c (fun k => { k with far := mdel k.far who }))
        | _ => (s.mmioLog (reqCode 1 c) world pa, .error (6, false))
      | (s, .page m) => (s, .error (7, m))
      | (s, _) => (s, .error (6, false))

/-- Invalidate the instruction caches in a scope that run jobs of a world; locked lines are refetched (R146). -/
def State.icInvalidate (s : State) (scope : ScopeK) (c : Nat) (world : BitVec 10) : State :=
  let hit := (s.cores.map (·.1)).filter (fun d => inScope scope c d && (s.core d).runsIn world)
  hit.foldl (fun s d =>
    let lines := ((s.core d).icache.map (·.1)).filter (fun l => (s.core d).ilocked l)
    let s := s.modCore d (fun k => { k with icache := [] })
    lines.foldl (fun s l => (s.fetchLine d l).1) s) s

/-- ICINV (R301): it completes, with its token, once the invalidation is done. -/
def execIcinv (xd : XReg) (scope : ScopeK) (s : State) : Res :=
  issue (.icinv xd scope) s (fun s => flySoon s (.icinv xd scope) [])

/-- ICLOCK (R301): the lines are fetched and locked when the request is served. -/
def execIclock (o : R3) (s : State) : Res :=
  issue (.iclock o) s (fun s => flySoon s (.iclock o) [s.my.rx o.xa, s.my.rx o.xb])

/-- First line and number of lines of a lock range (R301). -/
def lockRange (a b : Word) : Nat × Nat :=
  let lo := a.toNat / 128
  (lo, (a.toNat + b.toNat + 127) / 128 - lo)

/-- Locked lines of a core. -/
def Core.ilines (k : Core) : Nat := (k.ilock.map (·.2)).sum

/-- Lock lines in ascending order while they fit in 128 KiB (R147); an unfetchable one ends the run with its stop. -/
def State.icLock (s : State) (c line : Nat) : Nat → State × Option (Nat × Bool × Nat)
  | 0 => (s, none)
  | n + 1 =>
    if (s.core c).ilocked line then s.icLock c (line + 1) n
    else if 1024 ≤ (s.core c).ilines then (s, none)
    else match s.fetchLine c line with
      | (s, .ok _) => (s.modCore c (fun k => { k with ilock := k.ilock ++ [(line, 1)] })).icLock c (line + 1) n
      | (s, .error e) => (s, some (e.1, e.2, 128 * line))

/-- ICUNLK (R301). -/
def execIcunlk (xa xb : XReg) (s : State) : Res :=
  issue (.icunlk xa xb) s (fun s =>
    let b := s.my.rx xb
    let r := lockRange (s.my.rx xa) b
    s.modMe (fun k =>
      if b = 0 then { k with ilock := [] }
      else { k with ilock := k.ilock.filter (fun e => !(r.1 ≤ e.1 && e.1 < r.1 + r.2)) }))

/-- L1 lines in granules below `new`, which become scratchpad, go (R128): set n lies in granule 31 - n / 64. -/
def Core.dropLines (k : Core) (new : Nat) : Core := { k with l1 := k.l1.filter (fun e => e.2.set < 64 * (32 - new)) }

/-- A core's split begins to move (R128). -/
def State.moveSplit (s : State) (c new : Nat) : State :=
  let old := (s.core c).gran
  s.modCore c (fun k => { (if old < new then k.dropLines new else k) with
    gran := new,
    split := some (old, 32 + 64 * ((new - old) + (old - new))),
    sp := if new < old then k.sp.filter (fun e => e.1 < 131072 * new) else k.sp })

/-- SPLIT (R128, R302): the limit changes at issue; a SPLIT during a drain stalls. One whose parcel has waited for its own drain is
done. -/
def execSplit (n : BitVec 5) (s : State) : Res :=
  issue (.split n) s (fun s =>
    let k := s.me
    if k.moved = some s.cur.src then s.modMe (fun k => { k with moved := none })
    else if k.split.isSome then stallOn s .other else s.moveSplit s.cur.core n.toNat)

/-- GENBUMP (R130, R131, R271, R302): GEN changes at issue + 1. -/
def execGenbump (s : State) : Res :=
  issue .genbump s (fun s => if s.me.bumpWaits then stallOn s .sweep else flyFixed s .genbump 1 [])

end Sys2Proof.Machine
end

