-- ==== Sys2Proof/Machine/HubInstr.lean ====
section
/-! DEFINITION. The SC instructions that send a request to the hub: LAUNCH (R78, R295) and the sample-group and
tournament instructions (R296). The hub performs them when they reach it (HUB_REQUEST_ARRIVAL), in issue order for one
context (R403); the reply lands with the token. -/

namespace Sys2Proof.Machine

/-- What the core's job is. -/
def Core.kind (k : Core) : Option JobKind := k.job.map (·.kind)
def Core.isSib (k : Core) : Bool := match k.kind with | some (.sibling ..) => true | _ => false
def Core.isRival (k : Core) : Bool := match k.kind with | some (.rival ..) => true | _ => false

/-- Send a request with its captured operands. -/
def hubReq (s : State) (i : Instr) (a b : Word) : State :=
  let k := s.me
  let (s, n) := s.wait
  (flyVar s i [a, b] .sent).modHub (fun h =>
    { h with reqs := h.reqs ++ [⟨s.cur.core, s.cur.src, k.nextId, k.kind, i, a, b, k.world, n, false⟩] })

/-- LAUNCH (R295). -/
def execLaunch (o : R3) (s : State) : Res :=
  issue (.launch o) s (fun s => hubReq s (.launch o) (s.my.rx o.xa) (s.my.rx o.xb))

/-- FORK (R83, R296). -/
def execFork (xd : XReg) (g : BitVec 2) (xb : XReg) (s : State) : Res :=
  issue (.fork xd g xb) s (fun s => hubReq s (.fork xd g xb) (s.my.rx xb) 0)

/-- In a sibling the request is the last parcel: from the next cycle on nothing of its cores issues (R405). -/
def lastReq (s : State) (i : Instr) (a b : Word) : State :=
  let s := hubReq s i a b
  match s.me.kind with
  | some (.sibling n j) => { s with cores := s.cores.map (fun e =>
      if e.2.kind = some (.sibling n j) then (e.1, { e.2 with mute := Nat.max 1 e.2.mute }) else e) }
  | _ => s

/-- SREWARD (R85, R296). -/
def execSreward (o : R2) (s : State) : Res := issue (.sreward o) s (fun s => lastReq s (.sreward o) (s.my.rx o.xa) 0)

/-- SGCANCEL (R85, R296). -/
def execSgcancel (xd : XReg) (g : BitVec 2) (xb : XReg) (s : State) : Res :=
  issue (.sgcancel xd g xb) s (fun s => lastReq s (.sgcancel xd g xb) (s.my.rx xb) 0)

/-- SGINFO (R296). -/
def execSginfo (xd : XReg) (g n : BitVec 2) (s : State) : Res :=
  issue (.sginfo xd g n) s (fun s => hubReq s (.sginfo xd g n) 0 0)

/-- TSCORE (R91, R296). -/
def execTscore (o : R2) (s : State) : Res := issue (.tscore o) s (fun s => hubReq s (.tscore o) (s.my.rx o.xa) 0)

/-- TGROW (R296): the buffer is checked in a rival only. -/
def execTgrow (o : R2) (s : State) : Res :=
  issue (.tgrow o) s (fun s =>
    let a := s.my.rx o.xa
    if s.me.isRival ∧ a.toNat % 64 ≠ 0 then raiseAt s 8 0 a else hubReq s (.tgrow o) a 0)

/-- TINFO (R296). -/
def execTinfo (xd : XReg) (n : BitVec 2) (s : State) : Res :=
  issue (.tinfo xd n) s (fun s => hubReq s (.tinfo xd n) 0 0)

/-- A sample group by its group-table entry. -/
def State.sgAt (s : State) (e : Nat) : Option (Nat × SGrp) :=
  if (s.grp e).kind = 3 then (mfind s.hub.sgrps (s.grp e).obj).map (fun g => ((s.grp e).obj, g)) else none

/-- A sample group is freed and its slot unbound on every parent core (R87). -/
def State.sgFree (s : State) (n : Nat) : State :=
  match mfind s.hub.sgrps n with
  | none => s
  | some q =>
    let cut (k : Core) : Core :=
      { k with job := k.job.map (fun j => { j with slots := j.slots.filter (fun e => e.2 != q.grp + 1) }) }
    let s : State := { s with cores := s.cores.map (fun (e : Nat × Core) => (e.1, cut e.2)) }
    s.modHub (fun h => { h with
      sgrps := mdel h.sgrps n, groups := mdel h.groups q.grp, sibq := h.sibq.filter (fun e => e.1 != n),
      saved := h.saved.map (fun v => { v with keep := cut v.keep }) })

/-- An SGWAIT returns (R87): the last of those that waited at collection frees the group; with none then waiting, the
first one does. -/
def State.sgReturn (s : State) (n core ctx : Nat) : State :=
  match mfind s.hub.sgrps n with
  | none => s
  | some q =>
    let l := q.nwait.filter (fun w => w != (core, ctx))
    if q.st = 2 ∧ (!q.waited ∨ l.isEmpty) then s.sgFree n
    else s.modHub (fun h => { h with sgrps := mset h.sgrps n { q with nwait := l } })

/-- SGWAIT (R87, R296, R403): it observes the group after its context's earlier requests; the token clears as xd
lands. -/
def execSgwait (xd : XReg) (g : BitVec 2) (s : State) : Res :=
  let i : Instr := .sgwait xd g
  issue i s (fun s =>
    let c := s.cur.core
    let x := s.cur.src
    let pass (s : State) (v : Nat) : State :=
      fly { s with cur := { s.cur with verdict := .go } }
        { blankFlight s i with tok := s.cur.tok, phase := .captured, remain := 1, data := v }
    let at' := (s.me.grpAt g.toNat).bind s.sgAt
    match s.my.rel with
    | some r => pass (match at' with | some (n, _) => s.sgReturn n c x | none => s) (r % 256)
    | none =>
      if s.hub.reqs.any (fun r => r.core == c && r.ctx == x) then stallOn s (.sgwait g)
      else match at' with
        | none => pass s 4
        | some (n, q) =>
          if q.st = 2 then
            if s.me.bumpWaits then stallOn s .sweep else pass ((s.modMe Core.genbump).sgReturn n c x) q.status
          else
            let w := (c, x)
            let s := if q.nwait.contains w then s else
              s.modHub (fun h => { h with sgrps := mset h.sgrps n { q with nwait := q.nwait ++ [w] } })
            stallOn s (.sgwait g))

end Sys2Proof.Machine
end

