-- ==== Sys2Proof/Machine/Access.lean ====
section
/-! DEFINITION. How accesses reach storage: scratchpad checks and banks (07 R120, R121, R127, R143), L1 and its policy
(07 R129-R137; 15 R307), the write path (08 R158), watchpoints (11 R212) and the presentation of g and nb accesses at
the request port (15 R398). -/

namespace Sys2Proof.Machine

/-- Effective address (R303). -/
def Ctx.ea (t : Ctx) (m : MAddr) : Word := t.rx m.xbase + m.disp.signExtend 64

/-- Banks of an access of up to 64 bytes, of a pass and of a predicate (R143, R306). -/
def banksOf (off n : Nat) : List Nat :=
  ((List.range ((off % 64 + n + 63) / 64)).map (fun j => (off / 64 + j) % 32)).eraseDups

/-- What a scratchpad access meets (R121, R128). -/
inductive SpOk | ok | bay | moving | access
deriving DecidableEq, Repr

/-- Check an access of the core's own scratchpad. -/
def Core.spCheck (k : Core) (off n : Nat) : SpOk :=
  if 0x400000 ≤ off then
    if off + n ≤ 0x410000 ∧ k.hmode then .bay else .access
  else if k.spLimit < off + n then .access
  else match k.split with
    | some (old, _) => if 131072 * old < off + n then .moving else .ok
    | none => .ok

/-- Read and write the own scratchpad or, above it, the ember bay. -/
def Core.spRd (k : Core) (off n : Nat) : List Byte :=
  if 0x400000 ≤ off then rdBs k.bay (off - 0x400000) n else rdBs k.sp off n
def Core.spWr (k : Core) (off : Nat) (bs : List Byte) : Core :=
  if 0x400000 ≤ off then { k with bay := wrBs k.bay (off - 0x400000) bs } else { k with sp := wrBs k.sp off bs }

/-- A store of context `x`, operation `id`, changes bytes at `a`: what its read ports bound before are still to read stays as it was for
them (R160). Local scratchpad by offset, memory by physical address above 2^62. -/
def Core.shadow (k : Core) (x id a : Nat) (old : List Byte) : Core :=
  if k.ports.isEmpty then k
  else { k with ports := k.ports.map (fun e => (e.1,
    if !e.2.wr && e.2.ctx == x && e.2.id < id then
      { e.2 with snap := old.zipIdx.foldl (fun m b => if (mfind m (a + b.2)).isSome then m else mset m (a + b.2) b.1) e.2.snap }
    else e.2)) }
/-- A store of context `x`, operation `id`, covers bytes at `a`: a write port that it bound before wrote them before it, whenever its unit
comes to them (R160). A neighbour's scratchpad by core and offset above 2^61. -/
def Core.cover (k : Core) (x id a n : Nat) : Core :=
  if k.ports.isEmpty then k
  else { k with ports := k.ports.map (fun e => (e.1,
    if e.2.wr && e.2.ctx == x && e.2.id < id then { e.2 with snap := (List.range n).foldl (fun m j => mset m (a + j) 0) e.2.snap }
    else e.2)) }
/-- Where a byte of global memory and of a neighbour's scratchpad stands among those of `Port.snap`. -/
def gPlace (pa : Nat) : Nat := 2 ^ 62 + pa
def nPlace (d off : Nat) : Nat := 2 ^ 61 + d * 2 ^ 22 + off
/-- Bytes as such a port sees them. -/
def Port.seen (p : Port) (a : Nat) (bs : List Byte) : List Byte :=
  if p.snap.isEmpty then bs else bs.zipIdx.map (fun b => (mfind p.snap (a + b.2)).getD b.1)

/-- Policy hash and class (R136): 0 NORMAL, 1 PERSIST, 2 STREAM; `bit` is the apply bit. -/
def policyHash (va : Nat) : Nat :=
  let f := bits va 7 41
  (List.range 6).foldl (fun h k => Nat.xor h (bits f (8 * k) 8)) 0
def policyClass (pol : BitVec 32) (bit va : Nat) : Nat :=
  let p := pol.toNat
  if !tbit p bit then 0
  else
    let h := policyHash va
    if h < bits p 0 8 then 1 else if h < bits p 8 8 then 0 else 2

/-- A line that hits: its tag equals GEN, or it has been locked since it did (R130, R132). -/
def Core.l1Hit (k : Core) (line : Nat) : Option L1Line :=
  match mfind k.l1 line with
  | some x => if x.gen = k.l1gen ∨ (x.keep ∧ k.lockedPa line) then some x else none
  | none => none

/-- Sets of L1: 64 of 16 ways in a granule, those of a granule that is becoming L1 once its drain ends (R127-R129). -/
def Core.l1Sets (k : Core) : Nat := 64 * (32 - (match k.split with | some (old, _) => Nat.max old k.gran | none => k.gran))

/-- A line comes into L1 under GEN: it takes the place of the line of its set that gives way, if any does (R137). Locked lines are in
granules 27 to 31 (R132). -/
def Core.l1Put (k : Core) (line cls : Nat) (data : BitVec 1024) : Core :=
  let lock := k.lockedPa line
  let set := Config.l1Set line % (if lock then 320 else k.l1Sets)
  let l1 := mdel k.l1 line
  let way (e : Nat × L1Line) : Way := ⟨e.1, e.2.cls, e.2.ord, k.lockedPa e.1⟩
  let ways := if l1.length < 8 then [] else (l1.filter (fun e => e.2.set == set)).map way
  let put (l1 : Map L1Line) (ways : List Way) : Core :=
    let c := insClass cls ways
    { k with l1 := mset l1 line ⟨data, k.l1gen, c, insOrd c (l1.map way), set, lock, []⟩ }
  if ways.length < 16 then put l1 ways
  else match victim ways with
    | some v => put (mdel l1 v) (ways.filter (fun w => w.key != v))
    | none => { k with l1 := l1 }

/-- A line that an LDQ has locked keeps what it holds, in granules 27 to 31 (R132). -/
def Core.l1Keep (k : Core) (line : Nat) : Core :=
  if !k.lockedPa line then k
  else match k.l1Hit line with
    | some x => if x.set < 320 then { k with l1 := mset k.l1 line { x with keep := true } } else k.l1Put line x.cls x.data
    | none => k

/-- An LDQ's request locks its line, as long as its entry is in the queue (R132). -/
def Core.lockAt (k : Core) (id line : Nat) : Core :=
  { k with queues := k.queues.map (fun q => (q.1, { q.2 with ents := q.2.ents.map (fun e =>
    if e.val.isNone ∧ e.src = id ∧ e.lock.isSome then { e with lockPa := some line } else e) })) }

/-- Bytes of a line. -/
def lineRd (x : BitVec 1024) (lo n : Nat) : List Byte := leBytes n (bits x.toNat (8 * lo) (8 * n))
def lineWr (x : BitVec 1024) (lo : Nat) (bs : List Byte) : BitVec 1024 :=
  BitVec.ofNat 1024 (setBits x.toNat (8 * lo) (8 * bs.length) (leNat bs))

/-- Read the parts of an access from L1 where every line hits. -/
def Core.l1Rd (k : Core) (parts : List (Nat × Nat)) : Option (List Byte) :=
  let go := (parts.flatMap (fun p => lineParts p.1 p.2)).map (fun p => (k.l1Hit p.1).map (fun x => lineRd x.data p.2.1 p.2.2))
  if go.all (·.isSome) then some (go.filterMap id).flatten else none

/-- A store updates the lines it hits and allocates nothing (R307). -/
def Core.l1Upd (k : Core) (pa : Nat) (bs : List Byte) : Core :=
  ((lineParts pa bs.length).foldl (fun (a : Core × List Byte) p =>
    ((match a.1.l1Hit p.1 with
      | some x => { a.1 with l1 := mset a.1.l1 p.1 { x with data := lineWr x.data p.2.1 (a.2.take p.2.2) } }
      | none => a.1), a.2.drop p.2.2)) (k, bs)).1

/-- Overlay bytes with those of a write at another address of the same space. -/
def overlay (a : Nat) (bs : List Byte) (b : Nat) (ws : List Byte) : List Byte :=
  (List.range bs.length).map (fun j => if b ≤ a + j ∧ a + j < b + ws.length then nthB ws (a + j - b) else nthB bs j)

/-- Bytes of local or remote memory as operation `id` of the core sees them: what has been applied, then the core's own
accepted writes of operations up to `id`, in order (R307). Memory is as its die sees it (R155). -/
def State.homeRd (s : State) (c id pa n : Nat) : List Byte :=
  let k := s.core c
  k.wq.foldl (fun bs w => if w.kind = 0 ∧ w.atom = none ∧ w.dead = none ∧ w.id ≤ id then overlay pa bs w.addr w.data else bs)
    ((s.viewAt (dieOf c) pa n).plainRd k.world.toNat pa n)

/-- An atomic of the core up to `id` on overlapping bytes is still on its way: its value is not known yet. -/
def Core.atomPending (k : Core) (id pa n : Nat) : Bool :=
  k.wq.any (fun w => w.kind == 0 && w.dead.isNone && w.atom.isSome && w.id ≤ id && w.addr < pa + n && pa < w.addr + 8)

end Sys2Proof.Machine

namespace Sys2Proof

open Machine

/-- Bytes an access touches (Table 15-1), under its shape. -/
def Instr.accSize (i : Instr) (vsh : BitVec 32) : Nat :=
  match i with
  | .ldv .. | .stv .. => tileBytes (vshN vsh) (vshFmt vsh)
  | .ldp .. | .stp .. => 256
  | .afadd _ | .afmax _ => 4
  | _ => match i.load, i.store with
    | some l, _ => l.2.1
    | _, some t => t.2
    | _, _ => 8

/-- Permissions of an access (R124). -/
def Instr.accNeed (i : Instr) : Need :=
  if i.atom.isSome then { r := true, w := true } else if isRead i then { r := true } else { w := true }

end Sys2Proof

namespace Sys2Proof.Machine

/-- The bytes of a tile (R312): an odd E2M1 tile's last nibble is zero. -/
def tileBs (t : Tile) (n : Nat) (f : Fmt) : List Byte := leBytes (tileBytes n f) (t.toNat % 2 ^ (n * f.bits))
def tileOf (bs : List Byte) (n : Nat) (f : Fmt) : Tile := BitVec.ofNat 16384 (leNat bs % 2 ^ (n * f.bits))

/-- The bytes a store writes. -/
def Flight.stData (f : Flight) : List Byte :=
  match f.i with
  | .stv .. => match f.tA with | some t => tileBs t (vshN f.vsh) (vshFmt f.vsh) | none => []
  | .stp .. => match f.tA with | some t => leBytes 256 t.toNat | none => []
  | _ => leBytes (f.i.accSize f.vsh) (nthW f.ops 2).toNat

/-- The first watchpoint a global access meets (R212). -/
def Core.watch (k : Core) (rd wr : Bool) (va n : Nat) : Option Nat :=
  if !k.attached then none
  else (List.range 4).find? (fun i =>
    let b := mget {} k.bps i
    let kind := bits b.ctl.toNat 28 3
    let g := b.val.toNat / 8 * 8
    tbit b.ctl.toNat 31 && ((kind == 2 && rd) || (kind == 3 && wr) || (kind == 4 && (rd || wr)))
      && va < g + 8 && g < va + n)

/-- The notify register a physical address names (Table 2-4, R31). -/
def notifyReg (pa : Nat) : Option Nat :=
  let off := pa % 2 ^ 24
  if pa / 2 ^ 54 = 3 ∧ 0x20000 ≤ off ∧ off < 0x20000 + 8 * 4096 ∧ off % 8 = 0 then some ((off - 0x20000) / 8) else none

/-- Address of a queue's descriptor (R27). -/
def State.qdAddr (s : State) (q : Nat) : Nat := s.normPa (bits s.hub.qtbase.toNat 18 38 * 2 ^ 18) + 64 * q
/-- The world of a queue: as its descriptor was last read while it is enabled, else as it stands there (R26, R28). -/
def State.qWorld (s : State) (q : Nat) : Nat :=
  let u : UQueue := mget {} s.hub.queues q
  if u.en then u.d.world.toNat else leNat (s.rawRd (s.qdAddr q + 10) 2)

/-- Where an access may go once translated (R122, R321): MMIO only to a notify register of the core's world, by
accesses of 4 or 8 bytes; atomics not to host memory or MMIO. -/
def State.paOk (s : State) (world pa n : Nat) (atomic : Bool) : Bool :=
  match paKind s.hub.accid pa with
  | .hbm | .peer => true
  | .host => !atomic
  | .mmio => !atomic && (n == 4 || n == 8) &&
      (match notifyReg pa with
       | some q => s.qWorld q == world
       | none => false)
  | .bad => false

/-- Fault an operation after issue (R190): it stays as a record in state 4. -/
def State.faultFlight (s : State) (c : Nat) (f : Flight) (cause : Nat) : State :=
  raiseOn (s.modCore c (fun k => k.modFlight f.id (fun g => { g with phase := .faulted, fault := cause, live := false })))
    c cause f.src f.slot 0 f.ea

/-- Hand a write to the write path (R158, R194). It is applied after the reads that have left the core before it and the
earlier ones of its stream (R152). It carries its die's clock, and a write to HBM is numbered among those of its die (R155). -/
def State.accept (s : State) (c : Nat) (w : PWrite) : State :=
  let (s, n) := s.wait
  let die := dieOf c
  let hbm := w.kind == 0 && paKind s.hub.accid w.addr == .hbm
  let no := if hbm then mget 0 s.dieWr die + 1 else 0
  let before (f : Flight) : Bool :=
    f.i.atom.isNone && isRead f.i && (f.phase == .sent || (f.phase == .unsent && f.src == w.stream && f.id < w.id))
  let clk := s.dieClk die
  let s := if hbm then { s with dieWr := mset s.dieWr die no } else s
  s.modCore c (fun k => { (if w.kind = 0 then k.cover w.stream w.id (gPlace w.addr) w.data.length
      else if w.kind = 1 then k.cover w.stream w.id (nPlace w.core w.addr) w.data.length else k) with wq := k.wq ++ [{ w with
    after := (k.flights.filter before).map (·.id), sentAt := s.hub.podTime.toNat, no := no, clk := clk, left := n }] })

def blankWrite (s : State) (c : Nat) (f : Flight) (os : OS) : PWrite :=
  let k := s.core c
  { id := f.id, stream := f.src, kind := 0, core := c, addr := f.pa, va := f.ea.toNat, data := [], atom := none, cmp := 0, flight := f.id,
    world := k.world, gen := if f.gen = 0 then (s.world k.world.toNat).cur else f.gen % 2 == 0, os := os, pol := (nthW f.ops 3).setWidth 32, left := 0 }

/-- An earlier acquire of the stream has no data yet (Table 8-3). -/
def Core.acqBefore (k : Core) (f : Flight) : Bool :=
  k.flights.any (fun g => g.src == f.src && g.id < f.id && isRead g.i && isAcq g.os && g.phase.away)
/-- Such an acquire has not been presented yet. -/
def Core.acqUnsent (k : Core) (f : Flight) : Bool :=
  k.flights.any (fun g => g.src == f.src && g.id < f.id && isRead g.i && isAcq g.os && g.phase == .unsent)

/-- Whether an earlier overlapping read of the stream is in such a phase (R152). -/
def Core.readBefore (k : Core) (f : Flight) (p : Phase → Bool) : Bool :=
  let n := f.i.accSize f.vsh
  k.flights.any (fun g => g.src == f.src && g.id < f.id && isRead g.i && p g.phase
    && g.space == f.space && g.ea.toNat < f.ea.toNat + n && f.ea.toNat < g.ea.toNat + g.i.accSize g.vsh)

/-- Physical addresses of an access: that of its first byte and, where it crosses a 64 KiB page, of the next page. -/
def segs (va n pa pa2 : Nat) : List (Nat × Nat) :=
  let room := 65536 - va % 65536
  if n ≤ room then [(pa, n)] else [(pa, room), (pa2, n - room)]

/-- Physical parts of a g access. -/
def Flight.parts (f : Flight) : List (Nat × Nat) := segs f.ea.toNat (f.i.accSize f.vsh) f.pa f.pa2

/-- The request of a read leaves the core, or L1 serves it at once (R307), but none behind an acquire without its data. An LDQ locks its
line. -/
def State.sendRead (s : State) (c : Nat) (f : Flight) (pa pa2 : Nat) : State :=
  let ldq : Bool := match f.i with | .ldq .. => true | _ => false
  let s := if ldq then s.modCore c (fun k => k.lockAt f.id (pa / 128)) else s
  let k := s.core c
  let n := f.i.accSize f.vsh
  let acq := isAcq f.os && bumps f.os.scope
  let cached := paKind s.hub.accid pa = .hbm ∨ paKind s.hub.accid pa = .peer
  match (if cached && !k.acqBefore f && !k.readBefore f Phase.away && !(acq && k.bumpWaits) then k.l1Rd (segs f.ea.toNat n pa pa2) else none) with
  | some bs =>
    let (s, t) := s.wait
    s.modCore c (fun k =>
      let k := k.modFlight f.id (fun g => { g with
        phase := .captured, remain := t, live := true, pa := pa, pa2 := pa2, data := leNat bs % 2 ^ 64,
        td := match f.i with
          | .ldv .. => some (tileOf bs (vshN f.vsh) (vshFmt f.vsh))
          | .ldp .. => some (BitVec.ofNat 16384 (leNat bs))
          | _ => none })
      let k := if ldq then k.l1Keep (pa / 128) else k
      if acq then k.genbump else k)
  | none =>
    let (s, t) := s.wait
    s.modCore c (fun k => k.modFlight f.id (fun g => { g with phase := .sent, remain := t, live := true, pa := pa, pa2 := pa2, sentAt := s.hub.podTime.toNat }))

/-- A write of the stream is accepted: it updates L1 and takes its place in the stream's order. -/
def State.sendWrite (s : State) (c : Nat) (f : Flight) (pa pa2 : Nat) : State :=
  let n := f.i.accSize f.vsh
  match f.i.atom with
  | some (op, _) =>
    let s := s.accept c { blankWrite s c f f.os with
      addr := pa, data := leBytes n (nthW f.ops 1).toNat, atom := some op, cmp := nthW f.ops 2 }
    s.modCore c (fun k => k.modFlight f.id (fun g => { g with phase := .sent, live := false, pa := pa, wr := true, sentAt := s.hub.podTime.toNat }))
  | none =>
    let bs := f.stData
    let parts := segs f.ea.toNat n pa pa2
    let s := (parts.foldl (fun (a : State × List Byte) p =>
      (a.1.accept c { blankWrite s c f f.os with addr := p.1, va := f.ea.toNat + n - a.2.length, data := a.2.take p.2 }, a.2.drop p.2))
      (s, bs)).1
    s.modCore c (fun k => ((parts.foldl (fun (a : Core × List Byte) p => (a.1.l1Upd p.1 (a.2.take p.2), a.2.drop p.2)) (k, bs)).1).dropFlight f)

/-- A write is accepted behind an acquire of its stream that has no data yet: it enters the write path once the data is there (Table
8-3). -/
def State.holdWrite (s : State) (c : Nat) (f : Flight) (pa pa2 : Nat) : State :=
  s.modCore c (fun k => k.modFlight f.id (fun g => { g with phase := .held, live := false, pa := pa, pa2 := pa2 }))

/-- Present one g access to the request port (R398). `full` is set when a translation hold has just ended. -/
def State.presentG (s : State) (c : Nat) (f : Flight) (full : Bool) : State :=
  let k := s.core c
  let va := f.ea.toNat
  let n := f.i.accSize f.vsh
  let need := f.i.accNeed
  if 2 ^ 56 < va + n ∨ 2 ^ 56 ≤ va then s.faultFlight c f 6
  else
    let tr (s : State) (a : Nat) : State × Tr := if full then s.trFull c a need else (s, s.trL1 c a need)
    let next := (va / 65536 + 1) * 65536
    let (s, t1) := tr s va
    let (s, t2) := if next < va + n then tr s next else (s, .ok 0)
    match t1, t2 with
    | .ok pa, .ok pa2 =>
      let both := if next < va + n then [pa, pa2] else [pa]
      if both.all (fun p => s.paOk k.world.toNat p n (f.i.atom.isSome)) then
        let s := if !isWrite f.i then s.sendRead c f pa pa2
          else if k.acqBefore f then s.holdWrite c f pa pa2 else s.sendWrite c f pa pa2
        match k.watch (isRead f.i) (isWrite f.i) va n with
        | some i => raiseOn s c 2 f.src f.slot i f.ea
        | none => s
      else
        let s := match both.find? (fun p => paKind s.hub.accid p == .mmio) with
          | some p => s.mmioLog (reqCode 1 c) k.world.toNat p
          | none => s
        s.faultFlight c f 6
    | .access, _ => s.faultFlight c f 6
    | .page _, _ => s.faultFlight c f 7
    | t1, t2 =>
      let pages := (if t1 = .miss then [(f.src, va)] else []) ++ (if t2 = .miss then [(f.src, next)] else [])
      if pages.isEmpty then s.faultFlight c f (if t2 = .access then 6 else 7)
      else s.modCore c (fun k => { k with miss := k.miss ++ pages })

/-- The core an nb address names and the offset in it (Table 7-1). -/
def nbTarget (c : Nat) (ea : Word) : Nat × Nat := (c / 4 * 4 + bits ea.toNat 22 2, bits ea.toNat 0 22)

/-- An nb write enters the write path. -/
def State.sendN (s : State) (c : Nat) (f : Flight) : State :=
  let (d, off) := nbTarget c f.ea
  let bs := match f.i.atom with | some _ => leBytes (f.i.accSize f.vsh) (nthW f.ops 1).toNat | none => f.stData
  let s := s.accept c { blankWrite s c f f.os with
    kind := 1, core := d, addr := off, data := bs, atom := f.i.atom.map (·.1), cmp := nthW f.ops 2 }
  s.modCore c (fun k => if f.i.atom.isSome then
    k.modFlight f.id (fun g => { g with phase := .sent, live := false, wr := true }) else k.dropFlight f)

/-- Present one nb access (R121): the target must run a job of the issuer's world and hold the offset; a granule that is
moving makes it wait (R128). -/
def State.presentN (s : State) (c : Nat) (f : Flight) : State :=
  let (d, off) := nbTarget c f.ea
  let n := f.i.accSize f.vsh
  let t := s.core d
  if 2 ^ 24 ≤ f.ea.toNat ∨ !t.runsIn (s.core c).world then s.faultFlight c f 6
  else match t.spCheck off n with
    | .moving => s
    | .ok =>
      if isWrite f.i then (if (s.core c).acqBefore f then s.holdWrite c f 0 0 else s.sendN c f)
      else
        let (s, w) := s.wait
        s.modCore c (fun k => k.modFlight f.id (fun g => { g with phase := .sent, remain := w, live := true }))
    | _ => s.faultFlight c f 6

/-- A remote FINC takes its place among the stream's writes (R153, R158). -/
def State.sendF (s : State) (c : Nat) (f : Flight) : State :=
  let s := s.accept c { blankWrite s c f f.os with
    kind := 2, core := f.ea.toNat, addr := f.dest, data := leBytes 4 (nthW f.ops 0).toNat, cmp := BitVec.ofNat 64 f.data }
  s.modCore c (fun k => k.dropFlight f)

def State.presentF (s : State) (c : Nat) (f : Flight) : State := if (s.core c).acqBefore f then s.holdWrite c f 0 0 else s.sendF c f

/-- The writes that have waited for an acquire enter the write path, in order; with `all` those too whose acquire has no data yet. -/
def State.freeHeld (s : State) (c : Nat) (all : Bool := false) : State :=
  (((s.core c).flights.filter (·.phase == .held)).map (·.id)).foldl (fun s id =>
    match (s.core c).flight id with
    | some f =>
      if !all && (s.core c).acqBefore f then s
      else match f.i with
        | .finc .. => s.sendF c f
        | _ => if f.space = .nb then s.sendN c f else s.sendWrite c f f.pa f.pa2
    | none => s) s

/-- Invalidate the L1 lines of a range for a CINV; a locked one goes at its unlock (R325). -/
def Core.l1Kill (k : Core) (pa n : Nat) (who : Nat × Nat) : Core :=
  { k with l1 := k.l1.filterMap (fun e =>
      if 128 * e.1 < pa + n ∧ pa < 128 * e.1 + 128 then
        (if k.lockedPa e.1 then some (e.1, { e.2 with kill := e.2.kill ++ [who] }) else none)
      else some e) }

/-- Invalidate an L2 line for a CINV, with its pair and a home's guest copies; a pinned one goes when it unpins (R135, R325). -/
def State.l2Kill (s : State) (n : Nat) (who : Nat × Nat) : State :=
  match mfind s.l2 n with
  | some x => if x.pins = 0 then s.l2Drop n else { s with l2 := mset s.l2 n { x with kill := x.kill ++ [who] } }
  | none => s

/-- CINV `who`, a core and an operation, page by page (R325); `left` bounds the pages. The address of a page without R is an ACCESS
stop. An invalidated copy serves no read any more, so an invalidation of it that is under way is done. -/
def State.cinvGo (s : State) (who : Nat × Nat) (scope : ScopeK) (va hi : Nat) (full : Bool) : Nat → State × Option (Nat × Bool)
  | 0 => (s, none)
  | left + 1 =>
    if hi ≤ va then (s, none)
    else
      let c := who.1
      let next := Nat.min hi ((va / 65536 + 1) * 65536)
      let world := (s.core c).world
      let (s, t) := if full then s.trFull c va { r := true } else (s, s.trL1 c va { r := true })
      match t with
      | .ok pa =>
        let n := next - va
        let s := (s.cores.map (·.1)).foldl (fun s d =>
          if inScope scope c d && (s.core d).world == world then s.modCore d (fun k => k.l1Kill pa n who) else s) s
        let here (die : Nat) : Bool := scope == .mod || (scope == .die && die == dieOf c)
        let holds (line : Nat) : Bool := 128 * line < pa + n && pa < 128 * line + 128
        let mine := (s.l2.filter (fun x => x.2.world == world && here (l2Die x.1) && holds (x.1 / 9))).map (·.1)
        let s := mine.foldl (fun s n => s.l2Kill n who) s
        let s := { s with invs := s.invs.filter (fun v => !(here v.die && holds v.line)) }
        s.cinvGo who scope next hi full left
      | .page _ => s.cinvGo who scope next hi full left
      | .access => (s, some (va / 65536 * 65536, false))
      | .miss => (s, some (va, true))

/-- Lines of a CINV that are still pinned or locked. -/
def State.cinvLeft (s : State) (who : Nat × Nat) : Bool :=
  s.cores.any (fun d => d.2.l1.any (fun e => e.2.kill.contains who)) || s.l2.any (fun x => x.2.kill.contains who)

/-- Present a CINV: its range is [EA, EA + xlen). -/
def State.presentC (s : State) (c : Nat) (f : Flight) (scope : ScopeK) (full : Bool) : State :=
  let lo := f.ea.toNat / 128 * 128
  let hi := f.ea.toNat + (nthW f.ops 1).toNat
  if 2 ^ 56 < hi then s.faultFlight c f 6
  else match s.cinvGo (c, f.id) scope (Nat.max lo f.pa) hi full ((hi - lo) / 65536 + 2) with
    | (s, none) => s.modCore c (fun k => k.modFlight f.id (fun g => { g with phase := .sent, live := false }))
    | (s, some (va, true)) =>
      s.modCore c (fun k => { k.modFlight f.id (fun g => { g with pa := va }) with miss := k.miss ++ [(f.src, va)] })
    | (s, some (va, false)) =>
      raiseOn (s.modCore c (fun k => k.modFlight f.id (fun g => { g with phase := .faulted, fault := 6, live := false })))
        c 6 f.src f.slot 0 (BitVec.ofNat 64 va)

/-- Bytes of a memory access: its size, 128 for a FLUELD and none for other operations. -/
def Flight.memSize (f : Flight) : Nat :=
  match f.i with
  | .flueld .. => 128
  | i => if i.maddr.isSome then i.accSize f.vsh else 0

/-- Physical parts of a g access whose pages the core's TLB holds. -/
def State.knownParts (s : State) (c va n : Nat) : Option (List (Nat × Nat)) :=
  let at' (a : Nat) : Option Nat := (tlbFind (s.core c).tlb (s.core c).world.toNat a).map (fun e => s.normPa (e.pa + (a - e.va)))
  let next := (va / 65536 + 1) * 65536
  match at' va, if next < va + n then at' next else some 0 with
  | some p, some q => some (segs va n p q)
  | _, _ => none
/-- Whether two lists of parts share a byte. -/
def partsMeet (l m : List (Nat × Nat)) : Bool := l.any (fun p => m.any (fun q => p.1 < q.1 + q.2 && q.1 < p.1 + p.2))
/-- Whether two accesses overlap; g accesses whose places are not known yet may. -/
def State.accMeet (s : State) (c : Nat) (f g : Flight) : Bool :=
  f.space == g.space && (match f.space with
    | .g => (match s.knownParts c f.ea.toNat f.memSize, s.knownParts c g.ea.toNat g.memSize with
      | some l, some m => partsMeet l m
      | _, _ => true)
    | _ => partsMeet [(f.ea.toNat, f.memSize)] [(g.ea.toNat, g.memSize)])

/-- A STATE 1 record is sent again once the overlapping ones before it, of any stream, are performed at their homes (R197). -/
def State.redoHeld (s : State) (c : Nat) (f : Flight) : Bool :=
  let k := s.core c
  f.redo && f.memSize != 0
    && (k.flights.any (fun g => g.redo && g.id < f.id && g.memSize != 0 && (g.phase == .unsent || g.phase == .sent) && s.accMeet c f g)
      || k.wq.any (fun w => w.id < f.id && (match f.space, w.kind with
          | .g, 0 => (match s.knownParts c f.ea.toNat f.memSize with
            | some l => partsMeet l [(w.addr, w.data.length)]
            | none => true)
          | .nb, 1 => w.core == (nbTarget c f.ea).1 && partsMeet [((nbTarget c f.ea).2, f.memSize)] [(w.addr, w.data.length)]
          | _, _ => false)))

/-- A fence among the records sent again holds the later ones of its stream (R401). -/
def Core.redoFenced (k : Core) (f : Flight) : Bool :=
  f.redo && k.flights.any (fun g => g.redo && g.src == f.src && g.id < f.id && isFence g.i)
/-- An earlier write of the stream that has not been accepted comes first: before any write, and before a read of its bytes (R158,
R307). -/
def State.writeBefore (s : State) (c : Nat) (f : Flight) : Bool :=
  (s.core c).flights.any (fun g => g.src == f.src && g.id < f.id && isWrite g.i && g.phase == .unsent && g.space != .sp
    && (isWrite f.i || (isRead f.i && s.accMeet c f g)))
/-- Whether an access may be presented: a request to the hub or to the core itself waits for the acquires before it, another access for
their requests (Table 8-3). -/
def State.mayPresent (s : State) (c : Nat) (f : Flight) : Bool :=
  let k := s.core c
  !(if isWrite f.i ∨ isRead f.i then k.acqUnsent f else k.acqBefore f) && !k.redoFenced f && !s.writeBefore c f
    && !(isWrite f.i && k.readBefore f (· == .unsent)) && !s.redoHeld c f

/-- Present every access whose time has come, in issue order. -/
def State.present (s : State) (c : Nat) (full : Bool) : State :=
  ((s.core c).flights.map (·.id)).foldl (fun s id =>
    let k := s.core c
    match k.flight id with
    | some f =>
      if f.phase = .unsent ∧ f.live ∧ f.remain = 0 ∧ s.mayPresent c f then
        match f.i with
        | .finc .. => s.presentF c f
        | .cinv scope _ _ _ => s.presentC c f scope full
        | .flueld .. => s
        | .launch _ | .fork .. | .sreward _ | .sgcancel .. | .sginfo .. | .tscore _ | .tgrow _ | .tinfo .. =>
          let (s, n) := s.wait
          (s.modCore c (fun k => k.modFlight id (fun g => { g with phase := .sent, live := false }))).modHub (fun h =>
            { h with reqs := h.reqs ++ [⟨c, f.src, id, k.kind, f.i, nthW f.ops 0, nthW f.ops 1, k.world, n, false⟩] })
        | .iclock _ | .icinv .. | .estat .. =>
          let (s, n) := s.wait
          s.modCore c (fun k => k.modFlight id (fun g => { g with phase := .sent, remain := n }))
        | _ => if f.space = .nb then s.presentN c f else if f.space = .g then s.presentG c f full else s
      else s
    | none => s) s

end Sys2Proof.Machine
end

