-- ==== Sys2Proof/Machine/Memory.lean ====
section
/-! DEFINITION. The MC class (15): loads, stores, LDQ, PREF, vector and predicate moves, stream ports, atomics, fences
and cache control. -/

namespace Sys2Proof.Machine

/-- What an atomic writes; none for a failed ACAS (Table 15-3, R320). -/
def atomNew (op : AtomK) (old arg cmp : Nat) : Option Nat :=
  let a : Word := BitVec.ofNat 64 old
  let b : Word := BitVec.ofNat 64 arg
  match op with
  | .add => some (a + b).toNat
  | .and => some (a &&& b).toNat
  | .or => some (a ||| b).toNat
  | .xor => some (a ^^^ b).toNat
  | .min => some (if b.slt a then b else a).toNat
  | .max => some (if a.slt b then b else a).toNat
  | .minu => some (if b < a then b else a).toNat
  | .maxu => some (if a < b then b else a).toNat
  | .swap => some arg
  | .cas => if old = cmp then some arg else none
  | .fadd => some (fp32Add old (arg % 2 ^ 32))
  | .fmax => some (fp32Max old (arg % 2 ^ 32))

/-- Bytes an atomic reads and writes. -/
def AtomK.size : AtomK → Nat
  | .fadd | .fmax => 4
  | _ => 8

/-- Operands captured by an MC syllable (R194): xbase, a second register, store data, policy. -/
def mcOps (s : State) (i : Instr) (m : MAddr) : List Word :=
  let t := s.my
  match i.atom, i.store with
  | some (_, o), _ => [t.rx m.xbase, t.rx m.xpol, t.rx o.xd, 0]
  | _, some x => [t.rx m.xbase, 0, t.rx x.1, t.rx m.xpol]
  | _, _ => [t.rx m.xbase, 0, 0, t.rx m.xpol]

/-- Natural alignment (R303). -/
def natAlign (i : Instr) : Nat :=
  match i with
  | .ldv .. | .stv .. | .bind .. => 64
  | .ldp .. | .stp .. => 256
  | _ => i.accSize 0

/-- An operation of a context writes the own scratchpad. -/
def Core.spPut (k : Core) (f : Flight) (off : Nat) (bs : List Byte) : Core :=
  ((k.shadow f.src f.id off (k.spRd off bs.length)).cover f.src f.id off bs.length).spWr off bs

/-- Own scratchpad: one pass of an LDV or STV (R306). -/
def Core.ldvPass (k : Core) (f : Flight) (off j : Nat) : Core :=
  let n := f.i.accSize f.vsh
  let bs := k.spRd (off + 256 * j) (Nat.min 256 (n - 256 * j))
  k.modFlight f.id (fun g => { g with
    prog := j + 1, td := some (BitVec.ofNat 16384 ((g.td.getD 0).toNat + leNat bs * 2 ^ (2048 * j))) })
def Core.stvPass (k : Core) (f : Flight) (off j : Nat) : Core :=
  let n := f.i.accSize f.vsh
  let k := k.spPut f (off + 256 * j) ((f.stData.drop (256 * j)).take (Nat.min 256 (n - 256 * j)))
  if passesOf n ≤ j + 1 then k.dropFlight f else k.modFlight f.id (fun g => { g with prog := j + 1 })

/-- Start the passes of an LDV or STV: pass 0 in the issue cycle, the others in the cycles after (R306). -/
def startPasses (s : State) (f : Flight) (off : Nat) : State :=
  let s := fly s f
  s.modMe (fun k =>
    let k := match f.i with | .ldv .. => k.ldvPass f off 0 | _ => k.stvPass f off 0
    if 1 < passesOf (f.i.accSize f.vsh) then { k with passes := k.passes ++ [(f.src, f.id, 1)] } else k)

/-- An access of the own scratchpad at issue (R121, R128, R306). It comes after an acquire of its stream that has no data yet, and a
release once its condition holds (Table 8-3, Table 8-5). An access that a RESUME performs again waits for nothing. -/
def spAccess (s : State) (f : Flight) (off : Nat) (redo : Bool := false) : State :=
  let k := s.me
  let n := f.i.accSize f.vsh
  let acq := isAcq f.os && bumps f.os.scope
  match k.spCheck off n with
  | .access =>
    let f := { f with phase := .faulted, fault := 6, live := false }
    raiseOn (fly s f) s.cur.core 6 f.src f.slot 0 f.ea
  | .moving => { s with cur := { s.cur with verdict := .hold } }
  | _ =>
    if !redo && acq && k.bumpWaits then stallOn s .sweep
    else if !redo && (k.acqAway f.src || (isRel f.os && !s.released s.cur.core f.src s.cur.first f.os.scope)) then stallOn s .other
    else
      let bs := k.spRd off n
      let late : Bool := match f.i with | .ldv .. => 1 < passesOf n | _ => false   -- the last pass then makes the GENBUMP
      let s := if acq && !late then s.modMe Core.genbump else s
      match f.i with
      | .ldv .. => startPasses s { f with remain := 6 + passesOf n, td := some 0 } off
      | .stv .. => startPasses s { f with phase := .unsent, live := false } off
      | .ldp .. => fly s { f with remain := 5, td := some (BitVec.ofNat 16384 (leNat bs)) }
      | .stp .. => s.modMe (fun k => k.spPut f off f.stData)
      | .ldq .. => fly s { f with phase := .captured, remain := 4, data := leNat bs }
      | _ => match f.i.atom with
        | some (op, _) =>
          let old := leNat bs
          let s := match atomNew op old (nthW f.ops 1).toNat (nthW f.ops 2).toNat with
            | some v => s.modMe (fun k => k.spPut f off (leBytes n v))
            | none => s
          let (s, w) := s.wait
          fly s { f with phase := .captured, remain := w, data := old }
        | none =>
          if f.i.store.isSome then s.modMe (fun k => k.spPut f off f.stData)
          else fly s { f with remain := 4, data := leNat bs }

/-- An MC access: its address is formed and its alignment checked at issue (R303); g and nb accesses are presented two
cycles later (R398, log 7), sp ones act at once. -/
def mcAccess (i : Instr) (m : MAddr) (dest : State → Nat) (tile : State → Option Tile) (s : State) : Res :=
  issue i s (fun s =>
    let ea := s.my.ea m
    if ea.toNat % natAlign i ≠ 0 then raiseAt s 8 0 ea
    else
      let f : Flight := { blankFlight s i with
        ea := ea, space := m.space, ops := mcOps s i m, dest := dest s, tA := tile s, vsh := s.me.sys.vsh,
        tok := if i.isVar then s.cur.tok else none }
      match m.space with
      | .g => fly s { f with phase := .unsent, remain := 2, gen := if isWrite i then 1 + (s.world s.me.world.toNat).count else 0 }
      | .sp => spAccess s f ea.toNat
      | .nb =>
        if ea.toNat < 2 ^ 24 ∧ (nbTarget s.cur.core ea).1 = s.cur.core then spAccess s f (nbTarget s.cur.core ea).2
        else fly s { f with phase := .unsent, remain := 2 })

def noTile (_ : State) : Option Tile := none
def noDest (_ : State) : Nat := 0

/- Scalar loads and stores (R308, R309). -/
def execLdb (o : LdOp) (s : State) : Res := mcAccess (.ldb o) o.m noDest noTile s
def execLdbu (o : LdOp) (s : State) : Res := mcAccess (.ldbu o) o.m noDest noTile s
def execLdh (o : LdOp) (s : State) : Res := mcAccess (.ldh o) o.m noDest noTile s
def execLdhu (o : LdOp) (s : State) : Res := mcAccess (.ldhu o) o.m noDest noTile s
def execLdw (o : LdOp) (s : State) : Res := mcAccess (.ldw o) o.m noDest noTile s
def execLdwu (o : LdOp) (s : State) : Res := mcAccess (.ldwu o) o.m noDest noTile s
def execLdd (o : LdOp) (s : State) : Res := mcAccess (.ldd o) o.m noDest noTile s
def execStb (o : StOp) (s : State) : Res := mcAccess (.stb o) o.m noDest noTile s
def execSth (o : StOp) (s : State) : Res := mcAccess (.sth o) o.m noDest noTile s
def execStw (o : StOp) (s : State) : Res := mcAccess (.stw o) o.m noDest noTile s
def execStd (o : StOp) (s : State) : Res := mcAccess (.std o) o.m noDest noTile s

/- Vector and predicate moves (R312, R313). -/
def execLdv (v : BitVec 6) (m : MAddr) (s : State) : Res := mcAccess (.ldv v m) m (fun s => s.me.vphys v.toNat) noTile s
def execStv (v : BitVec 6) (m : MAddr) (s : State) : Res :=
  mcAccess (.stv v m) m (fun s => s.me.vphys v.toNat) (fun s => some (s.me.rv (s.me.vphys v.toNat))) s
def execLdp (p : BitVec 4) (m : MAddr) (s : State) : Res := mcAccess (.ldp p m) m (fun s => s.me.pphys p.toNat) noTile s
def execStp (p : BitVec 4) (m : MAddr) (s : State) : Res :=
  mcAccess (.stp p m) m (fun s => s.me.pphys p.toNat)
    (fun s => some ((s.me.rp (s.me.pphys p.toNat)).setWidth 16384)) s

/- Atomics (R319-R321). -/
def execAadd (o : AtOp) (s : State) : Res := mcAccess (.aadd o) o.m noDest noTile s
def execAand (o : AtOp) (s : State) : Res := mcAccess (.aand o) o.m noDest noTile s
def execAor (o : AtOp) (s : State) : Res := mcAccess (.aor o) o.m noDest noTile s
def execAxor (o : AtOp) (s : State) : Res := mcAccess (.axor o) o.m noDest noTile s
def execAmin (o : AtOp) (s : State) : Res := mcAccess (.amin o) o.m noDest noTile s
def execAmax (o : AtOp) (s : State) : Res := mcAccess (.amax o) o.m noDest noTile s
def execAminu (o : AtOp) (s : State) : Res := mcAccess (.aminu o) o.m noDest noTile s
def execAmaxu (o : AtOp) (s : State) : Res := mcAccess (.amaxu o) o.m noDest noTile s
def execAswap (o : AtOp) (s : State) : Res := mcAccess (.aswap o) o.m noDest noTile s
def execAcas (o : AtOp) (s : State) : Res := mcAccess (.acas o) o.m noDest noTile s
def execAfadd (o : AtOp) (s : State) : Res := mcAccess (.afadd o) o.m noDest noTile s
def execAfmax (o : AtOp) (s : State) : Res := mcAccess (.afmax o) o.m noDest noTile s

/-- LDQ (R104, R132, R310): it reserves an entry at issue and locks its line; it stalls on a full queue and at the
lock limit. -/
def execLdq (q : BitVec 3) (m : MAddr) (s : State) : Res :=
  let i : Instr := .ldq q m
  issue i s (fun s =>
    let k := s.me
    let ea := s.my.ea m
    let line := ea.toNat / 128
    if ea.toNat % 8 ≠ 0 then raiseAt s 8 0 ea
    else if !s.room q then stallOn s (.queue q true)
    else if m.space = .g ∧ !k.locked line ∧ 512 ≤ k.lockCount then stallOn s .other
    else
      let e : QEnt := { val := none, src := k.nextId, lock := if m.space = .g then some line else none }
      let s' := s.modMe (fun k => k.push q.toNat e)
      match mcAccess i m (fun _ => q.toNat) noTile s' with
      | .next t => if t.cur.verdict = .go then t else
          { t with cores := mset t.cores t.cur.core { t.me with queues := k.queues } }
      | _ => s)

/-- The L1 line of a physical line, as the core's streams see it, is filled under the current generation, or brought up to date where it
hits (R130, R155). -/
def State.l1Fill (s : State) (c va pa : Nat) (pol : BitVec 32) : State :=
  let line := pa / 128
  let data := BitVec.ofNat 1024 (leNat (s.homeRd c (s.core c).nextId (128 * line) 128))
  s.modCore c (fun k => (match k.l1Hit line with
    | some x => { k with l1 := mset k.l1 line { x with data := data } }
    | none => k.l1Put line (policyClass pol 16 va) data).l1Keep line)

/-- The lines of an access in L2: filled where they are not there, with the class of AL2; hits and misses of the counted tag (R136,
R217). -/
def State.l2Touch (s : State) (c : Nat) (pol : BitVec 32) (world va pa n : Nat) : State :=
  (List.range ((pa % 128 + n + 127) / 128)).foldl (fun s j =>
    let (s, hit) := s.l2Fill world (pa / 128 * 128 + 128 * j) (dieOf c) (policyClass pol 17 (va / 128 * 128 + 128 * j))
    let cfg := (s.core c).cntcfg.toNat
    if tbit cfg 8 ∧ bits cfg 0 8 = bits pol.toNat 24 8 then s.count c (if hit then 6 else 7) 1 else s) s

/-- PREF (R311): finished at issue; dropped without a trace where its page is not at hand, lacks R, or where its home refuses it. -/
def execPref (l2 : Bool) (xbase xpol : XReg) (disp : BitVec 23) (s : State) : Res :=
  let i : Instr := .pref l2 xbase xpol disp
  issue i s (fun s =>
    let c := s.cur.core
    let k := s.me
    let w := k.world.toNat
    let va := (s.my.rx xbase + disp.signExtend 64).toNat
    let pol : BitVec 32 := (s.my.rx xpol).setWidth 32
    let e := match tlbFind k.tlb w va with
      | some e => some e
      | none => tlbFind (mget [] s.ltlb (dieOf c)) w va
    match e with
    | some e =>
      let pa := s.normPa (e.pa + (va - e.va))
      let line := pa / 128 * 128
      let kd := paKind s.hub.accid pa
      if 2 ^ 56 ≤ va ∨ !e.r ∨ !(kd == .hbm || kd == .peer) ∨ !s.agentOk 1 w line 128 then s
      else
        let s := if kd = .hbm then ((s.rangeAccess 1 c w line 128 false).1).l2Touch c pol w va pa 1 else s   -- counted as served (R57)
        if l2 ∨ k.atomPending k.nextId line 128 ∨ s.readWaits (dieOf c) line 128 then s else s.l1Fill c va pa pol
    | none => s)

/-- BIND (R316): a port still bound is unbound first, and the BIND stalls while that unbind's drain runs. -/
def execBind (wr : Bool) (p : BitVec 2) (m : MAddr) (s : State) : Res :=
  let i : Instr := .bind wr p m
  issue i s (fun s =>
    let ea := s.my.ea m
    if ea.toNat % 64 ≠ 0 then raiseAt s 8 0 ea
    else
      let go (s : State) : State :=
        fly s { blankFlight s i with remain := 1, ea := ea, space := m.space, ops := mcOps s i m, dest := p.toNat }
      match mfind s.me.ports p.toNat with
      | some x =>
        if x.wr ∧ (!x.tiles.isEmpty ∨ !x.part.isEmpty) then
          stallOn (s.modMe (fun k => { k with ports := mset k.ports p.toNat { x with endReq := true } })) .other
        else go s
      | none => go s)

/-- UNBIND (R317): in effect from issue + 1. -/
def execUnbind (p : BitVec 2) (s : State) : Res :=
  issue (.unbind p) s (fun s => fly s { blankFlight s (.unbind p) with remain := 1, dest := p.toNat })

/-- Tiles of a pattern (R315). -/
def Pattern.elems (p : Pattern) : Nat := p.ext.foldl (· * ·) 1
def Pattern.te (p : Pattern) : Nat := p.trows * p.tcols
def Pattern.tiles (p : Pattern) : Nat := (p.elems + p.te - 1) / p.te

/-- A port's state as SPSTAT gives it (R318). -/
def portStat (x : Option Port) : Word :=
  match x with
  | none => 0
  | some p =>
    if p.endReq then 0
    else
      let all := if p.wr then p.tiles.isEmpty && p.part.isEmpty
        else match p.pat with | some t => p.moved == t.tiles | none => false
      BitVec.ofNat 64 (2 ^ 63 + (if p.wr then 2 ^ 62 else 0) + (if all then 2 ^ 61 else 0)
        + p.tiles.length % 8 * 2 ^ 56 + p.cons % 2 ^ 32)

/-- SPSTAT (R318). -/
def execSpstat (xd : XReg) (p : BitVec 2) (s : State) : Res :=
  issue (.spstat xd p) s (fun s => flyFixed s (.spstat xd p) 2 [portStat (mfind s.me.ports p.toNat)])

/-- FENCE, SYNCG and RCFENCE (R322-R324): the next parcel of the context waits until they complete. -/
def fence (i : Instr) (s : State) : Res :=
  issue i s (fun s => fly s { blankFlight s i with phase := .unsent, live := false })
def execFence (os : OS) (s : State) : Res := fence (.fence os) s
def execSyncg (scope : ScopeK) (s : State) : Res := fence (.syncg scope) s
def execRcfence (s : State) : Res := fence .rcfence s

/-- CINV (R325). -/
def execCinv (scope : ScopeK) (xbase xlen : XReg) (disp : BitVec 23) (s : State) : Res :=
  let i : Instr := .cinv scope xbase xlen disp
  issue i s (fun s =>
    let ea := s.my.rx xbase + disp.signExtend 64
    let n := s.my.rx xlen
    let f := { blankFlight s i with phase := .unsent, remain := 2, ea := ea, ops := [s.my.rx xbase, n] }
    if n = 0 then s
    else if 2 ^ 40 ≤ n.toNat then
      raiseOn (fly s { f with phase := .faulted, fault := 6, live := false }) s.cur.core 6 f.src f.slot 0 ea
    else fly s f)

/-- MC_NOP (R252): no effect. -/
def execMcNop (s : State) : Res := issue .mcNop s (fun s => s)

end Sys2Proof.Machine
end

