-- ==== Sys2Proof/Machine/Vector.lean ====
section
/-! DEFINITION. The VC class (16): operand tiles, the element functions, predicates, conversions and data movement. A
syllable captures its sources at issue (R328); its result is computed from them when it lands, so that a result
depends on nothing else. -/

namespace Sys2Proof.Machine

/-- The value of a constant port at element e of a tile of `cols` columns, as a code of a format (R260). -/
def constCode (f : Fmt) (cols e : Nat) (k : ConstK) : Nat :=
  let num (n : Nat) : Nat :=
    if f.isInt then (clampInt f (n : Int)).1
    else if f = .lns6 ∧ n = 0 then 0x10 else (cvtTo f .rne false 0 (.fin false n 0)).1
  let top : Nat :=
    if f.isInt then wrapN f.bits (intMax f)
    else if f = .e8m0 then 0xFE else if f = .lns6 then 0x0F else (fspec f).maxc
  match k with
  | .zero => num 0
  | .one => num 1
  | .rowi => num (e / cols)
  | .coli => num (e % cols)
  | .flati => num e
  | .maxf => top
  | .pinf => if f.isInt ∨ f = .e8m0 ∨ f = .lns6 ∨ (fspec f).infc = 0 then top else (fspec f).infc
  | .ninf =>
    if f.isInt then wrapN f.bits (intMin f)
    else if f = .e8m0 then 0 else if f = .lns6 then 0x2F
    else signBit f true + (if (fspec f).infc = 0 then top else (fspec f).infc)

/-- Element codes of a tile, the first `n` of width `w`. -/
def codes (t : Tile) (w n : Nat) : List Nat := (List.range n).map (fun e => bits t.toNat (w * e) w)

/-- A number built of element codes of width `w`, first element lowest. -/
def packCodes (w : Nat) : List Nat → Nat
  | [] => 0
  | c :: l => c % 2 ^ w + 2 ^ w * packCodes w l

/-- The codes of an operand: from its captured tile, a broadcast register or a constant. -/
def srcCodes (p : VSrc) (t : Option Tile) (x : Word) (f : Fmt) (cols n : Nat) : List Nat :=
  match p with
  | .const k => (List.range n).map (fun e => constCode f cols e k)
  | .x _ => List.replicate n (x.toNat % 2 ^ f.bits)
  | _ => codes (t.getD 0) f.bits n

/-- Signed or unsigned reading of an element (R340). -/
def isSigned (f : Fmt) : Bool := f == .int8 || f == .int16 || f == .int32
def elemInt (f : Fmt) (c : Nat) : Int := if isSigned f then sextN f.bits c else ((c % 2 ^ f.bits : Nat) : Int)

/-- m24 of R340. -/
def m24 (f : Fmt) (c : Nat) : Int :=
  if f.bits ≤ 16 then elemInt f c else if isSigned f then sextN 24 c else ((c % 2 ^ 24 : Nat) : Int)

/-- VRSHR: a / 2^n rounded (R341); a count above 40 shifts all of the 32 bits out, as 40 does. -/
def vrshr (f : Fmt) (rnd : RndK) (c n : Nat) : Nat :=
  let a := elemInt f c
  let k := (roundAt rnd (a < 0) 0 a.natAbs (-(Nat.min n 40 : Int)) 0).1
  wrapN f.bits (if a < 0 then -(k : Int) else k)

/-- VCLASS's mask (R338). -/
def vclass (ftz : Bool) (f : Fmt) (c : Nat) : Nat :=
  match rdVal ftz f c with
  | .inf s => if s then 1 else 2 ^ 7
  | .nan sg => if sg then 2 ^ 8 else 2 ^ 9
  | .fin s m _ =>
    if m = 0 then (if s then 2 ^ 3 else 2 ^ 4)
    else if isSub f c then (if s then 2 ^ 2 else 2 ^ 5)
    else if s then 2 else 2 ^ 6

/-- VRND (R338). -/
def vrnd (f : Fmt) (rnd : RndK) (ftz : Bool) (r c : Nat) : Nat × Nat :=
  match rdVal ftz f c with
  | .fin s m e =>
    let (k, ex) := roundAt rnd s r m e 0
    let (c, fl) := cvtTo f .rne false 0 (.fin s k 0)
    (c, Nat.lor fl (if ex then 0 else fNX))
  | v => finishFP f rnd ftz r (v, 0)

/-- Everything an element function may use besides its operands. -/
structure VEnv where
  f    : Fmt
  d    : Fmt
  rnd  : RndK
  ftz  : Bool
  novf : Bool
  seed : BitVec 32
  cnt  : BitVec 32
  rows : Nat
  cols : Nat
deriving DecidableEq, Repr

/-- The comparison of VCMP on two element codes, with its flags (R343). -/
def vcmp (v : VEnv) (cond : CondK) (a b : Nat) : Bool × Nat :=
  if v.f.isInt then
    let x := elemInt v.f a
    let y := elemInt v.f b
    (match cond with
      | .eq => x == y | .ne => x != y | .lt => x < y | .le => x ≤ y | .gt => y < x | .ge => y ≤ x
      | .un => false | .ord => true, 0)
  else
    let x := rdVal v.ftz v.f a
    let y := rdVal v.ftz v.f b
    let nan := fvIsNan x || fvIsNan y
    let sn := fvIsSNan x || fvIsSNan y
    let lt := fvLt x y
    let gt := fvLt y x
    match cond with
    | .eq => (!nan && !lt && !gt, if sn then fNV else 0)
    | .ne => (nan || lt || gt, if sn then fNV else 0)
    | .lt => (!nan && lt, if nan then fNV else 0)
    | .le => (!nan && !gt, if nan then fNV else 0)
    | .gt => (!nan && gt, if nan then fNV else 0)
    | .ge => (!nan && !lt, if nan then fNV else 0)
    | .un => (nan, if sn then fNV else 0)
    | .ord => (!nan, if sn then fNV else 0)

/-- An elementwise result: code and flags of element e from its operands (R337-R342, R346, R347). -/
def elemFn (i : Instr) (v : VEnv) (e a b c : Nat) : Nat × Nat :=
  let f := v.f
  let w := f.bits
  let r := if v.rnd = .sr then srWord v.seed v.cnt e else 0
  let fp (x : FV × Nat) : Nat × Nat := finishFP f v.rnd v.ftz r x
  let va := rdVal v.ftz f a
  let vb := rdVal v.ftz f b
  let vc := rdVal v.ftz f c
  let int (z : Int) : Nat × Nat := (wrapN w z, 0)
  let ia := elemInt f a
  let ib := elemInt f b
  match i with
  | .vadd _ => fp (fvAdd v.rnd va vb)
  | .vsub _ => fp (fvAdd v.rnd va (fvNeg vb))
  | .vmul _ => fp (fvMul va vb)
  | .vfma _ => fp (fvFma v.rnd va vb vc)
  | .vfms _ => fp (fvFma v.rnd va vb (fvNeg vc))
  | .vfnma _ => fp (fvFma v.rnd (fvNeg va) vb vc)
  | .vmin _ => fvMinMax f v.ftz false a b
  | .vmax _ => fvMinMax f v.ftz true a b
  | .vabs _ => match va with
    | .nan sg => ((fspec f).nanc, if sg then fNV else 0)
    | x => ((cvtTo f .rne false 0 (if fvSign x then fvNeg x else x)).1, 0)
  | .vneg _ => match va with
    | .nan sg => ((fspec f).nanc, if sg then fNV else 0)
    | x => ((cvtTo f .rne false 0 (fvNeg x)).1, 0)
  | .vdiv _ => fp (fvDiv va vb)
  | .vsqrt _ => fp (fvSqrt va)
  | .vrcp _ => specialFn 0 f v.ftz a
  | .vrsq _ => specialFn 1 f v.ftz a
  | .vexp2 _ => specialFn 2 f v.ftz a
  | .vlog2 _ => specialFn 3 f v.ftz a
  | .vtanh _ => specialFn 4 f v.ftz a
  | .vsigm _ => specialFn 5 f v.ftz a
  | .vrnd _ => vrnd f v.rnd v.ftz r a
  | .vclass _ => (vclass v.ftz f a % 2 ^ w, 0)
  | .viadd _ => int (ia + ib)
  | .visub _ => int (ia - ib)
  | .vimul24 _ => int (m24 f a * m24 f b)
  | .vimulh24 _ => int (m24 f a * m24 f b / ((2 ^ w : Nat) : Int))
  | .vimul32 _ => int (ia * ib)
  | .vimulh32 _ => int (ia * ib / ((2 ^ 32 : Nat) : Int))
  | .vimac24 _ => int (m24 f a * m24 f b + elemInt f c)
  | .vimin _ => int (if ib < ia then ib else ia)
  | .vimax _ => int (if ia < ib then ib else ia)
  | .viabs _ => int (if ia < 0 then -ia else ia)
  | .vand _ => (Nat.land a b, 0)
  | .vor _ => (Nat.lor a b, 0)
  | .vxor _ => (Nat.xor a b, 0)
  | .vshl _ => (if w ≤ b then 0 else a * 2 ^ b % 2 ^ w, 0)
  | .vshr _ => (if w ≤ b then 0 else a % 2 ^ w / 2 ^ b, 0)
  | .vsra _ => (wrapN w (sextN w a / ((2 ^ (Nat.min b w) : Nat) : Int)), 0)
  | .vrshr _ => (vrshr f v.rnd a b, 0)
  | .vsat _ t =>
    let lo := intMin t
    let hi := intMax t
    let z := if ia < lo then lo else if hi < ia then hi else ia
    (wrapN w z, if z = ia then 0 else fISAT)
  | .viadds _ =>
    let (k, sat) := clampInt f (ia + ib)
    (k, if sat then fISAT else 0)
  | .vcvt _ d => cvtElem f d v.rnd v.novf v.ftz r a
  | .vpack _ d => cvtElem f d v.rnd v.novf v.ftz r a
  | .vunpk _ _ d => cvtElem f d .rne v.novf v.ftz 0 a
  | _ => (a, 0)

/-- What a landing VC syllable produces: the result tile as a number, a predicate, the scale bytes of VQMX, flags. -/
structure VRes where
  tile  : Nat := 0
  pred  : Nat := 0
  scal  : Nat := 0
  flags : Nat := 0
deriving DecidableEq, Repr

def nthD (l : List Nat) (n : Nat) : Nat := l.getD n 0

/-- Collect elements and flags under a mask of active positions (R329, R185). -/
def gather (n : Nat) (act : Nat → Bool) (g : Nat → Nat × Nat) : List Nat × Nat :=
  (List.range n).foldr (fun e (acc : List Nat × Nat) =>
    if act e then let x := g e; (x.1 :: acc.1, Nat.lor x.2 acc.2) else (0 :: acc.1, acc.2)) ([], 0)

/-- One reduction step over the active elements of a line (R350). -/
def redLine (v : VEnv) (op : RedK) (l : List Nat) : Nat × Nat :=
  let f := v.f
  match op with
  | .add =>
    if f.isFP then
      l.foldl (fun a c =>
        let x := finishFP f v.rnd v.ftz 0 (fvAdd v.rnd (rdVal v.ftz f a.1) (rdVal v.ftz f c))
        (x.1, Nat.lor a.2 x.2)) (0, 0)
    else (l.foldl (fun a c => (a + c) % 2 ^ f.bits) 0, 0)
  | _ =>
    let mx := op == .max
    match l with
    | [] => (constCode f 1 0 (if mx then .ninf else .pinf), 0)
    | c :: rest =>
      if f.isFP then
        rest.foldl (fun a d => let x := fvMinMax f v.ftz mx a.1 d; (x.1, Nat.lor a.2 x.2)) (fvMinMax f v.ftz mx c c)
      else (rest.foldl (fun a d =>
        if mx then (if elemInt f a < elemInt f d then d else a) else (if elemInt f d < elemInt f a then d else a)) c, 0)

/-- The environment of a captured syllable; rnd dyn takes FPCTL.RMODE (R331). -/
def dynRnd (fpctl : BitVec 32) : RndK := (rndOf (fpctl.toNat % 8)).getD .rne
def vEnv (o : VOp) (d : Fmt) (fpctl vsh seed cnt : BitVec 32) : VEnv :=
  { f := o.fmt, d := d, rnd := if o.rnd = .dyn then dynRnd fpctl else o.rnd,
    ftz := tbit fpctl.toNat 3, novf := tbit fpctl.toNat 4, seed := seed, cnt := cnt,
    rows := vshRows vsh, cols := vshCols vsh }

/-- The result of a VC syllable from what it captured. -/
def evalVC (i : Instr) (o : VOp) (x : Flight) : VRes :=
  let d := i.dfmt o
  let v := vEnv o d x.fpctl x.vsh ((nthW x.ops 3).setWidth 32) x.cnt
  let n := v.rows * v.cols
  let cols := v.cols
  let sn := i.srcN n
  let bf : Fmt := match i with | .vgath _ => .uint16 | .vdqmx .. => .e8m0 | _ => o.fmt
  let bn := match i with | .vdqmx .. => n / 32 | _ => n
  let A := srcCodes o.a x.tA (nthW x.ops 0) o.fmt cols sn
  let B := srcCodes o.b x.tB (nthW x.ops 1) bf cols bn
  let C := srcCodes o.c x.tC (nthW x.ops 2) o.fmt cols n
  let p : Nat := (x.pr.getD (BitVec.allOnes 2048)).toNat
  let act (e : Nat) : Bool := tbit p (e % 2048)
  let w := d.bits
  let out (l : List Nat × Nat) : VRes := { tile := packCodes w l.1, flags := l.2 }
  let move (m : Nat) (g : Nat → Nat) : VRes := { tile := packCodes w ((List.range m).map g) }
  let at' (l : List Nat) (r c : Nat) : Nat := nthD l (r * cols + c)
  match i with
  | .vcmp _ cond _ =>
    let l := (List.range n).map (fun e => if act e then vcmp v cond (nthD A e) (nthD B e) else (false, 0))
    { pred := packCodes 1 (l.map (fun y => if y.1 then 1 else 0)), flags := l.foldl (fun a y => Nat.lor a y.2) 0 }
  | .vsel _ => move n (fun e => if act e then nthD A e else nthD B e)
  | .vpack .. =>
    out (gather (2 * n) (fun _ => true) (fun e => elemFn i v e (if e < n then nthD A e else nthD B (e - n)) 0 0))
  | .vunpk _ hi _ => out (gather n (fun _ => true) (fun e => elemFn i v e (nthD A (if hi then n + e else e)) 0 0))
  | .vqmx .. =>
    let blocks := (List.range (n / 32)).map (fun k => mxScale d ((List.range 32).map (fun j => valOf o.fmt (nthD A (32 * k + j)))))
    let l := gather n (fun _ => true) (fun e =>
      let c := (blocks.getD (e / 32) (127, 0)).1
      mxElem d v.rnd (if v.rnd = .sr then srWord v.seed v.cnt e else 0) c (valOf o.fmt (nthD A e)))
    { tile := packCodes w l.1, scal := packCodes 8 (blocks.map (·.1)), flags := blocks.foldl (fun a y => Nat.lor a y.2) l.2 }
  | .vdqmx .. =>
    out (gather n act (fun e =>
      finishFP d v.rnd false (if v.rnd = .sr then srWord v.seed v.cnt e else 0) (mxVal o.fmt (nthD A e) (nthD B (e / 32)), 0)))
  | .vmov _ => out (gather n act (fun e => (nthD A e, 0)))
  | .vbrd _ col k => move n (fun e => if col then at' A (e / cols) k.toNat else at' A k.toNat (e % cols))
  | .vredr _ op =>
    let l := (List.range v.rows).map (fun r =>
      redLine v op (((List.range cols).filter (fun c => act (r * cols + c))).map (fun c => at' A r c)))
    { tile := packCodes w ((List.range n).map (fun e => if e % cols = 0 then (l.getD (e / cols) (0, 0)).1 else 0)),
      flags := l.foldl (fun a y => Nat.lor a y.2) 0 }
  | .vredc _ op =>
    let l := (List.range cols).map (fun c =>
      redLine v op (((List.range v.rows).filter (fun r => act (r * cols + c))).map (fun r => at' A r c)))
    { tile := packCodes w (l.map (·.1)), flags := l.foldl (fun a y => Nat.lor a y.2) 0 }
  | .vtrn _ => move n (fun e => at' A (e % v.rows) (e / v.rows))
  | .vrotc _ k => move n (fun e => at' A (e / cols) ((e % cols + k.toNat) % cols))
  | .vshc _ k => move n (fun e =>
      let c := e % cols + k.toNat
      if c < cols then at' A (e / cols) c else at' B (e / cols) (c - cols))
  | .vgath _ => out (gather n act (fun e => (if nthD B e < n then nthD A (nthD B e) else 0, 0)))
  | .viota _ => move n (fun e => ((List.range e).filter act).length % 2 ^ w)
  | _ => out (gather n act (fun e => elemFn i v e (nthD A e) (nthD B e) (nthD C e)))

/-- The shape a result has as an age (Table 10-2): transposed for VTRN, the result format for a conversion. -/
def resShape (i : Instr) (o : VOp) (vsh : BitVec 32) : BitVec 32 :=
  let r := vshRows vsh
  let c := vshCols vsh
  match i with
  | .vtrn _ => mkVsh c r o.fmt
  | _ => mkVsh r c (i.dfmt o)

/-- An age as a source: among the four newest results of the slot, and still held (R259, R112). -/
def Core.age (k : Core) (vb : Bool) (n : Nat) : Option Tile :=
  match (if vb then k.vb else k.va)[n]? with
  | some a => if a.hold ≠ 0 ∨ k.inter then some a.tile else none
  | none => none

/-- Result-tile bytes pushed by operations in flight to a port (R106). -/
def Core.pushing (k : Core) (p : Nat) : Nat :=
  (k.flights.filter (fun f => f.i.tileResult && f.dest == 64 + p && (match f.i.vop with | some o => (match o.d with | .s _ => true | _ => false) | none => false))).length

/-- What a port source or destination meets (R106, R315). -/
inductive PortOk | ok | stall | unbound | size
deriving DecidableEq, Repr

def Core.portSrc (k : Core) (p : Nat) (bytes : Nat) : PortOk :=
  match mfind k.ports p with
  | some x =>
    if x.wr ∨ x.endReq then .unbound
    else match x.pat with
      | some t => if tileBytes t.te t.fmt ≠ bytes then .size else if x.fresh < x.tiles.length then .ok else .stall
      | none => .stall
  | none => .unbound

def Core.portDst (k : Core) (p : Nat) (bytes : Nat) : PortOk :=
  match mfind k.ports p with
  | some x =>
    if !x.wr ∨ x.endReq then .unbound
    else match x.pat with
      | some t =>
        if tileBytes t.te t.fmt ≠ bytes then .size
        else if 4 ≤ x.tiles.length + k.pushing p ∨ t.tiles ≤ x.cons + k.pushing p then .stall else .ok
      | none => .stall
  | none => .unbound

/-- A captured operand: the core after the read and the tile, or what stops or stalls the syllable. -/
inductive Got
  | ok (k : Core) (t : Option Tile) (x : Word)
  | stop (cause detail : Nat)
  | stall
deriving Repr

/-- Read one source port at issue (R257, R328). -/
def getSrc (k : Core) (p : VSrc) (bytes : Nat) : Got :=
  match p with
  | .v n => .ok k (some (k.rv (k.vphys n.toNat))) 0
  | .s n =>
    match k.portSrc n.toNat bytes with
    | .ok => match mfind k.ports n.toNat with
      | some x => match x.tiles with
        | t :: rest => .ok { k with ports := mset k.ports n.toNat { x with tiles := rest, cons := x.cons + 1 } } (some t) 0
        | [] => .stall
      | none => .stop 4 4
    | .stall => .stall
    | .unbound => .stop 4 4
    | .size => .stop 4 0
  | .va n => match k.age false n.toNat with | some t => .ok k (some t) 0 | none => .stop 9 0
  | .vb n => match k.age true n.toNat with | some t => .ok k (some t) 0 | none => .stop 9 0
  | .x n => .ok k none (k.ck.rx n)
  | .const _ | .none => .ok k none 0

/-- The checks that depend on the shape (R327, R348, R349): none, or the ILLEGAL detail. -/
def shapeCheck (i : Instr) (o : VOp) (vsh : BitVec 32) : Option Nat :=
  let r := vshRows vsh
  let c := vshCols vsh
  let n := r * c
  if 2048 < tileBytes (i.srcN n) o.fmt ∨ 2048 < i.bBytes o n ∨ 2048 < i.dBytes o n then some 6
  else match i with
    | .vbrd _ col k => if k.toNat < (if col then c else r) then none else some 0
    | .vtrn _ => if c ≤ 64 then none else some 0
    | .vshc _ k => if k.toNat ≤ c then none else some 0
    | .vqmx .. | .vdqmx .. => if c % 32 = 0 then none else some 0
    | _ => none

/-- The mode a dyn syllable resolves to must be one its entry accepts (R331). -/
def modeOk (i : Instr) (o : VOp) (fpctl : BitVec 32) : Bool :=
  match i with
  | .vredr _ _ | .vredc _ _ => !(o.rnd == .dyn && dynRnd fpctl == .sr)
  | _ => true

/-- Whether a syllable rounds with sr once dyn is resolved; one that does not round captures nothing (R176). -/
def usesSr (o : VOp) (fpctl : BitVec 32) : Bool := o.rnd == .sr || (o.rnd == .dyn && dynRnd fpctl == .sr)

/-- A VC syllable with the common layout: checks, capture of every source, SRCNT, and its latency (R327-R333). -/
def vcIssue (i : Instr) (o : VOp) (s : State) : Res :=
  issueV i s (fun s =>
    let k := s.me
    let vsh := k.sys.vsh
    let n := vshN vsh
    match shapeCheck i o vsh with
    | some d => illegal s d
    | none =>
      if !modeOk i o k.sys.fpctl then illegal s 0
      else
        let ab := tileBytes (i.srcN n) o.fmt
        let b : VSrc := match i with | .vqmx .. => .none | _ => o.b
        match getSrc k o.a ab with
        | .stop c d => raiseAt s c d 0
        | .stall => stallOn s .port
        | .ok k tA xA =>
          match getSrc k b (i.bBytes o n) with
          | .stop c d => raiseAt s c d 0
          | .stall => stallOn s .port
          | .ok k tB xB =>
            match getSrc k o.c (tileBytes n o.fmt) with
            | .stop c d => raiseAt s c d 0
            | .stall => stallOn s .port
            | .ok k tC xC =>
              let dst : PortOk × Nat := match o.d with
                | .v m => (.ok, k.vphys m.toNat)
                | .s m => (k.portDst m.toNat (i.dBytes o n), 64 + m.toNat)
                | .none => (.ok, match i with | .vcmp pd _ _ => k.pphys pd.toNat | _ => 127)
              match dst.1 with
              | .unbound => illegal s 4
              | .size => illegal s 0
              | .stall => stallOn s .port
              | .ok =>
                let sr := usesSr o k.sys.fpctl
                let (lat, _) := i.vcTime (i.passes vsh)
                let f : Flight := { blankFlight s i with
                  fpctl := k.sys.fpctl, vsh := vsh, cnt := if sr then k.sys.srcnt else 0,
                  ops := [xA, match i, o.b with | .vqmx .., .v m => BitVec.ofNat 64 (k.vphys m.toNat) | _, _ => xB, xC,
                          if sr then k.sys.srseed.setWidth 64 else 0],
                  tA := tA, tB := tB, tC := tC, dest := dst.2,
                  ea := match i, o.b with | .vqmx .., .v m => BitVec.ofNat 64 (k.vphys m.toNat) | _, _ => 0,
                  pr := if o.p = 0 then none else some (k.rp (k.pphys o.p.toNat)),
                  tok := if i.isVar then s.cur.tok else none }
                let s := s.setMe (if sr then { k with sys := { k.sys with srcnt := k.sys.srcnt + 1 } } else k)
                if i.isSpecial then
                  let (s, t) := s.wait
                  fly s { f with phase := .sent, remain := lat + t }
                else fly s { f with remain := lat })

/-- Predicate logic on all 2,048 bits (R345). -/
def vcPred (i : Instr) (pd pa : BitVec 4) (pb : Option (BitVec 4)) (s : State) : Res :=
  issueV i s (fun s =>
    let k := s.me
    let rd (p : BitVec 4) : Option Tile := some ((k.rp (k.pphys p.toNat)).setWidth 16384)
    fly s { blankFlight s i with
      remain := 1, tA := rd pa, tB := pb.bind rd, dest := k.pphys pd.toNat, vsh := k.sys.vsh, fpctl := k.sys.fpctl })

/-- The predicate such an operation writes. -/
def predOf (f : Flight) : PredReg :=
  let a : PredReg := (f.tA.getD 0).setWidth 2048
  let b : PredReg := (f.tB.getD 0).setWidth 2048
  match f.i with
  | .pand .. => a &&& b
  | .por .. => a ||| b
  | .pxor .. => a ^^^ b
  | _ => ~~~a

/- Tables 16-1 to 16-3 and Table 9-5. -/
def execVadd (o : VOp) (s : State) : Res := vcIssue (.vadd o) o s
def execVsub (o : VOp) (s : State) : Res := vcIssue (.vsub o) o s
def execVmul (o : VOp) (s : State) : Res := vcIssue (.vmul o) o s
def execVfma (o : VOp) (s : State) : Res := vcIssue (.vfma o) o s
def execVfms (o : VOp) (s : State) : Res := vcIssue (.vfms o) o s
def execVfnma (o : VOp) (s : State) : Res := vcIssue (.vfnma o) o s
def execVmin (o : VOp) (s : State) : Res := vcIssue (.vmin o) o s
def execVmax (o : VOp) (s : State) : Res := vcIssue (.vmax o) o s
def execVabs (o : VOp) (s : State) : Res := vcIssue (.vabs o) o s
def execVneg (o : VOp) (s : State) : Res := vcIssue (.vneg o) o s
def execVdiv (o : VOp) (s : State) : Res := vcIssue (.vdiv o) o s
def execVsqrt (o : VOp) (s : State) : Res := vcIssue (.vsqrt o) o s
def execVrcp (o : VOp) (s : State) : Res := vcIssue (.vrcp o) o s
def execVrsq (o : VOp) (s : State) : Res := vcIssue (.vrsq o) o s
def execVexp2 (o : VOp) (s : State) : Res := vcIssue (.vexp2 o) o s
def execVlog2 (o : VOp) (s : State) : Res := vcIssue (.vlog2 o) o s
def execVtanh (o : VOp) (s : State) : Res := vcIssue (.vtanh o) o s
def execVsigm (o : VOp) (s : State) : Res := vcIssue (.vsigm o) o s
def execVrnd (o : VOp) (s : State) : Res := vcIssue (.vrnd o) o s
def execVclass (o : VOp) (s : State) : Res := vcIssue (.vclass o) o s
def execViadd (o : VOp) (s : State) : Res := vcIssue (.viadd o) o s
def execVisub (o : VOp) (s : State) : Res := vcIssue (.visub o) o s
def execVimul24 (o : VOp) (s : State) : Res := vcIssue (.vimul24 o) o s
def execVimulh24 (o : VOp) (s : State) : Res := vcIssue (.vimulh24 o) o s
def execVimul32 (o : VOp) (s : State) : Res := vcIssue (.vimul32 o) o s
def execVimulh32 (o : VOp) (s : State) : Res := vcIssue (.vimulh32 o) o s
def execVimac24 (o : VOp) (s : State) : Res := vcIssue (.vimac24 o) o s
def execVimin (o : VOp) (s : State) : Res := vcIssue (.vimin o) o s
def execVimax (o : VOp) (s : State) : Res := vcIssue (.vimax o) o s
def execViabs (o : VOp) (s : State) : Res := vcIssue (.viabs o) o s
def execVand (o : VOp) (s : State) : Res := vcIssue (.vand o) o s
def execVor (o : VOp) (s : State) : Res := vcIssue (.vor o) o s
def execVxor (o : VOp) (s : State) : Res := vcIssue (.vxor o) o s
def execVshl (o : VOp) (s : State) : Res := vcIssue (.vshl o) o s
def execVshr (o : VOp) (s : State) : Res := vcIssue (.vshr o) o s
def execVsra (o : VOp) (s : State) : Res := vcIssue (.vsra o) o s
def execVrshr (o : VOp) (s : State) : Res := vcIssue (.vrshr o) o s
def execViadds (o : VOp) (s : State) : Res := vcIssue (.viadds o) o s
def execVsel (o : VOp) (s : State) : Res := vcIssue (.vsel o) o s
def execVmov (o : VOp) (s : State) : Res := vcIssue (.vmov o) o s
def execVtrn (o : VOp) (s : State) : Res := vcIssue (.vtrn o) o s
def execVgath (o : VOp) (s : State) : Res := vcIssue (.vgath o) o s
def execViota (o : VOp) (s : State) : Res := vcIssue (.viota o) o s
def execVsat (o : VOp) (t : Fmt) (s : State) : Res := vcIssue (.vsat o t) o s
def execVcvt (o : VOp) (t : Fmt) (s : State) : Res := vcIssue (.vcvt o t) o s
def execVpack (o : VOp) (t : Fmt) (s : State) : Res := vcIssue (.vpack o t) o s
def execVqmx (o : VOp) (t : Fmt) (s : State) : Res := vcIssue (.vqmx o t) o s
def execVdqmx (o : VOp) (t : Fmt) (s : State) : Res := vcIssue (.vdqmx o t) o s
def execVredr (o : VOp) (t : RedK) (s : State) : Res := vcIssue (.vredr o t) o s
def execVredc (o : VOp) (t : RedK) (s : State) : Res := vcIssue (.vredc o t) o s
def execVrotc (o : VOp) (t : BitVec 9) (s : State) : Res := vcIssue (.vrotc o t) o s
def execVshc (o : VOp) (t : BitVec 9) (s : State) : Res := vcIssue (.vshc o t) o s
def execVunpk (o : VOp) (hi : Bool) (t : Fmt) (s : State) : Res := vcIssue (.vunpk o hi t) o s
def execVbrd (o : VOp) (col : Bool) (k : BitVec 6) (s : State) : Res := vcIssue (.vbrd o col k) o s
def execVcmp (pd : BitVec 4) (cond : CondK) (o : VOp) (s : State) : Res := vcIssue (.vcmp pd cond o) o s
def execPand (pd pa pb : BitVec 4) (s : State) : Res := vcPred (.pand pd pa pb) pd pa (some pb) s
def execPor (pd pa pb : BitVec 4) (s : State) : Res := vcPred (.por pd pa pb) pd pa (some pb) s
def execPxor (pd pa pb : BitVec 4) (s : State) : Res := vcPred (.pxor pd pa pb) pd pa (some pb) s
def execPnot (pd pa : BitVec 4) (s : State) : Res := vcPred (.pnot pd pa) pd pa none s

/-- VNOP (R332): no effect. -/
def execVnop (s : State) : Res := issueV .vnop s (fun s => s)

/-- Whether a value may be written to VSH (R335, R336): none, or the ILLEGAL detail. -/
def vshCheck (v : BitVec 32) : Option Nat :=
  let n := v.toNat
  if bits n 24 8 ≠ 0 ∨ bits n 17 3 ≠ 0 ∨ 14 ≤ bits n 20 4 then some 0
  else if 2048 < tileBytes (vshN v) (vshFmt v) then some 6 else none

/-- VSETSH (R336): VSH changes for syllables that issue at issue + 1 or later. -/
def execVsetsh (x : XReg) (s : State) : Res :=
  issueV (.vsetsh x) s (fun s =>
    let v := s.me.ck.rx x
    match vshCheck (v.setWidth 32) with
    | some d => illegal s d
    | none => flyFixed s (.vsetsh x) 1 [v])

end Sys2Proof.Machine
end

