-- ==== Sys2Proof/Machine/Land.lean ====
section
/-! DEFINITION. How results land (06 R108-R110; 13 R259) and what a core's clock edge does to its countdowns. -/

namespace Sys2Proof.Machine

/-- Write scalar results of a context. -/
def Core.putX (k : Core) (x : Nat) (l : List (XReg × Word)) : Core :=
  k.modCtx x (fun t => l.foldl (fun t w => t.wx w.1 w.2) t)

/-- Insert an age: newest first, in interlocked mode by issue order (R112); only the four newest count. -/
def insAge (inter : Bool) (a : Age) (l : List Age) : List Age :=
  let rec go : List Age → List Age
    | [] => [a]
    | b :: l => if inter && a.ord < b.ord then b :: go l else a :: b :: l
  (go l).take 4

/-- A tile pushed to a write port (R106). -/
def Core.pushTile (k : Core) (p : Nat) (t : Tile) : Core :=
  match mfind k.ports p with
  | some x => { k with ports := mset k.ports p { x with tiles := x.tiles ++ [t], cons := x.cons + 1 } }
  | none => k

/-- Passes of a VC syllable, element count and element bits of its result. -/
def Flight.passes (f : Flight) : Nat := f.i.passes f.vsh
def Flight.resLen (f : Flight) (o : VOp) : Nat × Nat :=
  match f.i with
  | .vcmp .. => (vshN f.vsh, 1)
  | _ => let sh := resShape f.i o f.vsh; (f.i.dstN (vshN sh), (vshFmt sh).bits)

/-- The result of a syllable whose first passes were done before a stop: they stand in the partial result, and, once all
are done, the flags stand in DATA (R195, R333). -/
def Flight.result (f : Flight) (o : VOp) : VRes :=
  match f.prog, f.td with
  | 0, _ | _, none => evalVC f.i o f
  | p, some t =>
    let (n, b) := f.resLen o
    if f.passes ≤ p then ⟨t.toNat % 2 ^ (n * b), t.toNat % 2 ^ n, 0, f.data⟩
    else
      let r := evalVC f.i o f
      let lo (x : Nat) : Nat := setBits x 0 (n * p / Nat.max 1 f.passes * b) t.toNat
      { r with tile := lo r.tile, pred := lo r.pred }

/-- A VC syllable's results land (R185, R259, R329, R348). -/
def Core.landVC (k : Core) (f : Flight) (o : VOp) : Core :=
  let r := f.result o
  let t : Tile := BitVec.ofNat 16384 r.tile
  let k := k.orFpst r.flags
  match f.i with
  | .vcmp .. => k.wp f.dest (BitVec.ofNat 2048 r.pred)
  | _ =>
    let k := match o.d with
      | .v _ => k.wv f.dest t
      | .s _ => k.pushTile (f.dest - 64) t
      | .none => k
    let k := match f.i with | .vqmx .. => k.wv f.ea.toNat (BitVec.ofNat 16384 r.scal) | _ => k
    let a : Age := ⟨t, resShape f.i o f.vsh, k.scyc.toNat, 16, f.issue, f.i.dstN 1 == 2⟩
    if f.slot = 3 then { k with vb := insAge k.inter a k.vb } else { k with va := insAge k.inter a k.va }

/-- A load's data as the register receives it (R308). -/
def loadExt (n : Nat) (sx : Bool) (d : Nat) : Word :=
  if sx then wordOf (sextN (8 * n) d) else BitVec.ofNat 64 (d % 2 ^ (8 * n))

/-- A BIND takes effect (R316). -/
def Core.landBind (k : Core) (f : Flight) (wr : Bool) (os : OS) : Core :=
  { k with ports := mset k.ports f.dest {
      id := f.id, wr := wr, os := os, blk := f.ea, bspace := f.space, pol := (nthW f.ops 3).setWidth 32, ctx := f.src, pat := none,
      tiles := [], part := [], moved := 0, cons := 0, fresh := 0, endReq := false, wait := false } }

/-- An UNBIND takes effect (R317). -/
def Core.landUnbind (k : Core) (p : Nat) : Core :=
  match mfind k.ports p with
  | some x =>
    if x.wr ∧ (!x.tiles.isEmpty ∨ !x.part.isEmpty) then { k with ports := mset k.ports p { x with endReq := true } }
    else { k with ports := mdel k.ports p }
  | none => k

/-- One operation lands: its destination is written and its token cleared (R109, R110). FSET and FINC are applied
together by `flagCycle`. -/
def Core.land (k : Core) (f : Flight) : Core :=
  let k := k.dropFlight f
  match f.i with
  | .fset .. | .finc .. => k
  | .genbump => k.genbump
  | .wrs n _ => { k with sys := k.sys.write n.toNat (nthW f.ops 0) }
  | .vsetsh _ => { k with sys := { k.sys with vsh := (nthW f.ops 0).setWidth 32 } }
  | .pand .. | .por .. | .pxor .. | .pnot .. => k.wp f.dest (predOf f)
  | .ldv .. => k.wv f.dest ((f.td.getD 0) &&& BitVec.ofNat 16384 (2 ^ (vshN f.vsh * (vshFmt f.vsh).bits) - 1))
  | .ldp .. => k.wp f.dest ((f.td.getD 0).setWidth 2048)
  | .ldq .. => k.fillQ f.id (BitVec.ofNat 64 f.data)
  | .bind wr _ m => k.landBind f wr m.os
  | .unbind _ => k.landUnbind f.dest
  | _ => match f.i.vop, f.i.load with
    | some o, _ => k.landVC f o
    | _, some (xd, n, sx) => k.putX f.src [(xd, loadExt n sx f.data)]
    | _, _ => k.putX f.src (evalSC f.i f.src f.pc f.ops f.data)

/-- A request that has left the core and whose return a stop waits for (R191 step 2). -/
def Flight.outside (f : Flight) : Bool := f.phase.away && f.phase != .unsent && !isFence f.i && !f.i.isSpecial

/-- Whether an operation lands in this SCYC. -/
def Flight.due (f : Flight) : Bool :=
  f.live && f.remain == 0 && (f.phase == .fixed || f.phase == .captured || (f.phase == .sent && f.i.isSpecial))

/-- FSETs and local FINCs that land now: context, flag, value and release scope. -/
def flagSets (l : List Flight) (x : Nat) : List (Nat × Nat × BitVec 32 × Nat) :=
  (l.filter (fun f => f.src == x && (match f.i with | .fset .. => true | _ => false))).map
    (fun f => (x, f.dest, (nthW f.ops 0).setWidth 32, f.data))
def flagIncs (c : Nat) (l : List Flight) : List FlagInc :=
  (l.filter (fun f => match f.i with | .finc .. => true | _ => false)).map
    (fun f => ⟨fincKey c f.src, f.dest, (nthW f.ops 0).setWidth 32, f.data⟩)

/-- A special function's result waits for an SCYC in which no other result of its slot lands (R259). -/
def clashes (due : List Flight) (f : Flight) : Bool :=
  f.i.isSpecial && due.any (fun g => g.slot == f.slot && g.i.tileResult && g.id != f.id && (!g.i.isSpecial || g.id < f.id))

/-- Every result due in this SCYC lands: a W1C of FPST first (R185), then results in issue order, the later one kept
(R109), then the flags (R107). -/
def Core.landAll (k : Core) (c : Nat) : Core :=
  let due := k.flights.filter Flight.due
  let due := due.filter (fun f => !clashes due f)
  let isW (f : Flight) : Bool := match f.i with | .wrs n _ => n == 1#12 | _ => false
  let k := (due.filter isW).foldl Core.land k
  let k := (due.filter (fun f => !isW f)).foldl (fun k f =>
    match k.flight f.id with | some g => k.land g | none => k) k
  let incs := (k.incs ++ flagIncs c due).foldl (fun l i => incInsert i l) []
  { k.flagCycle c ((List.range 3).map (flagSets due)).flatten incs with incs := [] }

/-- A context's countdowns. -/
def Ctx.tickDown (t : Ctx) : Ctx :=
  { t with delay := t.delay - 1, mcBusy := t.mcBusy - 1, waitFrom := if t.wait.isSome then t.waitFrom + 1 else t.waitFrom }

/-- Fresh entries of queues and tiles of ports may be taken from this SCYC on. -/
def Core.settle (k : Core) : Core :=
  { k with
    queues := k.queues.map (fun e => (e.1, { e.2 with fresh := 0 })),
    ports := k.ports.map (fun e => (e.1, { e.2 with fresh := 0 })) }

/-- SCYC advances (not in handler mode, R196) and every countdown of the exposed pipelines with it. -/
def Core.advance (k : Core) : Core :=
  let k := k.settle
  let age (a : Age) : Age := { a with hold := a.hold - 1 }
  { k with
    scyc := if k.hmode then k.scyc else k.scyc + 1,
    cl := if k.hmode then k.cl else k.cl.tickDown,   -- a handler runs beside frozen L and S (R191)
    ck := k.ck.tickDown, cs := if k.hmode then k.cs else k.cs.tickDown,
    va := k.va.map age, vb := k.vb.map age, vaBusy := k.vaBusy - 1, vbBusy := k.vbBusy - 1,
    flights := k.flights.map (fun f => if f.live && !f.outside then { f with remain := f.remain - 1 } else f),
    banks := [], refr := false }

end Sys2Proof.Machine
end

