-- ==== Sys2Proof/Machine/Unit.lean ====
section
/-! DEFINITION. Accesses by the units of a core other than its syllables: copy engines, transfer units, the M stream, the
tile fetch unit and the flue (07 R121, R122, R125, R143; 03 R41; 10 R187, R206; 18 R381). -/

namespace Sys2Proof.Machine

/-- Which unit accesses, for whom. Stream: 0-2 a transfer unit's binding context, 3 and 4 an engine, 5 M, 6 the flue. -/
structure Who where
  core   : Nat
  stream : Nat
  bank   : Nat                     -- its number in the order in which banks are taken (R402)
  wk     : Nat                     -- its waiter number in a fault entry (R206)
  slot   : Nat := 0
  pol    : BitVec 32 := 0          -- its policy operand (R136)
  id     : Option Nat := none      -- the number of the operation whose accesses they are, else they come now
  port   : Option Nat := none      -- a transfer unit's port
deriving DecidableEq, Repr

/-- The kiln and what it feeds: misses hold the core (R125). -/
def Who.kiln (w : Who) : Bool := 5 ≤ w.stream

def whoEng (c e : Nat) : Who := { core := c, stream := 3 + e, bank := 3 + e, wk := 1 + e }
def whoM (c : Nat) : Who := { core := c, stream := 5, bank := 5, wk := 3 }
def whoFlue (c slot : Nat) : Who := { core := c, stream := 6, bank := 11, wk := 3, slot := slot }
def whoPort (c p : Nat) (x : Port) : Who :=
  { core := c, stream := x.ctx, bank := 6 + p, wk := 4 + p, pol := x.pol, id := some x.id, port := some p }
def whoLd (c : Nat) (f : Flight) : Who := { core := c, stream := f.src, bank := 12 + f.src, wk := 8 + f.src, slot := f.slot, id := some f.id }

/-- REQ of Table 2-8. -/
def Who.req (w : Who) : Nat × Nat :=
  if w.stream = 3 ∨ w.stream = 4 then (2, 2 * w.core + (w.stream - 3))
  else if w.kiln then (3, kilnOf w.core) else (1, w.core)

/-- Stream number of the unit's writes in the write path (R148). -/
def Who.wstream (w : Who) : Nat := Nat.min w.stream 5

/-- Why an access does not go through now. -/
inductive UErr
  | stop (cause : Nat) (addr : Word)
  | page (bad : Bool) (va : Nat)   -- a missing or malformed page
  | miss (va : Nat)                -- the kiln's TLB miss, which holds the core
  | busy                           -- a bank is taken, a granule moves or an own atomic is on its way
deriving DecidableEq, Repr

/-- Translate one page for a unit. -/
def State.uTr (s : State) (w : Who) (va : Nat) (n : Need) : State × Except UErr Nat :=
  if 2 ^ 56 ≤ va then (s, .error (.stop 6 (BitVec.ofNat 64 va)))
  else
    let (s, t) := if w.kiln && (s.core w.core).runs then (s, s.trL1 w.core va n) else s.trFull w.core va n (reqCode w.req.1 w.req.2)
    (s, match t with
      | .ok pa => .ok pa
      | .miss => .error (.miss va)
      | .page b => .error (.page b va)
      | .access => .error (.stop 6 (BitVec.ofNat 64 va)))

/-- Take the scratchpad banks of an access, or none of them if an earlier unit has one in this cycle (R143, R402): what one unit reads
or writes in a cycle is one access. Under number 16 stand the accesses that are each their own. -/
def Core.takeBanks (k : Core) (u off n : Nat) : Option Core :=
  let bs := banksOf off n
  if k.banks.any (fun b => (b.1 != u || u == 16) && bs.contains b.2) then none
  else some { k with banks := k.banks ++ bs.map (fun b => (u, b)) }

/-- The shadow WIDX that a notify register reads as (R31). -/
def State.notifyVal (s : State) (q : Nat) : Nat := leNat (s.rawRd (s.qdAddr q + 0x10) 4)

/-- The read port of a transfer unit. -/
def State.portOf (s : State) (w : Who) : Option Port := w.port.bind (mfind (s.core w.core).ports)

/-- Bytes at a physical address as a unit reads them (R160); MMIO reaches only notify registers. -/
def State.readAt (s : State) (w : Who) (pa n : Nat) : List Byte :=
  match notifyReg pa with
  | some q => leBytes n (s.notifyVal q)
  | none =>
    let bs := s.homeRd w.core (w.id.getD (s.core w.core).nextId) pa n
    match s.portOf w with
    | some p => p.seen (2 ^ 62 + pa) bs
    | none => bs

/-- Checks at the home of a read, and its fill of L2 (R41, R57, R135, R217). -/
def State.serve (s : State) (w : Who) (va pa n : Nat) : State × Bool :=
  let world := (s.core w.core).world.toNat
  match paKind s.hub.accid pa with
  | .hbm =>
    let (s, ok) := s.homeCheck w.req.1 w.req.2 world pa n false
    if ok then (s.l2Touch w.core w.pol world va pa n, true) else (s, false)
  | _ => (s, true)

/-- A watchpoint that an access by a unit meets (R212). -/
def State.uWatch (s : State) (w : Who) (rd : Bool) (va n : Nat) : State :=
  match (s.core w.core).watch rd (!rd) va n with
  | some i => raiseOn s w.core 2 w.stream w.slot i (BitVec.ofNat 64 va)
  | none => s

/-- The parts of a global access by a unit, virtual and physical: every page translates, and the core may reach it. -/
def State.uParts (s : State) (w : Who) (va n : Nat) (need : Need) : State × Except UErr (List (Nat × Nat × Nat)) :=
  (pageParts va n).foldl (fun (a : State × Except UErr (List (Nat × Nat × Nat))) p =>
    match a with
    | (s, .error e) => (s, .error e)
    | (s, .ok l) =>
      match s.uTr w p.1 need with
      | (s, .error e) => (s, .error e)
      | (s, .ok pa) =>
        let world := (s.core w.core).world.toNat
        if s.paOk world pa p.2 false then (s, .ok (l ++ [(p.1, pa, p.2)]))
        else (s.mmioLog (reqCode w.req.1 w.req.2) world pa, .error (.stop 6 (BitVec.ofNat 64 p.1)))) (s, .ok [])

/-- A unit's read of host memory or of a peer module takes a free time, in which the unit tries again (R14, R16); none once the data is
back. -/
def State.farWait (s : State) (w : Who) (l : List (Nat × Nat × Nat)) : Option State :=
  match l.find? (fun p => p.2.1 / 2 ^ 54 == 1 || p.2.1 / 2 ^ 54 == 2) with
  | none => none
  | some p => match mfind (s.core w.core).far w.wk with
    | none =>
      let (s, n) := s.wait
      some (s.modCore w.core (fun k => { k with far := mset k.far w.wk ⟨s.hub.podTime.toNat, n, p.2.1, p.1⟩ }))
    | some x => if x.left = 0 ∧ l.all (fun p => s.routed p.2.1) then none else some s
/-- The unit has what it asked for. -/
def State.farDone (s : State) (w : Who) : State :=
  if (s.core w.core).far.isEmpty then s else s.modCore w.core (fun k => { k with far := mdel k.far w.wk })

/-- Read global memory. -/
def State.uRdG (s : State) (w : Who) (va n : Nat) : State × Except UErr (List Byte) :=
  match s.uParts w va n { r := true } with
  | (s, .error e) => (s, .error e)
  | (s, .ok l) =>
    let k := s.core w.core
    let die := dieOf w.core
    let world := k.world.toNat
    if l.any (fun p => k.atomPending k.nextId p.2.1 p.2.2 || s.readWaits die p.2.1 p.2.2) then (s, .error .busy)
    else match s.farWait w l with
    | some s => (s, .error .busy)
    | none =>
      let (s, r) := l.foldl (fun (a : State × Except UErr (List Byte)) p =>
        match a with
        | (s, .error e) => (s, .error e)
        | (s, .ok bs) =>
          match s.serve w p.1 p.2.1 p.2.2 with
          | (s, true) => (s, .ok (bs ++ s.readAt w p.2.1 p.2.2))
          | (s, false) => (s, .error (.stop 6 (BitVec.ofNat 64 p.1)))) (s, .ok [])
      match r with
      | .ok bs =>
        let s := if world = 0 then s else { s with rtag := s.rtag ++ [(s.genOf die world (l.map (·.2)), va)] }
        let s := if w.stream ≤ 2 ∧ !k.l1.isEmpty then   -- the stream's own loads see nothing older (R155)
            l.foldl (fun s p => s.modCore w.core (fun q => q.l1Upd p.2.1 (s.homeRd w.core k.nextId p.2.1 p.2.2))) s else s
        (s.uWatch w true va n, .ok bs)
      | .error e => (s, .error e)

/-- Bytes of a neighbour's scratchpad with the core's own writes on their way there, of operations up to `id` (R152). -/
def Core.nbOver (k : Core) (id d off : Nat) (bs : List Byte) : List Byte :=
  k.wq.foldl (fun bs q => if q.kind = 1 ∧ q.core = d ∧ q.atom = none ∧ q.dead = none ∧ q.id ≤ id then overlay off bs q.addr q.data else bs) bs
/-- An atomic of the core on such bytes is still on its way. -/
def Core.nbAtom (k : Core) (d off n : Nat) : Bool :=
  k.wq.any (fun q => q.kind == 1 && q.core == d && q.atom.isSome && q.dead.isNone && q.addr < off + n && off < q.addr + 8)

/-- Read scratchpad of a core: the own one, or a neighbour's as the own stream's writes will have left it (R121, R161). What the
neighbour has written before comes first everywhere (R154, R156). -/
def State.uRdS (s : State) (w : Who) (d off n : Nat) : State × Except UErr (List Byte) :=
  let t := s.core d
  let own := d == w.core
  if !own && !t.runsIn (s.core w.core).world then (s, .error (.stop 6 (BitVec.ofNat 64 off)))
  else if 0x400000 ≤ off then (s, .error (.stop 6 (BitVec.ofNat 64 off)))
  else match t.spCheck off n with
    | .ok =>
      if !own && (!t.observed t.nextId || !t.bound t.nextId || (s.core w.core).nbAtom d off n) then (s, .error .busy)
      else match t.takeBanks (if own then w.bank else 32 + 16 * w.core + w.bank) off n with
      | some t' =>
        let bs := t.spRd off n
        let bs := if own then (match s.portOf w with | some p => p.seen off bs | none => bs)
          else (s.core w.core).nbOver (w.id.getD (s.core w.core).nextId) d off bs
        (s.setCore d t', .ok bs)
      | none => (s, .error .busy)
    | .moving => (s, .error .busy)
    | _ => (s, .error (.stop 6 (BitVec.ofNat 64 off)))

/-- The scratchpad an engine address names (Table 7-1): an nb address with the own index acts as sp. -/
def spPlace (c : Nat) (space : SpaceK) (a : Word) : Option (Nat × Nat) :=
  match space with
  | .g => none
  | .sp => some (c, a.toNat)
  | .nb => some (nbTarget c a)

/-- The replay that a unit's words belong to (R221). -/
def State.replayOf (s : State) (w : Who) : Option Replay :=
  match s.hub.replay with
  | some r => if w.core = r.core ∧ (if r.kiln then 5 ≤ w.stream else w.stream = 3 + r.eng) then some r else none
  | none => none

/-- The window that holds an address, in whatever space the word names it (log 31), and where its byte lies. -/
def Replay.winAt (r : Replay) (a : Nat) : Option (Win × Nat) :=
  (r.wins.find? (fun x => x.va ≤ a && a < x.va + x.len)).map (fun x => (x, x.buf + (a - x.va)))

/-- A replay reads and writes its windows' buffers; an address outside every window ends it. -/
def State.winRd (s : State) (r : Replay) (a : Word) (n : Nat) : State × Except UErr (List Byte) :=
  let l := (List.range n).map (fun j => r.winAt (a.toNat + j))
  if l.all (·.isSome) then (s, .ok ((l.filterMap id).flatMap (fun p => s.rawRd (s.normPa p.2) 1))) else (s, .error (.stop 6 a))
def State.winWr (s : State) (r : Replay) (a : Word) (bs : List Byte) : State × Except UErr Unit :=
  let l := bs.zipIdx.map (fun e => (e.1, r.winAt (a.toNat + e.2)))
  if l.all (fun e => e.2.isSome) then
    (l.foldl (fun s e => match e.2 with
      | some p =>
        let pa := s.normPa p.2
        let s := s.modHub (fun h => { h with
          replay := h.replay.map (fun r => { r with undo := (pa, (s.rawRd pa 1).getD 0 0) :: r.undo }) })
        s.rawWr pa [e.1]
      | none => s) s, .ok ())
  else (s, .error (.stop 6 a))

/-- A unit reads `n` bytes. -/
def State.uRd (s : State) (w : Who) (space : SpaceK) (a : Word) (n : Nat) : State × Except UErr (List Byte) :=
  if n = 0 then (s, .ok [])
  else match s.replayOf w with
  | some r => s.winRd r a n
  | none => match spPlace w.core space a with
    | none => s.uRdG w a.toNat n
    | some (d, off) =>
      if space = .nb ∧ 2 ^ 24 ≤ a.toNat then (s, .error (.stop 6 a))
      else match s.uRdS w d off n with
        | (s, .error (.stop c _)) => (s, .error (.stop c a))
        | r => r

/-- A write of a unit takes its place in its stream's order (R158). -/
def State.uAccept (s : State) (w : Who) (kind core addr va : Nat) (data : List Byte) (os : OS) (pol : BitVec 32) : State :=
  let k := s.core w.core
  (s.accept w.core {
    id := w.id.getD k.nextId, stream := w.wstream, kind := kind, core := core, addr := addr, va := va, data := data,
    atom := none, cmp := 0, flight := 0, world := k.world, gen := (s.world k.world.toNat).cur, os := os, pol := pol, left := 0, flue := w.stream == 6 }).modCore
    w.core (fun k => { k with nextId := k.nextId + 1 })

/-- Write global memory: every page translates before any part is accepted. -/
def State.uWrG (s : State) (w : Who) (va : Nat) (data : List Byte) (os : OS) (pol : BitVec 32) : State × Except UErr Unit :=
  let n := data.length
  match s.uParts w va n { w := true } with
  | (s, .ok l) =>
    let s := (l.foldl (fun (a : State × List Byte) p =>
      (a.1.uAccept w 0 w.core p.2.1 p.1 (a.2.take p.2.2) os pol, a.2.drop p.2.2)) (s, data)).1
    (s.uWatch w false va n, .ok ())
  | (s, .error e) => (s, .error e)

/-- A unit writes bytes. A scratchpad write of the own core is applied at once (R161). -/
def State.uWr (s : State) (w : Who) (space : SpaceK) (a : Word) (data : List Byte) (os : OS) (pol : BitVec 32) :
    State × Except UErr Unit :=
  let n := data.length
  if n = 0 then (s, .ok ())
  else match s.replayOf w with
  | some r => s.winWr r a data
  | none => match spPlace w.core space a with
    | none => s.uWrG w a.toNat data os pol
    | some (d, off) =>
      let t := s.core d
      let own := d == w.core
      let stop : State × Except UErr Unit := (s, .error (.stop 6 a))
      if space = .nb ∧ 2 ^ 24 ≤ a.toNat then stop
      else if !own && !t.runsIn (s.core w.core).world then stop
      else if 0x400000 ≤ off then stop
      else match t.spCheck off n with
        | .ok =>
          if own then
            match t.takeBanks w.bank off n with
            | some t => (s.setCore d ((match w.id with
              | some id => t.shadow w.stream id off (t.spRd off n)
              | none => t).spWr off data), .ok ())
            | none => (s, .error .busy)
          else (s.uAccept w 1 d off a.toNat data os pol, .ok ())
        | .moving => (s, .error .busy)
        | _ => stop

/-- What an access that did not go through does: a stop, a fault entry and a wait (the event FAULT_ENQUEUE follows), a
translation hold, or nothing until the next cycle. A kiln's missing page is found at the end of its hold. -/
def State.uFail (s : State) (w : Who) (e : UErr) (wr : Bool) : State :=
  match e with
  | .stop cause addr => raiseOn s w.core cause w.stream w.slot 0 addr
  | .page bad va =>
    if w.kiln then raiseOn s w.core 7 w.stream w.slot 0 (BitVec.ofNat 64 va)
    else
      let s := s.modCore w.core (fun k =>
        if w.wk < 3 then k.modEng (w.wk - 1) (fun e => { e with page := true })
        else match mfind k.ports (w.wk - 4) with
          | some p => { k with ports := mset k.ports (w.wk - 4) { p with wait := true } }
          | none => k)
      s.soon [.attempt .faultEnqueue {
        core := BitVec.ofNat 9 w.core, idx := w.wk, addr := BitVec.ofNat 64 va, val := (if wr then 1 else 0) + (if bad then 4 else 0) + 16 }]
  | .miss va => s.modCore w.core (fun k => { k with miss := k.miss ++
      [((if w.stream = 6 then 5 else 3) + (if wr then 1 else 0), va)] })
  | .busy => s

/-- Every write of a stream meets the condition of a release at a scope (Table 8-5), link words included. -/
def State.engReleased (s : State) (w : Who) (scope : ScopeK) : Bool :=
  let k := s.core w.core
  if (s.replayOf w).isSome then true
  else match scope with
  | .ctx | .core | .clu | .mod => true
  | .die => k.wq.all (fun q => q.stream != w.wstream) && s.hub.units.all (fun u => !(u.src == w.core && 3 + u.eng == w.stream))
  | .pod | .sys =>
    k.wq.all (fun q => q.stream != w.wstream || (q.kind == 0 && q.addr / 2 ^ 54 == 0))
      && s.hub.units.all (fun u => !(u.src == w.core && 3 + u.eng == w.stream))

end Sys2Proof.Machine
end

