-- ==== Sys2Proof/Machine/Words.lean ====
section
/-! DEFINITION. What copy and kiln words share (13 R261; 17 R352, R353, R364, R365, R368; 18 R380, R381, R389, R390): the
word in progress, counted repeats, register setting, signals, waits and loops. A word that takes several cycles acts in
the last of them. -/

namespace Sys2Proof.Machine

/-- The engine that issues: 0 C0, 1 C1, 2 M. -/
def State.ei (s : State) : Nat := s.cur.src - 3
def State.en (s : State) : Eng := s.me.eng s.ei
def State.modEn (s : State) (f : Eng → Eng) : State := s.modMe (fun k => k.modEng s.ei f)
def State.who (s : State) : Who := if s.cur.src = 5 then whoM s.cur.core else whoEng s.cur.core s.ei

/-- The word belongs to a replay: its ord, scope, signals and waits are ignored (R221). -/
def State.replays (s : State) : Bool := (s.replayOf s.who).isSome

/-- A word as it starts. -/
def freshWord (i : Instr) : EWord := ⟨i, 0, 0, none, [], 0, false, 0, false, 0, []⟩
/-- The word in progress. -/
def State.ew (s : State) (i : Instr) : EWord :=
  match s.en.cur with
  | some w => if w.i = i then w else freshWord i
  | none => freshWord i
def State.setEw (s : State) (w : EWord) : State := s.modEn (fun e => { e with cur := some w })

/-- The word ends and the next one is at `pc`. -/
def wordTo (s : State) (pc : Word) : State :=
  s.modEn (fun e => { e with cur := none, pc := pc, rel := none, waitFrom := 0, slotOk := false, acqs := e.acqs + 1 })
def wordEnd (s : State) : State := wordTo s (s.en.pc + 8)

/-- A word stops the owning core (R261). One that stops on what it is, and has done nothing yet, leaves no record and is fetched
again; one that stops at an access is in progress (R194). -/
def wordStop (s : State) (cause stream detail : Nat) (addr : Word) : State :=
  let s := s.modMe (fun k => { k with raises := k.raises ++ [⟨cause, stream, 0, detail, addr, 0xFFFF, false⟩] })
  s.modEn (fun e => match e.cur with
    | some w => if w.reps = 0 ∧ w.piece = 0 ∧ w.buf.isNone ∧ !w.begun ∧ w.chk = 0 ∧ !([6, 7, 12].contains cause) then { e with cur := none } else e
    | none => e)
def wordIllegal (s : State) : State := wordStop s 4 s.cur.src 0 0

/-- An access of a word did not go through: a stop at the access, or the word tries again. -/
def wordFail (s : State) (e : UErr) (wr : Bool) : State :=
  match e with
  | .stop cause addr => wordStop s cause s.cur.src 0 addr
  | e => s.uFail s.who e wr

/-- A word of the M stream or of a copy engine: it must have an issuer. -/
def issueM (i : Instr) (s : State) (f : State → State) : Res :=
  if s.cur.src = 5 then (if i.wf then .next (f s) else .next (wordIllegal s)) else .fault .noIssuer
def issueC (i : Instr) (s : State) (f : State → State) : Res :=
  if s.cur.src = 3 ∨ s.cur.src = 4 then (if i.wf then .next (f s) else .next (wordIllegal s)) else .fault .noIssuer

/-- Act after `n` cycles. -/
def paced (s : State) (i : Instr) (n : Nat) (f : State → State) : State :=
  let w := s.ew i
  if w.begun ∨ n ≤ 1 then f s else s.setEw { w with begun := true, left := n - 1 }

/-- A word performed once or skipped (R352). -/
def onceWord (s : State) (n : BitVec 16) (f : State → State) : State := if n = 0 then wordEnd s else f s

/-- One repeat of a counted word is done. -/
def repDone (s : State) (i : Instr) (n : BitVec 16) : State :=
  let w := s.ew i
  if n.toNat ≤ w.reps + 1 then wordEnd s else s.setEw { w with reps := w.reps + 1, begun := false, left := 0 }

/-- NOP words (R368, R390). -/
def wNop (i : Instr) (n : BitVec 16) (s : State) : State := paced s i n.toNat wordEnd

/-- Set a register to the sign-extended step, n times (R353). -/
def wSetl (i : Instr) (w : EW) (s : State) : State :=
  if w.n = 0 then wordEnd s else repDone (s.modEn (fun e => e.wr w.r.toNat (w.v.signExtend 64))) i w.n

/-- Shift 16 bits in, or read 8 bytes of the own scratchpad (R353). -/
def wSeth (i : Instr) (w : EW) (s : State) : State :=
  if w.n = 0 then wordEnd s
  else
    let x := s.en.rr w.r.toNat
    if w.v.toNat < 2 ^ 16 then
      repDone (s.modEn (fun e => e.wr w.r.toNat ((x <<< 16) ||| w.v.setWidth 64))) i w.n
    else
      let off := bits x.toNat 0 22
      if off % 8 ≠ 0 then wordStop s 8 s.cur.src 0 (BitVec.ofNat 64 off)
      else paced s i 4 (fun s =>
        match s.uRd s.who .sp (BitVec.ofNat 64 off) 8 with
        | (s, .ok bs) => repDone (s.modEn (fun e => e.wr w.r.toNat (BitVec.ofNat 64 (leNat bs)))) i w.n
        | (s, .error e) => wordFail s e false)

/-- Loop words (R368). -/
def wLoop (w : EW) (s : State) : State :=
  onceWord s w.n (fun s =>
    let x := s.en.rr w.r.toNat
    if x = 0 then wordEnd s
    else
      let s := s.modEn (fun e => e.wr w.r.toNat (x - 1))
      if x = 1 then wordEnd s else wordTo s (s.en.pc + w.v.signExtend 64 * 8))

/-- Add to a flag of the own core in one write (R107, R364, R389). -/
def wSig (os : OS) (f : BitVec 6) (n : BitVec 16) (s : State) : State :=
  if n = 0 ∨ s.replays then wordEnd s
  else if isRel os ∧ !s.engReleased s.who os.scope then s
  else
    let i : FlagInc := ⟨s.ei, f.toNat, n.setWidth 32, if isRel os then os.scope.code + 1 else 0⟩
    wordEnd (s.modMe (fun k => { k with incs := incInsert i k.incs }))

/-- Data that a word holds was read under a key generation that is no more: it comes back poisoned (R51). The address it was read from. -/
def State.poisoned (s : State) (c : Nat) (tags : List (Nat × Nat)) : Option Nat :=
  (tags.find? (fun t => !(s.world (s.core c).world.toNat).genLive (t.1 - 1))).map (·.2)

/-- What a unit reads is tagged in State.rtag; those tags go with its data. -/
def State.untag (s : State) : State := { s with rtag := [] }

/-- What a unit has just read is back in the core in the next cycle, poisoned where its key generation is no more by then (R51). -/
def State.owe (s : State) (w : Who) : State :=
  if s.rtag.isEmpty then s
  else (s.modCore w.core (fun k => { k with
    back := k.back ++ s.rtag.map (fun t => (w.stream, w.slot, t.1, BitVec.ofNat 64 t.2)) })).untag
/-- It is back. -/
def State.unitsBack (s : State) (c : Nat) : State :=
  if (s.core c).back.isEmpty then s
  else ((s.core c).back.filter (fun b => !(s.world (s.core c).world.toNat).genLive (b.2.2.1 - 1))).foldl
    (fun s b => s.modCore c (fun k => { k with raises := k.raises ++ [⟨6, b.1, b.2.1, 0, b.2.2.2, 0xFFFF, true⟩] }))
    (s.modCore c (fun k => { k with back := [] }))

/-- The channel buffers of a core's engines hold no bytes (R397). -/
def Core.chansEmpty (k : Core) : Bool := (k.e0.chan ++ k.e1.chan).all (fun b => b.2.isEmpty)

/-- A word waits for a sweep (R131). -/
def sweepWord (s : State) : State := s.modEn (fun e => { e with swept := true })

/-- An acquire by an engine's stream at clu scope or wider carries a GENBUMP (R129); none while it must wait. -/
def State.engAcq (s : State) (wide : Bool) : Option State :=
  if wide && !s.replays then (if s.me.bumpWaits then none else some (s.modMe Core.genbump)) else some s

/-- Wait until a flag reaches the register's low half (R365, R389); the wait counts the SCYC cycles since the word started for
its log (R219). -/
def wWait (i : Instr) (os : OS) (r : BitVec 4) (f : BitVec 6) (s : State) : State :=
  let x := s.en.rr r.toNat
  let target : BitVec 32 := x.setWidth 32
  let fin (s : State) (code : Nat) : State :=
    let s := if (s.ew i).begun then s.logWait s.cur.core s.cur.src f.toNat target s.en.waitFrom code else s
    wordEnd (s.modEn (fun e => e.wr r.toNat (BitVec.ofNat 64 (target.toNat + code * 2 ^ 32))))
  if s.replays then fin s 0
  else match s.en.rel with
  | some c => fin s (c % 256)
  | none =>
    if reaches (s.me.flag f.toNat) target then
      match s.engAcq (isAcq os && (bumps os.scope || 3 ≤ mget 0 s.me.flagOs f.toNat)) with
      | some s => fin s 0
      | none => sweepWord s
    else (s.setEw { s.ew i with begun := true }).modEn (fun e => { e with
      waitFrom := (s.me.scyc.toNat + 1 + 2 ^ 48 - (s.ew i).issue) % 2 ^ 48 })

/-- Arrive at the rendezvous, then go on when it has completed (R102). -/
def wArrive (i : Instr) (s : State) (f : State → State) : State :=
  let w := s.ew i
  if s.replays then f s
  else if w.arrived ∧ s.en.rel.isSome then f (s.modEn (fun e => { e with rel := none }))
  else s.setEw { w with arrived := true }

end Sys2Proof.Machine
end

