-- ==== Sys2Proof/Machine/Kiln.lean ====
section
/-! DEFINITION. The kiln (17 R351-R370; 06 R115, R116; 09 R180, R181): its lease, its banks, the words of the M stream and the
tile fetch. -/

namespace Sys2Proof.Machine

/-- Kiln of the issuing core. -/
def State.kn (s : State) : Nat := kilnOf s.cur.core
def State.ki (s : State) : Kiln := s.kiln s.kn
def State.modKi (s : State) (f : Kiln → Kiln) : State := s.modKiln s.kn f

def Kiln.bank (k : Kiln) (b : Nat) : Bank := if b = 0 then k.b0 else k.b1
def Kiln.setBank (k : Kiln) (b : Nat) (x : Bank) : Kiln := if b = 0 then { k with b0 := x } else { k with b1 := x }
/-- Some bank is OPEN, some bank is DRAINING. -/
def Kiln.isOpen (k : Kiln) : Bool := k.b0.st == 1 || k.b1.st == 1
def Kiln.isDraining (k : Kiln) : Bool := k.b0.st == 2 || k.b1.st == 2
def Kiln.quiet (k : Kiln) : Bool := !k.isOpen && !k.isDraining

/-- Valid rows and columns of a captured shape. -/
def Bank.m (b : Bank) : Nat := bits b.shape.toNat 0 16
def Bank.n (b : Bank) : Nat := bits b.shape.toNat 16 16

/-- Release the L2 pins of a chunk; a line invalidated while pinned goes with its last pin (R138, R325). -/
def State.unpin (s : State) (lines : List Nat) : State :=
  lines.foldl (fun s n =>
    match mfind s.l2 n with
    | some x => if x.pins ≤ 1 ∧ !x.kill.isEmpty then s.l2Drop n else { s with l2 := mset s.l2 n { x with pins := x.pins - 1 } }
    | none => s) s
def State.dropChunks (s : State) (kn : Nat) : State :=
  let k := s.kiln kn
  let s := (k.tf ++ [k.tfNew]).foldl (fun s c => s.unpin c.lines) s
  s.modKiln kn (fun k => { k with tf := [], tfNew := {} })

/-- A core becomes a requester of its kiln, or ceases to be one (R115). -/
def State.leaseAsk (s : State) (c : Nat) : State :=
  (s.modCore c (fun k => { k with leaseReq := true })).modKiln (kilnOf c) (fun k =>
    { k with req := if mget 0 k.req (c % 4) = 0 then mset k.req (c % 4) 1 else k.req })
def State.leaseDrop (s : State) (c : Nat) : State :=
  (s.modCore c (fun k => { k with leaseReq := false })).modKiln (kilnOf c) (fun k => { k with req := mdel k.req (c % 4) })

/-- The lease ends (R116): a parked M stream keeps its state and its core becomes a requester again. -/
def State.leaseEnd (s : State) (kn : Nat) (park : Bool) : State :=
  match (s.kiln kn).holder with
  | none => s
  | some c =>
    let s := s.dropChunks kn
    let s := s.modKiln kn (fun k => { k with
      holder := none, last := c.toNat % 4, lastWorld := some (s.core c.toNat).world, ending := 0, drain := none,
      b0 := {}, b1 := {}, gwait := 0 })
    let s := s.modCore c.toNat (fun k => { k with lease := false })
    if park ∧ (s.core c.toNat).em.st.isRun ∧ (s.core c.toNat).job.isSome then
      (s.modCore c.toNat (fun k => { k with em := { k.em with st := .parked } })).leaseAsk c.toNat
    else s

/-- The lease ends when nothing is left to retire: at once or at the last retirement (R116). -/
def State.leaseEndWhen (s : State) (kn code : Nat) : State :=
  if (s.kiln kn).isDraining then s.modKiln kn (fun k => { k with ending := code }) else s.leaseEnd kn (code == 2)

/-- Discard the OPEN banks; each counts as a retirement (R358). -/
def State.discardOpen (s : State) (kn : Nat) : State :=
  let s := s.dropChunks kn
  s.modKiln kn (fun k =>
    let k := if k.b0.st = 1 then { k with b0 := {}, rets := k.rets + 1 } else k
    if k.b1.st = 1 then { k with b1 := {}, rets := k.rets + 1 } else k)

/-- A retirement is counted; the eighth of a lease parks the M stream (R116, R358). -/
def State.retire (s : State) (kn b : Nat) : State :=
  let s := s.modKiln kn (fun k => { k.setBank b {} with drain := none, rets := k.rets + 1 })
  let k := s.kiln kn
  if k.ending ≠ 0 ∧ !k.isDraining then s.leaseEnd kn (k.ending == 2)
  else if 8 ≤ k.rets then s.leaseEnd kn true
  else s

/-- Containment ends a lease at once, without retirement; the kiln clears before its next grant (R205). -/
def State.leaseKill (s : State) (c : Nat) : State :=
  let s := s.leaseDrop c
  if (s.core c).lease then
    let s := s.dropChunks (kilnOf c)
    s.modKiln (kilnOf c) (fun k => { k with b0 := {}, b1 := {}, drain := none, clearDue := true }) |>.leaseEnd (kilnOf c) false
  else s

/-- A job's priority is its queue's PRIO, as the last enable or remap has read it (R28, R66). -/
def State.jobPrio (s : State) (j : Job) : Nat :=
  match mfind s.hub.opbs j.opb with
  | some o => (mget {} s.hub.queues o.q).d.prio
  | none => j.prio

/-- The requester that a free kiln grants next (R115); an M stream parked for a pre-emption waits for the switch-in (R202). -/
def State.leaseNext (s : State) (kn : Nat) : Option Nat :=
  let k := s.kiln kn
  let held (c : Nat) : Bool := (s.core c).preempt.isSome && (s.core c).em.st == .parked
  let cores := ((List.range 4).map (fun j => (k.last + 1 + j) % 4)).filter (fun j => mget 0 k.req j != 0 && !held (4 * kn + j))
  match cores.find? (fun j => 4 ≤ mget 0 k.req j) with
  | some j => some (4 * kn + j)
  | none =>
    let prio (j : Nat) : Nat := match (s.core (4 * kn + j)).job with | some x => s.jobPrio x | none => 0
    let top := cores.foldl (fun p j => Nat.max p (prio j)) 0
    (cores.find? (fun j => prio j == top)).map (fun j => 4 * kn + j)

/-- Whether the kiln must clear before that grant (R53). -/
def State.clearNeeded (s : State) (kn c : Nat) : Bool :=
  (s.kiln kn).clearDue || (match (s.kiln kn).lastWorld with | some w => w != (s.core c).world | none => false)

/-- A kiln is cleared of its last holder's world in 1,536 cycles (R53, R367). -/
def State.kilnClear (s : State) (kn : Nat) : State :=
  let s := s.dropChunks kn
  let s := match (s.kiln kn).lastWorld with | some w => s.scrubAdd w.toNat 4 1 | none => s
  let s := s.modKiln kn (fun k => { k with
    b0 := {}, b1 := {}, slots := [], checked := [], reg := [], status := 0, drain := none, ptr := 0,
    clearDue := false, lastWorld := none, gwait := 1536 })
  let anew (k : Core) : Core := { k with job := k.job.map (fun x => { x with granted := false }) }   -- the next grant loads the slots again
  let s := s.modHub (fun h => { h with saved := h.saved.map (fun v => if kilnOf v.core = kn then { v with keep := anew v.keep } else v) })
  (List.range 4).foldl (fun s j => s.modCore (4 * kn + j) anew) s

/-- KILN_WORLD_CLEAR (R53, R367): before a lease passes to another world; `Inp.idx` names the kiln. -/
def execKilnWorldClear (s : State) : Res :=
  let kn := s.inp.idx
  if (s.kiln kn).holder.isNone ∧ (s.kiln kn).gwait = 0 then
    match s.leaseNext kn with
    | some c => if s.clearNeeded kn c then .next (s.kilnClear kn) else .fault .notEnabled
    | none => .fault .notEnabled
  else .fault .notEnabled

/-- The eight instructions of a slot. -/
def slotWords (bs : List Byte) : List (BitVec 32) :=
  (List.range 32).map (fun j => BitVec.ofNat 32 (leNat ((bs.drop (4 * j)).take 4)))
def Kiln.loadSlot (k : Kiln) (n : Nat) (bs : List Byte) : Kiln :=
  { k with slots := mset k.slots n (slotWords bs), checked := mdel k.checked n }

/-- Load the flue slots of a job (R246, R351): the image's programs that FSLOTS marks, then those of its FLUELDs. -/
def State.loadSlots (s : State) (c : Nat) : State :=
  match (s.core c).job with
  | none => s
  | some j =>
    let world := j.world.toNat
    let one (s : State) (n : Nat) (va : Nat) : State :=
      let id := kilnOf c
      match s.agentRd 3 world va 128 with
      | some bs => (s.agentSees 3 id world va 128).modKiln (kilnOf c) (fun k => k.loadSlot n bs)
      | none => raiseOn (s.agentSees 3 id world va 128) c 6 6 0 n (BitVec.ofNat 64 va)
    let s := (List.range 8).foldl (fun s n =>
      if j.fslots.getLsbD n then one s n (j.flue.toNat + 128 * n) else s) s
    j.fload.foldl (fun s e => one s e.1 e.2.toNat) s

/-- KILN_LEASE_GRANT (R115, R116, R297, R351); `Inp.idx` names the kiln. -/
def execKilnLeaseGrant (s : State) : Res :=
  let kn := s.inp.idx
  let k := s.kiln kn
  if k.holder.isNone then
    match s.leaseNext kn with
    | some c =>
      if s.clearNeeded kn c then .fault .notEnabled
      else
        let first := match (s.core c).job with | some j => !j.granted | none => true
        let (s, n) := s.wait
        let s := s.modKiln kn (fun k => { k with
          holder := some (BitVec.ofNat 9 c), req := (mdel k.req (c % 4)).map (fun e => (e.1, e.2 + 1)), ptr := 0,
          reg := (List.range 4).foldl (fun m j => mset m (8 + j) {}) k.reg, opens := 0, rets := 0, ending := 0,
          gwait := if first then k.gwait + n % 257 else k.gwait })
        let s := if first then s.loadSlots c else s
        .next (s.modCore c (fun k =>
          let k := { k with
            lease := true, leaseReq := false, job := k.job.map (fun x => { x with granted := true }),
            em := if k.em.st = .parked then { k.em with st := .running } else k.em }
          ((List.range 3).foldl (fun (a : Core × Nat) x =>
            if (a.1.ctx x).wait = some .lease then
              (a.1.modCtx x (fun t => { t with rel := some a.2 }), 1) else a) (k, 0)).1))
    | none => .fault .notEnabled
  else .fault .notEnabled

/-- KNOP, KSETL, KSETH, KLOOP (R353, R368). -/
def execKnop (n : BitVec 16) (s : State) : Res := issueM (.knop n) s (wNop (.knop n) n)
def execKsetl (w : EW) (s : State) : Res := issueM (.ksetl w) s (wSetl (.ksetl w) w)
def execKseth (w : EW) (s : State) : Res := issueM (.kseth w) s (wSeth (.kseth w) w)
def execKloop (w : EW) (s : State) : Res := issueM (.kloop w) s (wLoop w)

/-- KFMT (R354). -/
def execKfmt (f : BitVec 8) (n : BitVec 16) (s : State) : Res :=
  issueM (.kfmt f n) s (fun s => onceWord s n (fun s =>
    wordEnd (s.modEn (fun e => e.wr 15 (BitVec.ofNat 64 (setBits (e.rr 15).toNat 32 8 f.toNat))))))

/-- A shape M, N in range, and a stride word with both halves non-zero (R355, R357). -/
def shapeOk (shape stride : Word) : Bool :=
  let m := bits shape.toNat 0 16
  let n := bits shape.toNat 16 16
  1 ≤ m && m ≤ 384 && 1 ≤ n && n ≤ 1536 && bits stride.toNat 0 32 != 0 && bits stride.toNat 32 32 != 0

/-- KTILE (R355). -/
def execKtile (r : BitVec 4) (n : BitVec 16) (s : State) : Res :=
  issueM (.ktile r n) s (fun s => onceWord s n (fun s =>
    let a := s.en.rr r.toNat
    let b := s.en.rr (r.toNat + 1)
    if shapeOk a b ∧ bits a.toNat 32 32 = 0 then
      wordEnd (s.modEn (fun e => (e.wr 15 (BitVec.ofNat 64 (setBits (e.rr 15).toNat 0 32 a.toNat))).wr 14 b))
    else wordIllegal s))

/-- An opening's bank, with the shape and the product table captured (R172, R357). -/
def Kiln.opened (k : Kiln) (e : Eng) : Bank :=
  { acc := [], st := 1, kind := none, depth := 0, shape := (e.rr 15).setWidth 32, stride := e.rr 14,
    lda := if k.ovr then 1 else 0, ltab := (List.range 4).map (fun j => mget 0 k.ltab j) }

/-- What an opening meets first (R356-R358). -/
def opening (s : State) (f : State → State) : State :=
  let k := s.ki
  let b := k.bank k.ptr
  if b.st = 1 then wordIllegal s
  else if 8 ≤ k.opens then (if k.isOpen then wordIllegal s else s)
  else if b.st = 2 then s
  else if shapeOk (s.en.rr 15) (s.en.rr 14) ∧ bits (s.en.rr 15).toNat 40 24 = 0 then f s
  else wordIllegal s

/-- The bank opens. -/
def openBank (s : State) (b : Bank) : State :=
  s.modKi (fun k => { k.setBank k.ptr b with
    opens := k.opens + 1, status := k.status &&& ~~~(1#32 <<< (8 + k.ptr)) })

/-- KZERO (R357). -/
def execKzero (n : BitVec 16) (s : State) : Res :=
  issueM (.kzero n) s (fun s => onceWord s n (fun s => opening s (fun s =>
    paced s (.kzero n) 16 (fun s => wordEnd (openBank s (s.ki.opened s.en))))))

/-- Entries of one accumulator row, without those that are 0. -/
def accRow (i : Nat) (l : List Nat) : Map (BitVec 32) :=
  (l.zipIdx.map (fun e => (1536 * i + e.2, BitVec.ofNat 32 e.1))).filter (fun e => e.2 != 0)

/-- Numbers of `b` bytes each. -/
def chop (b : Nat) (bs : List Byte) (n : Nat) : List Nat := (List.range n).map (fun j => leNat ((bs.drop (b * j)).take b))

/-- Whether bytes that an M word reads overlap what the running drain, of an earlier KDRAIN, has still to store: the read comes after
that (R158, R376). -/
def Drain.stores (d : Drain) (m n va len : Nat) : Bool :=
  let meets (a : Word) (k : Nat) : Bool := va < a.toNat + k && a.toNat < va + len
  d.prog.any (fun w => match decodeOpt .flue w.toNat with
    | some (.fst _ kd j _ f) =>
      let b := ((fmtOf f.toNat).getD .fp32).bits
      (List.range (m - d.row)).any (fun q =>
        let i := BitVec.ofNat 64 (d.row + q)
        let side := nthW d.side j.toNat
        let nb := (n + 31) / 32
        if kd = 2 then meets (side + i * BitVec.ofNat 64 (b / 8)) (b / 8)
        else meets ((if kd = 0 then d.d else side) + i * d.stride) ((n * b + 7) / 8)
          || (kd == 0 && meets (side + i * BitVec.ofNat 64 nb) nb))
    | _ => false)
def State.drainAhead (s : State) (kn va len : Nat) : Bool :=
  match (s.kiln kn).drain with
  | some d => let b := (s.kiln kn).bank d.bank; d.stores b.m b.n va len
  | none => false

/-- KLDC (R357): one row per cycle; the bank opens when the last one is in place. -/
def execKldc (w : EWO) (s : State) : Res :=
  issueM (.kldc w) s (fun s => onceWord s w.n (fun s => opening s (fun s =>
    let base := s.en.rr w.r.toNat
    let stride := s.en.rr (w.r.toNat + 1)
    if base.toNat % 4 ≠ 0 ∨ stride.toNat % 4 ≠ 0 then wordStop s 8 5 0 base
    else
      let x := s.ew (.kldc w)
      match (if x.begun then some s else s.engAcq (isAcq w.os && bumps w.os.scope)) with
      | none => sweepWord s
      | some s => paced s (.kldc w) 16 (fun s =>
        let b := s.ki.opened s.en
        let i := x.piece
        let va := base + stride * BitVec.ofNat 64 i
        match (if s.drainAhead s.kn va.toNat (4 * b.n) then (s, .error .busy) else s.untag.uRd s.who .g va (4 * b.n)) with
        | (s, .ok bs) =>
          let s := (s.owe s.who).farDone s.who
          let row := accRow i (chop 4 bs b.n)
          let acc := (s.ki.bank s.ki.ptr).acc
          let acc := (if i = 0 then [] else acc) ++ row
          if b.m ≤ i + 1 then
            wordEnd (openBank s { b with acc := acc, kind := some (w.v.toNat == 1) })
          else
            (s.modKi (fun k => k.setBank k.ptr { (k.bank k.ptr) with acc := acc })).setEw { x with begun := true, piece := i + 1 }
        | (s, .error e) => wordFail s e false))))

/-- KSWAP (R356). -/
def execKswap (n : BitVec 16) (s : State) : Res :=
  issueM (.kswap n) s (fun s => onceWord s n (fun s => wordEnd (s.modKi (fun k => { k with ptr := 1 - k.ptr }))))

/-- Bits of an element of a kiln operand format code. -/
def kbits (code : Nat) : Nat := match fmtOf code with | some f => f.bits | none => 8
/-- Alignment unit of a format: a whole byte at least. -/
def kunit (code : Nat) : Nat := Nat.max 1 (kbits code / 8)
/-- Largest N and bank kind (true INT32) of a pair (Table 17-2). -/
def pairMax (a : Nat) : Nat := if a = 7 ∨ a = 8 then 384 else if a = 11 ∨ a = 12 then 1536 else 768
def pairInt (a : Nat) : Bool := a ≤ 1

/-- The copy of a line that serves a core. -/
def State.lineFor (s : State) (c pa : Nat) : Option L2Line :=
  if pa / 2 ^ 54 = 0 then mfind s.l2 (l2At (pa / 128) (dieOf c)) else none

/-- The tag and bytes per scale of the L2 line at a physical address (R140, R361). -/
def State.lineTag (s : State) (c pa : Nat) : Nat × Nat := match s.lineFor c pa with
  | some x => (x.tag, x.bps)
  | none => (15, 0)
/-- Its scale codes: the half of its pair's scale unit, decrypted as that unit was encrypted when it was loaded (R141). -/
def State.lineScales (s : State) (c world pa : Nat) : Nat :=
  match s.lineFor c pa with
  | none => 0
  | some x =>
    if world = 0 then x.side.toNat
    else
      let half (p : Nat) : List Byte := leBytes 8 (match s.lineFor c p with | some y => y.side.toNat | none => 0)
      let lo := pa / 256 * 256
      let plain := leNat (xtsUnit false ((s.world world).key x.sgen) (s.tweak x.unit) (half lo ++ half (lo + 128)))
      if pa / 128 % 2 = 1 then plain / 2 ^ 64 else plain % 2 ^ 64

/-- The scale code of the element at a physical address. -/
def State.scaleAt (s : State) (c world pa : Nat) : Nat :=
  let bps := (s.lineTag c pa).2
  if bps = 0 then 127 else bits (s.lineScales c world pa) (8 * (pa % 128 / (16 * bps))) 8

/-- The elements of a row: codes and scale codes, the tag and bytes per scale of each line touched, and the L2 lines to pin. -/
structure RowGet where
  codes : List Nat
  scales : List Nat
  tags  : List (Nat × Nat)
  lines : List Nat

/-- Tag and scale code at an address of a replay's window (R140, R220). -/
def Replay.tagAt (r : Replay) (a : Nat) : Nat × Nat := match r.winAt a with | some x => (x.1.tag, x.1.bps) | none => (15, 0)
def State.winScale (s : State) (r : Replay) (a : Nat) : Nat :=
  match r.winAt a with
  | none => 127
  | some x =>
    let off := a - x.1.va
    if x.1.bps = 0 then 127
    else leNat (s.rawRd (s.normPa (x.1.scale + 16 * (off / 256) + off / 128 % 2 * 8 + off % 128 / (16 * x.1.bps))) 1)

/-- The L2 copies that a row of `len` bytes pins: those of HBM lines that serve the core. -/
def State.rowLines (s : State) (c va len : Nat) : List Nat :=
  (List.range ((va % 128 + len + 127) / 128)).filterMap (fun j => match s.trL1 c (va / 128 * 128 + 128 * j) { r := true } with
    | .ok pa => if pa / 2 ^ 54 = 0 then some (l2At (pa / 128) (dieOf c)) else none
    | _ => none)

/-- The pinned lines of a line's set. -/
def State.pinsOf (s : State) (n : Nat) : List (Nat × L2Line) := s.l2.filter (fun e => e.2.pins != 0 && l2Same e.1 n)

/-- Whether they can be pinned beside what the kiln has pinned: 1 MiB in all, and 8 ways of a set (R138). A chunk does not wait for its own
pins alone, which it could not release (log 68). -/
def State.pinsFit (s : State) (kn : Nat) (lines : List Nat) : Bool :=
  let k := s.kiln kn
  let pinned := s.l2.filter (fun e => e.2.pins != 0)
  ((k.tf ++ [k.tfNew]).map (fun t => t.lines.length)).sum + lines.length ≤ 8192
    && (pinned.length + lines.length ≤ 8 || lines.all (fun n =>
      let set := (pinned.map (·.1) ++ lines).eraseDups.filter (fun m => l2Same m n)
      set.length ≤ 8 || (s.pinsOf n).all (fun e => e.2.pins == k.tfNew.lines.count e.1)))

/-- Pin the lines of a row, those beyond eight ways of a set left out: the state and the lines pinned. -/
def State.pinRow (s : State) (lines : List Nat) : State × List Nat :=
  lines.foldl (fun a n =>
    match mfind a.1.l2 n with
    | some x =>
      if x.pins != 0 || s.l2.length < 8 || (a.1.pinsOf n).length < 8 then
        ({ a.1 with l2 := mset a.1.l2 n { x with pins := x.pins + 1 } }, a.2 ++ [n])
      else a
    | none => a) (s, [])

/-- Fetch `n` elements of `bits` bits from a byte address: lines are filled into L2 first. -/
def State.rowFetch (s : State) (w : Who) (va n bitsN : Nat) : State × Except UErr RowGet :=
  let len := (n * bitsN + 7) / 8
  match s.uRd w .g (BitVec.ofNat 64 va) len with
  | (s, .error e) => (s, .error e)
  | (s, .ok bs) =>
    let world := (s.core w.core).world.toNat
    let v := leNat bs
    let nl := (va % 128 + len + 127) / 128
    let codes := (List.range n).map (fun k => bits v (k * bitsN) bitsN)
    match s.replayOf w with
    | some r =>
      (s, .ok ⟨codes, (List.range n).map (fun k => s.winScale r (va + k * bitsN / 8)),
        (List.range nl).map (fun j => r.tagAt (Nat.max va (va / 128 * 128 + 128 * j))), []⟩)
    | none =>
    let at' (b : Nat) : Nat := match s.trL1 w.core b { r := true } with | .ok pa => pa | _ => 0
    let lines := (List.range nl).map (fun j => at' (va / 128 * 128 + 128 * j))
    let scales := (List.range n).map (fun k =>
      let b := va + k * bitsN / 8
      let pa := (lines.getD (b / 128 - va / 128) 0) + b % 128
      s.scaleAt w.core world pa)
    (s, .ok ⟨codes, scales, lines.map (s.lineTag w.core), s.rowLines w.core va len⟩)

/-- The operand formats of a KMMA as resolved at its first chunk: word registers 2 and 3 hold them. -/
def EWord.fa (w : EWord) : Nat := (mget 0 w.regs 2).toNat
def EWord.fb (w : EWord) : Nat := (mget 0 w.regs 3).toNat

/-- First k-step and length of the chunk that comes next; K = 0 still fetches what a first chunk would hold (R362). -/
def chunkAt (kTotal chk : Nat) : Nat × Nat :=
  if kTotal = 0 then (0, 128) else (128 * chk, Nat.min 128 (kTotal - 128 * chk))

/-- FORMAT_MIX, with a detail of Table 17-4. -/
def formatMix (s : State) (d : Nat) : State := wordStop s 12 5 d 0

/-- The format tag that a line has, or will have once it is filled (R140). -/
def State.tagOf (s : State) (c pa : Nat) : Nat :=
  match s.lineFor c pa with
  | some x => x.tag
  | none => if pa / 2 ^ 54 ≠ 0 then 15 else match s.fmtRange (pa / 128 * 128) with
    | some r => bits r.ctl.toNat 4 4
    | none => 15

/-- Resolve an operand's format from its first line, which the chunk's first row fetches (R361): none when that access would not go
through. -/
def State.resolveFmt (s : State) (w : Who) (code va : Nat) : State × Except UErr Nat :=
  if code ≠ 15 then (s, .ok code)
  else match s.replayOf w, s.trL1 w.core va { r := true } with
    | some r, _ => if (r.winAt va).isSome then (s, .ok (r.tagAt va).1) else (s, .error (.stop 6 (BitVec.ofNat 64 va)))
    | none, .ok pa => (s, .ok (s.tagOf w.core pa))
    | none, _ => match s.uTr w va { r := true } with
      | (s, .error e) => (s, .error e)
      | (s, .ok pa) => (s, .ok (s.tagOf w.core pa))

/-- Fetch the rows of the next chunk that are not in place yet; each row's lines are checked as it comes (R361), and
their pins are taken (R360), for which it waits (R138). Fuel bounds the rows. `stored` says which operands take their lines' tags. -/
def State.chunkRows (s : State) (w : Who) (word : EWord) (b : Bank) (k0 len : Nat) (storedA storedB : Bool) :
    Nat → State × Except (UErr ⊕ Nat) Unit
  | 0 => (s, .ok ())
  | fuel + 1 =>
    let kn := kilnOf w.core
    let done := (s.kiln kn).tfNew.rows.length
    if b.m + b.n ≤ done then (s, .ok ())
    else
      let isA := done < b.m
      let i := if isA then done else done - b.m
      let f := if isA then word.fa else word.fb
      let base := (mget 0 word.regs (if isA then 0 else 1)).toNat
      let ld := bits b.stride.toNat (if isA then 0 else 32) 32
      let row := base + i * ld
      let va := (row + k0 * kbits f / 8) % 2 ^ 64
      let bytes := (len * kbits f + 7) / 8
      let wait := (s.replayOf w).isNone && (s.drainAhead kn va bytes || !s.pinsFit kn (s.rowLines w.core va bytes))
      match (if wait then (s, .error .busy) else s.untag.rowFetch w va len (kbits f)) with
      | (s, .error e) => (s.untag, .error (.inl e))
      | (s, .ok g) =>
        let s := (s.owe w).farDone w
        let stored := if isA then storedA else storedB
        if stored ∧ g.tags.any (fun p => p.1 != f) then (s, .error (.inr (if isA then 0 else 1)))
        else
          let scaled := !pairInt f && g.tags.any (fun p => p.2 != 0)
          let unit := 16 * Nat.max 1 ((g.tags.map (·.2)).foldl Nat.max 0)
          let kT := match word.i with | .kmma x => x.n.toNat | _ => 0
          if scaled ∧ (row % unit ≠ 0 ∨ kT % (unit * 8 / kbits f) ≠ 0) then (s, .error (.inr 6))
          else
            let (s, lines) := s.pinRow g.lines
            let s := s.modKiln kn (fun k => { k with tfNew := {
              rows := k.tfNew.rows ++ [g.codes.zip g.scales], lines := k.tfNew.lines ++ lines } })
            s.chunkRows w word b k0 len storedA storedB fuel

/-- One chunk of the KMMA in progress on a core: resolve the formats at the first one, fetch, check, and put it in
place. -/
def State.chunkArrive (s : State) (w : EW) : State :=
  let who := s.who
  let k := s.ki
  let b := k.bank k.ptr
  let x := s.ew (.kmma w)
  let k15 := (mget 0 x.regs 4).toNat
  let ca := bits k15 0 4
  let cb := bits k15 4 4
  let (k0, len) := chunkAt w.n.toNat x.chk
  let fmtOf (s : State) (code j : Nat) : State × Except UErr Nat :=
    match x.chk, mfind x.regs (2 + j) with
    | _ + 1, some f => (s, .ok f.toNat)
    | _, _ => s.resolveFmt who code (mget 0 x.regs j).toNat
  match fmtOf s ca 0 with
  | (s, .error e) => wordFail s e false
  | (s, .ok fa) =>
    match fmtOf s cb 1 with
    | (s, .error e) => wordFail s e false
    | (s, .ok fb) =>
      let a0 := (mget 0 x.regs 0).toNat
      let b0 := (mget 0 x.regs 1).toNat
      let lda := bits b.stride.toNat 0 32
      let ldb := bits b.stride.toNat 32 32
      let takes (f : Nat) : Bool := kfmtCode f && f != 15
      if !takes fa ∨ !takes fb then formatMix s (if (ca = 15 ∧ !takes fa) ∨ (cb = 15 ∧ !takes fb) then 3 else 2)
      else if a0 % kunit fa ≠ 0 ∨ lda % kunit fa ≠ 0 then wordStop s 8 5 0 (mget 0 x.regs 0)
      else if b0 % kunit fb ≠ 0 ∨ ldb % kunit fb ≠ 0 then wordStop s 8 5 0 (mget 0 x.regs 1)
      else if (fa = 11 ∨ fb = 11) ∧ w.n.toNat % 2 = 1 then wordIllegal s
      else
        let x := { x with regs := mset (mset x.regs 2 (BitVec.ofNat 64 fa)) 3 (BitVec.ofNat 64 fb) }
        let s := s.setEw x
        match s.chunkRows who x b k0 len (ca == 15) (cb == 15) 1921 with
        | (s, .error (.inl e)) => wordFail s e false
        | (s, .error (.inr d)) => formatMix (s.dropChunks s.kn) d
        | (s, .ok ()) =>
          if !kpairOk fa fb then formatMix (s.dropChunks s.kn) 2
          else if b.kind = some (!pairInt fa) then formatMix (s.dropChunks s.kn) 4
          else if pairMax fa < b.n then formatMix (s.dropChunks s.kn) 5
          else
            let s := s.modKi (fun k => { k with tf := k.tf ++ [k.tfNew], tfNew := {} })
            s.setEw { x with chk := x.chk + 1 }

/-- TILE_FETCH_CHUNK_ARRIVAL (R360, R361): the next chunk of the KMMA in progress, at most two ahead; `Inp.core` names the core. -/
def execTileFetchChunkArrival (s : State) : Res :=
  let c := s.inp.core.toNat
  let k := s.core c
  match k.em.cur with
  | some x =>
    match x.i with
    | .kmma w =>
      if k.em.st.isRun ∧ x.begun ∧ k.stop.isNone ∧ x.chk ≤ x.reps / 128 + 2 ∧ (128 * x.chk < w.n.toNat ∨ (w.n = 0 ∧ x.chk = 0)) then
        let cur := s.cur
        let s := ({ s with cur := { core := c, src := 5, pc := k.em.pc } }).chunkArrive w
        .next { s with cur := cur }
      else .fault .notEnabled
    | _ => .fault .notEnabled
  | none => .fault .notEnabled

/-- One output's k-step, with the status bits KNV 1 and KOF 2 (R180, R367). -/
def kstepF (tab : List Nat) (fa fb : Nat) (acc : Nat) (a b : Nat × Nat) : Nat × Nat :=
  let va := mxVal ((fmtOf fa).getD .fp32) a.1 a.2
  let vb := mxVal ((fmtOf fb).getD .fp32) b.1 b.2
  let va := if fa = 12 then (if bits a.1 0 6 = 0x30 ∨ a.2 = 0xFF then .nan false else .fin false 1 0) else va
  let vb := if fa = 12 then (if bits b.1 0 6 = 0x30 ∨ b.2 = 0xFF then .nan false else .fin false 1 0) else vb
  let p := if fa = 12 then lnsProduct tab a.1 b.1 a.2 b.2 else (fvMul va vb).1
  let c := valOf .fp32 acc
  let (r, fl) := finishFP .fp32 .rne false 0 ((fvAdd .rne c p).1, 0)
  let nan := fvIsNan (valOf .fp32 r) && !fvIsNan va && !fvIsNan vb && !fvIsNan c
  (r, (if nan then 1 else 0) + (if tbit fl 2 then 2 else 0))

/-- The INT32 step: exact, wrapping; true when it wrapped (R181). -/
def kstepI (fa fb : Nat) (acc a b : Nat) : Nat × Bool :=
  let v (f c : Nat) : Int := if f = 0 then sextN 8 c else ((c % 256 : Nat) : Int)
  let z := sextN 32 acc + v fa a * v fb b
  (wrapN 32 z, sextN 32 (wrapN 32 z) ≠ z)

/-- An operand is infinite. -/
def kinf (f : Nat) (x : Nat × Nat) : Bool := match mxVal ((fmtOf f).getD .fp32) x.1 x.2 with | .inf _ => true | _ => false

/-- One k-step over a bank (R180, R181, R362): `kk` is its place in the chunk. The outputs beyond M and N that the array owns take zero
operands (R359): an infinite one times zero sets KNV there too. -/
def Bank.kstep (b : Bank) (ch : Chunk) (fa fb kk : Nat) : Bank × Nat × Bool :=
  let tab := if b.lda = 1 then b.ltab.map (·.toNat) else lnstabStd
  let elem (r : Nat) : Nat × Nat := ((ch.rows.getD r []).getD kk (0, 127))
  let int := pairInt fa
  let go := (List.range b.m).foldl (fun (a : Map (BitVec 32) × Nat × Bool) i =>
    (List.range b.n).foldl (fun (a : Map (BitVec 32) × Nat × Bool) j =>
      let old := (mget 0 b.acc (1536 * i + j)).toNat
      let x := elem i
      let y := elem (b.m + j)
      if int then
        let (v, o) := kstepI fa fb old x.1 y.1
        ((1536 * i + j, BitVec.ofNat 32 v) :: a.1, a.2.1, a.2.2 || o)
      else
        let (v, st) := kstepF tab fa fb old x y
        ((1536 * i + j, BitVec.ofNat 32 v) :: a.1, Nat.lor a.2.1 st, a.2.2)) a) ([], 0, false)
  let pad := !int && fa != 12 && (((List.range b.m).any (fun i => kinf fa (elem i)) && b.n < pairMax fa)
    || ((List.range b.n).any (fun j => kinf fb (elem (b.m + j))) && b.m < 384))
  ({ b with acc := (go.1.reverse).filter (fun e => e.2 != 0), depth := b.depth + 1, kind := some int },
    Nat.lor go.2.1 (if pad then 1 else 0), go.2.2)

/-- KMMA (R359-R362): the word's start, the fetch of the chunk it needs, then one k-step per cycle. -/
def execKmma (w : EW) (s : State) : Res :=
  issueM (.kmma w) s (fun s =>
    let k := s.ki
    let b := k.bank k.ptr
    let x := s.ew (.kmma w)
    let kT := w.n.toNat
    if !x.begun then
      if b.st ≠ 1 then wordIllegal s
      else if 32768 < b.depth + kT then wordStop s 11 5 0 0
      else
        let e := s.en
        let (s, n) := (s.dropChunks s.kn).wait
        s.setEw { x with
          begun := true, left := n % 64,
          regs := mset (mset (mset [] 0 (e.rr w.r.toNat)) 1 (e.rr (w.r.toNat + 1))) 4 (e.rr 15 >>> 32) }
    else if kT = 0 ∧ x.chk = 1 then wordEnd (s.dropChunks s.kn)
    else
      match k.tf with
      | [] => s.chunkArrive w
      | ch :: rest =>
        let (b, st, ov) := b.kstep ch x.fa x.fb (x.reps % 128)
        let s := s.modKi (fun k => { k.setBank k.ptr b with
          status := k.status ||| BitVec.ofNat 32 (st + (if ov then 2 ^ (8 + k.ptr) else 0)) })
        let reps := x.reps + 1
        let s := if reps % 128 = 0 ∨ reps = kT then (s.unpin ch.lines).modKi (fun k => { k with tf := rest }) else s
        if kT ≤ reps then
          let adv (f : Nat) : Word := BitVec.ofNat 64 (kT * kbits f / 8)
          wordEnd (if w.v = 0 then s else s.modEn (fun e =>
            let r := w.r.toNat
            let e := e.wr r (e.rr r + adv x.fa)
            e.wr (r + 1) (e.rr (r + 1) + adv x.fb)))
        else s.setEw { x with reps := reps })

/-- A slot's program up to FEND; none when the check of R263 and R372 refuses it. -/
def flueProg : List (BitVec 32) → Option (List (BitVec 32))
  | [] => none
  | w :: l =>
    match decodeOpt .flue w.toNat with
    | some .fend => some [w]
    | some i => if i.wf then (flueProg l).map (w :: ·) else none
    | none => none

/-- KDRAIN (R263, R356, R363). -/
def execKdrain (w : EW) (s : State) : Res :=
  issueM (.kdrain w) s (fun s => onceWord s w.n (fun s =>
    let k := s.ki
    let b := k.bank k.ptr
    let slot := bits w.v.toNat 0 3
    if b.st ≠ 1 then wordIllegal s
    else if (k.bank (1 - k.ptr)).st = 2 then s
    else if s.me.flights.any (fun f => match f.i with | .flueld _ n => n.toNat == slot | _ => false) then s
    else match flueProg (mget [] k.slots slot) with
      | none => wordStop s 4 6 slot 0
      | some p =>
        let e := s.en
        let r := w.r.toNat
        let d : Drain := {
          bank := k.ptr, w := .kdrain w, slot := slot, prog := p, mask := bits w.v.toNat 3 4, d := e.rr r,
          stride := e.rr (r + 1), side := (List.range 4).map (fun q => e.rr (r + 2 + q)), row := 0, pc := 0, cnt := none,
          bdone := false, acc := s.cur.core, kpc := s.en.pc,
          issue := s.me.scyc.toNat }
        wordEnd (s.modKi (fun k => { k.setBank k.ptr { b with st := 2 } with
          drain := some d, checked := mset k.checked slot 1 }))))

/-- KSIG and KWAIT (R364, R365). A pre-empted wait parks the M stream when no bank is in use (R202, R370). -/
def execKsig (os : OS) (f : BitVec 6) (n : BitVec 16) (s : State) : Res := issueM (.ksig os f n) s (wSig os f n)

/-- The M stream parks before its word (R202, R370). -/
def kpark (s : State) : State := (s.modEn (fun e => { e with cur := none, waitFrom := 0, rel := none })).leaseEnd s.kn true

def execKwait (os : OS) (r : BitVec 4) (f : BitVec 6) (n : BitVec 16) (s : State) : Res :=
  issueM (.kwait os r f n) s (fun s => onceWord s n (fun s =>
    if !s.replays ∧ s.me.preempt.isSome ∧ s.ki.quiet ∧ s.en.rel.isNone
        ∧ !reaches (s.me.flag f.toNat) ((s.en.rr r.toNat).setWidth 32) then kpark s
    else wWait (.kwait os r f n) os r f s))

/-- The KSYNC steps from the release on (R366): CHK counts the steps done. -/
def ksyncTail (w : EWO) (s : State) : State :=
  let i : Instr := .ksync w
  let x := s.ew i
  if isRel w.os ∧ !s.engReleased s.who w.os.scope then s
  else
    let fin (s : State) : State :=
      match s.engAcq (isAcq w.os && bumps w.os.scope) with
      | none => sweepWord s
      | some s =>
        let s := wordEnd s
        if tbit w.v.toNat 1 then s.leaseEnd s.kn true else s
    if tbit w.v.toNat 0 ∧ x.chk < 2 then wArrive i s (fun s => fin (s.setEw { s.ew i with chk := 2 })) else fin s

/-- KSYNC (R366). Under a pre-emption one that is reached with a bank in use is executed as usual (R370). -/
def execKsync (w : EWO) (s : State) : Res :=
  issueM (.ksync w) s (fun s => onceWord s w.n (fun s =>
    let i : Instr := .ksync w
    let x := s.ew i
    if !s.replays ∧ x.chk = 0 ∧ !x.begun ∧ s.me.preempt.isSome ∧ s.ki.quiet then kpark s
    else if s.ki.isDraining then s.setEw { x with begun := true }
    else if tbit w.v.toNat 1 ∧ s.ki.isOpen then wordIllegal s
    else if x.chk = 0 ∧ tbit w.v.toNat 2 then
      let a := s.en.rr w.r.toNat
      if a.toNat % 8 ≠ 0 then wordStop s 8 5 0 a
      else match s.uWr s.who .g a (leBytes 8 s.ki.status.toNat) w.os 0 with
        | (s, .error e) => wordFail s e true
        | (s, .ok ()) =>
          let s := if tbit w.v.toNat 3 then s.modKi (fun k => { k with status := k.status &&& 0x300 }) else s
          ksyncTail w (s.setEw { x with chk := 1 })
    else ksyncTail w (s.setEw { x with chk := Nat.max 1 x.chk })))

/-- KEND (R116, R368): the M stream ends; a DRAINING bank finishes first. -/
def execKend (n : BitVec 16) (s : State) : Res :=
  issueM (.kend n) s (fun s => onceWord s n (fun s =>
    if s.ki.isOpen then wordIllegal s
    else
      let s := s.modEn (fun e => { e with cur := none, st := .ended })
      s.leaseEndWhen s.kn 1))

end Sys2Proof.Machine
end

