-- ==== Sys2Proof/Machine/Flue.lean ====
section
/-! DEFINITION. The flue processor (17 R371-R377): one instruction per cycle over the columns of the accumulator row that
a drain retires. -/

namespace Sys2Proof.Machine

/-- The kiln whose flue executes. -/
def State.fk (s : State) : Kiln := s.kiln s.cur.kiln
def State.modFk (s : State) (f : Kiln → Kiln) : State := s.modKiln s.cur.kiln f
def State.fd (s : State) : Option Drain := s.fk.drain
def State.modFd (s : State) (f : Drain → Drain) : State := s.modFk (fun k => { k with drain := k.drain.map f })

/-- Columns of the row. -/
def State.fcols (s : State) : Nat := match s.fd with | some d => (s.fk.bank d.bank).n | none => 0

/-- A flue register as a source in one column (R371, R375). -/
def Kiln.fsrc (k : Kiln) (r : BitVec 4) (j : Nat) : Nat :=
  let x := mget {} k.reg r.toNat
  if 12 ≤ r.toNat then mget 0 x.vals 0
  else match x.q with
    | some f => (finishFP .fp32 .rne false 0 (mxVal f (mget 0 x.vals j) (mget 128 x.scal (j / 32) - 1), 0)).1
    | none => mget 0 x.vals j

/-- Status bits of result flags (R367). -/
def fstatBits (fl : Nat) : Nat :=
  (if tbit fl 0 then 64 else 0) + (if tbit fl 1 then 32 else 0) + (if tbit fl 2 then 16 else 0)
    + (if tbit fl 4 then 8 else 0) + (if tbit fl 5 then 128 else 0)
def Kiln.orStatus (k : Kiln) (fl : Nat) : Kiln := { k with status := k.status ||| BitVec.ofNat 32 (fstatBits fl) }

/-- The instruction is done; the next one of the program follows. -/
def flueNext (s : State) : State := s.modFd (fun d => { d with pc := d.pc + 1 })

/-- A flue instruction runs only in a drain. -/
def issueF (i : Instr) (s : State) (f : State → Drain → State) : Res :=
  if s.cur.src = 6 then
    match s.fd with
    | some d => if i.wf then .next (f s d) else .next (raiseOn s d.acc 4 6 0 d.slot 0)
    | none => .fault .noIssuer
  else .fault .noIssuer

/-- Columns of a result, with the flags ORed (R371). -/
def colsOf (n : Nat) (f : Nat → Nat × Nat) : Map Nat × Nat :=
  let l := (List.range n).map f
  ((l.zipIdx.map (fun e => (e.2, e.1.1))).filter (fun e => e.2 != 0), l.foldl (fun a e => Nat.lor a e.2) 0)

/-- Write an e register column by column. -/
def flueCols (s : State) (d : BitVec 4) (f : Kiln → Nat → Nat × Nat) : State :=
  let k := s.fk
  let (vals, fl) := colsOf s.fcols (f k)
  flueNext (s.modFk (fun k => ({ k with reg := mset k.reg d.toNat { vals := vals } }).orStatus fl))

/-- FP32 arithmetic with one RNE rounding, subnormals kept (R371). -/
def fop (x : FV × Nat) : Nat × Nat := finishFP .fp32 .rne false 0 x
def fval (c : Nat) : FV := valOf .fp32 c

/-- FNOP and FEND (R363, R372). -/
def execFnop (s : State) : Res := issueF .fnop s (fun s _ => flueNext s)
def execFend (s : State) : Res :=
  issueF .fend s (fun s d =>
    let s := s.modFd (fun d => { d with row := d.row + 1, pc := 0, cnt := none })
    if (s.fk.bank d.bank).m ≤ d.row + 1 then s.soon [.attempt .drainComplete { idx := s.cur.kiln }] else s)

/-- The flags of a result over some operands (R372): with a NaN among them it is invalid only as a signalling NaN makes it (FPST.NV,
R184). -/
def invalidOf (l : List FV) (fl : Nat) : Nat :=
  if l.any fvIsNan then (if l.any fvIsSNan then fNV else 0) else fl

/-- FADD, FMUL, FFMA, FBIAS, FSCALE (R372). -/
def execFadd (o : F2) (s : State) : Res :=
  issueF (.fadd o) s (fun s _ => flueCols s o.d (fun k j => fop (fvAdd .rne (fval (k.fsrc o.a j)) (fval (k.fsrc o.b j)))))
def execFmul (o : F2) (s : State) : Res :=
  issueF (.fmul o) s (fun s _ => flueCols s o.d (fun k j => fop (fvMul (fval (k.fsrc o.a j)) (fval (k.fsrc o.b j)))))
def execFfma (o : F3) (s : State) : Res :=
  issueF (.ffma o) s (fun s _ => flueCols s o.d (fun k j =>
    let l := [k.fsrc o.a j, k.fsrc o.b j, k.fsrc o.c j].map fval
    let (x, fl) := fvFma .rne (fval (k.fsrc o.a j)) (fval (k.fsrc o.b j)) (fval (k.fsrc o.c j))
    fop (x, invalidOf l fl)))
def execFbias (o : F3) (s : State) : Res :=
  issueF (.fbias o) s (fun s _ => flueCols s o.d (fun k j =>
    let (x, f1) := fvAdd .rne (fval (k.fsrc o.a j)) (fval (k.fsrc o.b j))
    let (y, f2) := fvAdd .rne x (fval (k.fsrc o.c j))
    fop (y, invalidOf ([k.fsrc o.a j, k.fsrc o.b j, k.fsrc o.c j].map fval) (Nat.lor f1 f2))))
def execFscale (o : F3) (n : BitVec 8) (s : State) : Res :=
  issueF (.fscale o n) s (fun s _ => flueCols s o.d (fun k j =>
    let (x, f1) := fvMul (fval (k.fsrc o.a j)) (fval (k.fsrc o.b j))
    let (y, f2) := fvMul x (fval (k.fsrc o.c j))
    fop (fvScale n.toInt y, invalidOf ([k.fsrc o.a j, k.fsrc o.b j, k.fsrc o.c j].map fval) (Nat.lor f1 f2))))

/-- FMAX, FMIN, FCLAMP (R372): -0 below +0, a NaN gives the canonical NaN. -/
def execFmax (o : F2) (s : State) : Res :=
  issueF (.fmax o) s (fun s _ => flueCols s o.d (fun k j => fvMinMax .fp32 false true (k.fsrc o.a j) (k.fsrc o.b j)))
def execFmin (o : F2) (s : State) : Res :=
  issueF (.fmin o) s (fun s _ => flueCols s o.d (fun k j => fvMinMax .fp32 false false (k.fsrc o.a j) (k.fsrc o.b j)))
def execFclamp (o : F3) (s : State) : Res :=
  issueF (.fclamp o) s (fun s _ => flueCols s o.d (fun k j =>
    let (x, f1) := fvMinMax .fp32 false true (k.fsrc o.a j) (k.fsrc o.b j)
    let (y, f2) := fvMinMax .fp32 false false x (k.fsrc o.c j)
    (y, Nat.lor f1 f2)))

/-- x times sigm(y) for silu and gelu. -/
def mulSigm (x y : Nat) : Nat × Nat :=
  let (s, f1) := specialFn 5 .fp32 false y
  let (z, f2) := fop (fvMul (fval x) (fval s))
  (z, Nat.lor f1 f2)

/-- A FACT function of one element (Table 17-7). -/
def factOf (act x y : Nat) : Nat × Nat :=
  let nan : Nat × Nat := (0x7FC00000, if fvIsSNan (fval x) then fNV else 0)
  match act with
  | 0 => if fvIsNan (fval x) then nan else if fvLt (.fin false 0 0) (fval x) then (x, 0) else (0, 0)
  | 1 => specialFn 5 .fp32 false x
  | 2 => specialFn 4 .fp32 false x
  | 3 => mulSigm x x
  | 4 =>
    let (t, f1) := fop (fvMul (fval x) (fval 0x3FD9DB23))
    let (z, f2) := mulSigm x t
    (z, Nat.lor f1 f2)
  | 5 => specialFn 2 .fp32 false x
  | _ => if fvIsNan (fval x) then nan
    else if fvLt (fval x) (.fin false 0 0) then fop (fvMul (fval x) (fval y)) else (x, 0)

/-- FACT (R373). -/
def execFact (o : F2) (t : BitVec 4) (s : State) : Res :=
  issueF (.fact o t) s (fun s _ => flueCols s o.d (fun k j => factOf t.toNat (k.fsrc o.a j) (k.fsrc o.b j)))

/-- An access of the flue did not go through: a stop with the drain's slot, or the instruction runs again. -/
def flueFail (s : State) (w : Who) (e : UErr) (wr : Bool) : State :=
  match e with
  | .stop cause addr => raiseOn s w.core cause 6 0 0 addr
  | e => s.uFail w e wr

/-- FLD (R374). -/
def execFld (d f : BitVec 4) (j : BitVec 2) (s : State) : Res :=
  issueF (.fld d f j) s (fun s dr =>
    let fm := (fmtOf f.toNat).getD .fp32
    let n := s.fcols
    let a := nthW dr.side j.toNat + BitVec.ofNat 64 dr.row * dr.stride
    let w := whoFlue dr.acc dr.slot
    if a.toNat % (fm.bits / 8) ≠ 0 then raiseOn s dr.acc 8 6 0 0 a
    else match s.untag.uRd w .g a (n * fm.bits / 8) with
      | (s, .error e) => flueFail s w e false
      | (s, .ok bs) =>
        let l := chop (fm.bits / 8) bs n
        flueCols ((s.owe w).farDone w) d (fun _ k => cvtElem fm .fp32 .rne false false 0 (nthN l k)))

/-- FQ (R179, R375): blocks of 32 columns. -/
def execFq (d a : BitVec 4) (r : BitVec 3) (f : BitVec 4) (s : State) : Res :=
  issueF (.fq d a r f) s (fun s dr =>
    let fm := (fmtOf f.toNat).getD .e2m1
    let rnd := (rndOf r.toNat).getD .rne
    let n := s.fcols
    let k := s.fk
    let src := (List.range n).map (fun j => fval (k.fsrc a j))
    let seed := (s.core dr.acc).sys.srseed
    let sc := (List.range ((n + 31) / 32)).map (fun b => mxScale fm ((src.drop (32 * b)).take 32))
    let el := colsOf n (fun j =>
      mxElem fm rnd (if rnd = .sr then srWord seed (dr.cnt.getD 0) j else 0) ((sc.getD (j / 32) (127, 0)).1)
        (src.getD j (.fin false 0 0)))
    let fl := sc.foldl (fun x e => Nat.lor x e.2) el.2
    let reg : FReg := { q := some fm, vals := el.1, scal := sc.zipIdx.map (fun e => (e.2, e.1.1 + 1)) }
    flueNext (s.modFk (fun k => ({ k with reg := mset k.reg d.toNat reg }).orStatus fl)))

/-- Elements packed into bytes (R376): an odd E2M1 row ends in a zero nibble. -/
def packElems (b : Nat) (l : List Nat) : List Byte :=
  leBytes ((l.length * b + 7) / 8) (l.zipIdx.foldl (fun v e => v + e.1 % 2 ^ b * 2 ^ (b * e.2)) 0)

/-- FST (R376). -/
def execFst (a : BitVec 4) (kd j : BitVec 2) (r : BitVec 3) (f : BitVec 4) (s : State) : Res :=
  issueF (.fst a kd j r f) s (fun s dr =>
    let fm := (fmtOf f.toNat).getD .fp32
    let rnd := (rndOf r.toNat).getD .rne
    let n := if kd = 2 then 1 else s.fcols
    let k := s.fk
    let x := mget {} k.reg a.toNat
    let own := x.q == some fm && kd != 2
    let els := (List.range n).map (fun c =>
      if own then (mget 0 x.vals c, 0) else cvtElem .fp32 fm rnd false false 0 (k.fsrc a c))
    let side := nthW dr.side j.toNat
    let i := BitVec.ofNat 64 dr.row
    let at' := if kd = 2 then side + i * BitVec.ofNat 64 (fm.bits / 8) else (if kd = 0 then dr.d else side) + i * dr.stride
    let w := whoFlue dr.acc dr.slot
    if at'.toNat % Nat.max 1 (fm.bits / 8) ≠ 0 then raiseOn s dr.acc 8 6 0 0 at'
    else
      match s.uWr w .g at' (packElems fm.bits (els.map (·.1))) ⟨.none, .ctx⟩ 0 with
      | (s, .error e) => flueFail s w e true
      | (s, .ok ()) =>
        let fl := els.foldl (fun x e => Nat.lor x e.2) 0
        let fin (s : State) : State := flueNext (s.modFk (fun k => k.orStatus fl))
        if own ∧ kd = 0 then
          let nb := (n + 31) / 32
          let sc := (List.range nb).map (fun b => BitVec.ofNat 8 (mget 128 x.scal b - 1))
          match s.uWr w .g (side + i * BitVec.ofNat 64 nb) sc ⟨.none, .ctx⟩ 0 with
          | (s, .error e) => flueFail s w e true
          | (s, .ok ()) => fin s
        else fin s)

/-- FSTAT (R377): 0 sum from +0 with one rounding per add, 1 max, 2 min, 3 max of magnitudes. -/
def fstatOf (op : Nat) (l : List Nat) : Nat × Nat :=
  if op = 0 then l.foldl (fun a c =>
    let (z, fl) := fop (fvAdd .rne (fval a.1) (fval c))
    (z, Nat.lor a.2 fl)) (0, 0)
  else if l.any (fun c => fvIsNan (fval c)) then (0x7FC00000, if l.any (fun c => fvIsSNan (fval c)) then fNV else 0)
  else match op, l with
    | _, [] => (0, 0)
    | 3, l => ((l.map (fun c => c % 2 ^ 31)).foldl Nat.max 0, 0)
    | o, c :: l => (l.foldl (fun a c => (fvMinMax .fp32 false (o == 1) a c).1) c, 0)

def execFstat (d a : BitVec 4) (op : BitVec 2) (s : State) : Res :=
  issueF (.fstat d a op) s (fun s _ =>
    let k := s.fk
    let (v, fl) := fstatOf op.toNat ((List.range s.fcols).map (fun j => k.fsrc a j))
    flueNext (s.modFk (fun k => ({ k with reg := mset k.reg d.toNat { vals := mput 0 [] 0 v } }).orStatus fl)))

/-- Whether a program holds an FQ that rounds with sr (R176). -/
def flueSr (p : List (BitVec 32)) : Bool :=
  p.any (fun w => match decodeOpt .flue w.toNat with | some (.fq _ _ r _) => r == 5#3 | _ => false)

/-- An entry of an accumulator row as the flue reads it (R371). -/
def Bank.e0 (b : Bank) (i j : Nat) : Nat :=
  let c := (mget 0 b.acc (1536 * i + j)).toNat
  if b.kind = some true then (cvtElem .int32 .fp32 .rne false false 0 c).1 else c

/-- FLUE_ROW_RUN (R371, R176): the flue starts the program for the next row; `Inp.idx` names the kiln. -/
def execFlueRowRun (s : State) : Res :=
  let kn := s.inp.idx
  let k := s.kiln kn
  match k.drain with
  | some d =>
    let b := k.bank d.bank
    if d.pc = 0 ∧ d.bdone ∧ d.row < b.m then
      let regs := (List.range 8).foldl (fun m e => mset m e
        (if e = 0 then { vals := (colsOf b.n (fun j => (b.e0 d.row j, 0))).1 } else {})) k.reg
      let regs := (List.range 4).foldl (fun m e => mset m (12 + e)
        (if e = 0 then { vals := mput 0 [] 0 (cvtElem .uint32 .fp32 .rne false false 0 d.row).1 } else {})) regs
      let sr := flueSr d.prog
      let cnt := match d.cnt with
        | some c => some c
        | none => if sr then some (s.core d.acc).sys.srcnt else none
      let s := s.modKiln kn (fun k => { k with reg := regs, drain := some { d with pc := 1, cnt := cnt } })
      .next (if sr ∧ d.cnt.isNone then
        s.modCore d.acc (fun c => { c with sys := { c.sys with srcnt := c.sys.srcnt + 1 } }) else s)
    else .fault .notEnabled
  | none => .fault .notEnabled

/-- The b loads of a drain (R363): N FP32 values each. -/
def State.flueB (s : State) (kn : Nat) (d : Drain) : State :=
  let b := (s.kiln kn).bank d.bank
  let w := whoFlue d.acc d.slot
  let (s, ok) := (List.range 4).foldl (fun (a : State × Bool) q =>
    if !a.2 || !tbit d.mask q then a
    else
      let va := nthW d.side q
      if va.toNat % 4 ≠ 0 then (raiseOn a.1 d.acc 8 6 0 0 va, false)
      else match a.1.untag.uRd w .g va (4 * b.n) with
        | (s, .error e) => (flueFail s w e false, false)
        | (s, .ok bs) =>
          let vals := (accRow 0 (chop 4 bs b.n)).map (fun e => (e.1, e.2.toNat))
          (((s.owe w).farDone w).modKiln kn (fun k => { k with reg := mset k.reg (8 + q) { vals := vals } }), true)) (s, true)
  if ok then s.modKiln kn (fun k => { k with drain := k.drain.map (fun d => { d with bdone := true }) }) else s

/-- DRAIN_COMPLETE (R363, R116): the last row's stores are accepted; `Inp.idx` names the kiln. -/
def execDrainComplete (s : State) : Res :=
  match (s.kiln s.inp.idx).drain with
  | some d =>
    if ((s.kiln s.inp.idx).bank d.bank).m ≤ d.row then .next (s.retire s.inp.idx d.bank) else .fault .notEnabled
  | none => .fault .notEnabled

end Sys2Proof.Machine
end

