-- ==== Sys2Proof/Machine/Engine.lean ====
section
/-! DEFINITION. The syllables that act on engines and on the kiln lease (14 R295, R297, R298; 06 R115, R116). -/

namespace Sys2Proof.Machine

/-- A fixed-latency result known at issue. -/
def flyData (s : State) (i : Instr) (lat d : Nat) : State := fly s { blankFlight s i with remain := lat, data := d }

/-- KLEASE (R115, R297): 1 at once when the lease is held; else the context waits for the grant. -/
def execKlease (xd : XReg) (s : State) : Res :=
  issue (.klease xd) s (fun s =>
    match s.my.rel with
    | some r => passWait s (.klease xd) r
    | none =>
      if s.me.lease then passWait s (.klease xd) 1
      else stallOn (s.leaseAsk s.cur.core) .lease)

/-- KREL (R116): waits until no M stream runs and every accumulator has retired; an OPEN bank is discarded. -/
def execKrel (xd : XReg) (s : State) : Res :=
  issue (.krel xd) s (fun s =>
    if !s.me.lease then passWait s (.krel xd) 1
    else if s.me.em.st.isRun then stallOn s .other
    else if s.ki.isDraining then stallOn s .other
    else passWait ((s.discardOpen s.kn).leaseEnd s.kn false) (.krel xd) 0)

/-- An engine as it starts (R100): its registers stay. -/
def Eng.start (e : Eng) (pc : Word) (n : Nat) : Eng :=
  { e with pc := pc, st := .running, cur := none, waitFrom := 0, rel := none, page := false, startIn := n, stopReq := false, slotOk := false, swept := false }

/-- KSTART (R100, R297). -/
def execKstart (o : R2) (s : State) : Res :=
  issue (.kstart o) s (fun s =>
    let a := s.my.rx o.xa
    if !s.me.lease then raiseAt s 13 0 0
    else if a.toNat % 8 ≠ 0 then raiseAt s 8 0 a
    else if s.me.em.st.isRun ∨ s.me.em.st = .parked then flyData s (.kstart o) 2 1
    else flyData (s.modMe (fun k => { k with em := k.em.start a k.nextId })) (.kstart o) 2 0)

/-- CSTART (R100, R297). -/
def execCstart (o : R2) (e : BitVec 1) (s : State) : Res :=
  issue (.cstart o e) s (fun s =>
    let a := s.my.rx o.xa
    if a.toNat % 8 ≠ 0 then raiseAt s 8 0 a
    else if (s.me.eng e.toNat).st.isRun then flyData s (.cstart o e) 2 1
    else flyData (s.modMe (fun k => k.modEng e.toNat (fun x => x.start a k.nextId))) (.cstart o e) 2 0)

/-- ESTOP (R297, R358). -/
def execEstop (xd : XReg) (n : BitVec 2) (s : State) : Res :=
  issue (.estop xd n) s (fun s =>
    let e := s.me.eng n.toNat
    let i : Instr := .estop xd n
    if n.toNat < 2 then
      if e.st.isRun then flyData (s.modMe (fun k => k.modEng n.toNat (fun e => { e with stopReq := true }))) i 2 0
      else flyData s i 2 1
    else if e.st = .parked then
      let wants := (List.range 3).any (fun x => (s.me.ctx x).wait == some .lease)
      let s := s.modMe (fun k => { k with em := { k.em with st := .ended, cur := none } })
      flyData (if wants then s else s.leaseDrop s.cur.core) i 2 0
    else if e.st.isRun then
      let s := if s.me.lease then (s.discardOpen s.kn).modKi (fun k => { k with ending := 1 }) else s
      flyData (s.modMe (fun k => { k with em := { k.em with cur := none, stopReq := true } })) i 2 0
    else flyData s i 2 1)

/-- Whether an engine waits on a flag or a rendezvous (Table 14-5). -/
def Eng.waiting (e : Eng) : Bool :=
  match e.cur with
  | some w => match w.i with
    | .cwait .. | .kwait .. => w.begun
    | .csync .. | .ksync .. => w.arrived
    | _ => false
  | none => false

/-- The value of ESTAT. -/
def Eng.estat (e : Eng) : Word :=
  let st := match e.st with
    | .notStarted => 0 | .ended => 2 | .parked => 3
    | _ => if e.waiting then 4 else 1
  (e.pc &&& ~~~7#64) ||| BitVec.ofNat 64 st

/-- ESTAT (R297): read when its request is served. -/
def execEstat (xd : XReg) (n : BitVec 2) (s : State) : Res := issue (.estat xd n) s (fun s => flySoon s (.estat xd n) [])

/-- FLUELD (R298): xd lands at issue + 2; the slot is loaded when the read is presented. -/
def execFlueld (o : R2) (slot : BitVec 3) (s : State) : Res :=
  let i : Instr := .flueld o slot
  issue i s (fun s =>
    let a := s.my.rx o.xa
    if a.toNat % 128 ≠ 0 then raiseAt s 8 0 a
    else if !s.me.lease then raiseAt s 13 0 0
    else fly s { blankFlight s i with phase := .unsent, remain := 2, ea := a, dest := slot.toNat })

/-- Present the FLUELDs of a core whose time has come: a load of the issuing context (R298). -/
def State.presentL (s : State) (c : Nat) (full : Bool) : State :=
  ((s.core c).flights.map (·.id)).foldl (fun s id =>
    match (s.core c).flight id with
    | some f =>
      match f.i with
      | .flueld o slot =>
        if f.phase = .unsent ∧ f.remain = 0 then
          let s := if f.wr then s else s.modCore c (fun k =>
            (k.putX f.src [(o.xd, 0)]).modFlight id (fun g => { g with wr := true }))
          if (s.core c).acqBefore f || s.redoHeld c f then s
          else
            let tr := if full then s.trFull c f.ea.toNat { r := true } else (s, s.trL1 c f.ea.toNat { r := true })
            match (if 2 ^ 56 ≤ f.ea.toNat then (s, Tr.access) else tr) with
            | (s, .miss) => s.modCore c (fun k => { k with miss := k.miss ++ [(f.src, f.ea.toNat)] })
            | (s, .page _) => s.faultFlight c f 7
            | (s, .access) => s.faultFlight c f 6
            | (s, .ok _) =>
              match s.untag.uRdG (whoLd c f) f.ea.toNat 128 with
              | (s, .ok bs) =>
                let s := ((s.owe (whoLd c f)).farDone (whoLd c f)).modCore c (fun k =>
                  let k := k.dropFlight f
                  { k with job := k.job.map (fun j => { j with fload := mset j.fload slot.toNat f.ea }) })
                s.modKiln (kilnOf c) (fun k => k.loadSlot slot.toNat bs)
              | (s, .error (.stop cause _)) => s.faultFlight c f cause
              | (s, .error _) => s
        else s
      | _ => s
    | none => s) s

/-- MWAIT (R295): until the M stream does not run and its retirements are complete. -/
def execMwait (xd : XReg) (s : State) : Res :=
  issue (.mwait xd) s (fun s =>
    if s.me.em.st.isRun ∨ (s.me.lease ∧ s.ki.isDraining) then stallOn s .other
    else passWait s (.mwait xd) s.me.em.st.code)

end Sys2Proof.Machine
end

