-- ==== Sys2Proof/Machine/Copy.lean ====
section
/-! DEFINITION. The copy engines (18 R378-R397): moves, fills, gathers, boxes, link words, signals, waits and sync. A unit
moves in pieces of 256 bytes: one cycle reads a piece into the copy buffer, the next one writes it. -/

namespace Sys2Proof.Machine

/-- The control word as read by a word: source space, destination space, LEN; none when reserved bits are set (R379). -/
structure CCtl where
  ssp : SpaceK
  dsp : SpaceK
  len : Nat
  fin : Nat
  fout : Nat
  rnd : Nat
def cctl (c15 : Word) : Option CCtl :=
  let v := c15.toNat
  if bits v 35 29 ≠ 0 then none
  else match spaceOf (bits v 20 2), spaceOf (bits v 22 2) with
    | some a, some b => some ⟨a, b, bits v 0 20, bits v 24 4, bits v 28 4, bits v 32 3⟩
    | _, _ => none

/-- Registers as read when the word started: c(n) to c(n+3) under 0-3, c14 and c15 under their own numbers (R378). -/
def EWord.c (w : EWord) (i : Nat) : Word := mget 0 w.regs i
def startRegs (e : Eng) (r : Nat) : Map Word :=
  [0, 1, 2, 3].foldl (fun m i => mset m i (e.rr ((r + i) % 16))) (mset (mset [] 14 (e.rr 14)) 15 (e.rr 15))

/-- A data-moving word starts: its acquire precedes its first read (R157), then it keeps its registers. What it holds in the copy buffer
has come back from its homes (R51). -/
def startWord (i : Instr) (os : OS) (r : BitVec 4) (s : State) (f : State → EWord → State) : State :=
  let w := s.ew i
  if w.begun then
    if w.tags.isEmpty then f s w
    else match s.poisoned s.cur.core w.tags with
      | some va => wordStop (s.setEw { w with buf := none, tags := [] }) 6 s.cur.src 0 (BitVec.ofNat 64 va)
      | none =>
        let w := { w with tags := [] }
        f (s.setEw w) w
  else match s.engAcq (isAcq os && bumps os.scope) with
    | none => sweepWord s
    | some s =>
      let w := { w with begun := true, regs := startRegs s.en r.toNat }
      f (s.setEw w) w

/-- What has been read goes into the copy buffer; the piece is written in the next cycle (R382). -/
def bufferIn (w : EWord) (x : State × Except UErr (List Byte)) : State :=
  match x with
  | (s, .ok bs) => ((s.setEw { w with buf := some bs, tags := s.rtag }).untag).farDone s.who
  | (s, .error e) => wordFail s.untag e false

/-- A read into the copy buffer. -/
def pieceRead (s : State) (w : EWord) (sp : SpaceK) (a : Word) (n : Nat) : State := bufferIn w (s.untag.uRd s.who sp a n)

/-- A write of the buffered piece, and what follows it. -/
def pieceWrite (s : State) (w : EWord) (sp : SpaceK) (a : Word) (bs : List Byte) (os : OS) (f : State → State) : State :=
  match s.uWr s.who sp a bs os 0 with
  | (s, .ok ()) => f (s.setEw { w with buf := none })
  | (s, .error e) => wordFail s e true

/-- Length of piece p of a unit. -/
def pieceLen (len p : Nat) : Nat := Nat.min 256 (len - 256 * p)

/-- The piece is done: the next piece, the next repeat, or the end of the word. -/
def pieceDone (s : State) (i : Instr) (len reps : Nat) (last : State → State) : State :=
  let w := s.ew i
  if 256 * (w.piece + 1) < len then s.setEw { w with piece := w.piece + 1 }
  else if w.reps + 1 < reps then s.setEw { w with piece := 0, reps := w.reps + 1 }
  else last s

/-- Write a register and end the word. -/
def endWith (s : State) (l : List (Nat × Word)) : State :=
  wordEnd (s.modEn (fun e => l.foldl (fun e p => e.wr (p.1 % 16) p.2) e))

/-- CNOP, CSETL, CSETH, CLOOP (R381, R390). -/
def execCnop (n : BitVec 16) (s : State) : Res := issueC (.cnop n) s (wNop (.cnop n) n)
def execCsetl (w : EW) (s : State) : Res := issueC (.csetl w) s (wSetl (.csetl w) w)
def execCseth (w : EW) (s : State) : Res := issueC (.cseth w) s (wSeth (.cseth w) w)
def execCloop (w : EW) (s : State) : Res := issueC (.cloop w) s (wLoop w)

/-- CADV (R381): one addition per repeat. -/
def execCadv (w : EW) (s : State) : Res :=
  issueC (.cadv w) s (fun s =>
    if w.n = 0 then wordEnd s
    else repDone (s.modEn (fun e => e.wr w.r.toNat (e.rr w.r.toNat + w.v.signExtend 64))) (.cadv w) w.n)

/-- A shape record as Table 18-2 lays it out; none when it breaks the table. -/
def shapeOf (bs : List Byte) : Option ShapeRec :=
  let n (o k : Nat) : Nat := leNat ((bs.drop o).take k)
  let f := n 8 1
  let nd := n 9 1
  let fl := n 10 2
  let ext := (List.range 5).map (fun d => n (0x0C + 4 * d) 4)
  let st := (List.range 4).map (fun d => BitVec.ofNat 64 (n (0x20 + 8 * d) 8))
  match fmtOf f, spaceOf fl with
  | some fm, some sp =>
    let u := Nat.max 1 (fm.bits / 8)
    if fm ≠ .stored ∧ 1 ≤ nd ∧ nd ≤ 5 ∧ n 0 8 % u = 0 ∧ ext.all (fun x => 1 ≤ x)
        ∧ (List.range 5).all (fun d => d < nd || nthN ext d == 1)
        ∧ st.all (fun x => x.toNat % u == 0) ∧ (List.range 4).all (fun d => d + 1 < nd || nthW st d == 0)
        ∧ (fm ≠ .e2m1 ∨ nthN ext 0 % 2 = 0) then
      some ⟨BitVec.ofNat 64 (n 0 8), fm, nd, sp, ext, st⟩
    else none
  | _, _ => none

/-- CSHAPE (R386, R387): from the record cache, or from memory into it. -/
def execCshape (w : EWO) (s : State) : Res :=
  issueC (.cshape w) s (fun s => onceWord s w.n (fun s =>
    let a := s.en.rr w.r.toNat
    let world := s.me.world
    if a.toNat % 64 ≠ 0 then wordStop s 8 s.cur.src 0 a
    else startWord (.cshape w) w.os w.r s (fun s _ =>
      let use (s : State) (r : ShapeRec) : State :=
        let s := if s.replays then s else s.modMe (fun k => { k with
          recs := ((a, world, r) :: k.recs.filter (fun e => !(e.1 == a && e.2.1 == world))).take 16 })
        wordEnd (s.modEn (fun e => { e with shape := some r }))
      match (if s.replays then [] else s.me.recs).find? (fun e => e.1 == a && e.2.1 == world) with
      | some e => use s e.2.2
      | none => match s.untag.uRd s.who .g a 64 with
        | (s, .ok bs) => match shapeOf bs with
          | some r => use ((s.owe s.who).farDone s.who) r
          | none => wordStop s 4 s.cur.src 0 a
        | (s, .error e) => wordFail s e false)))

/-- CMOVE (R383). -/
def execCmove (w : EWO) (s : State) : Res :=
  issueC (.cmove w) s (fun s =>
    if w.n = 0 then wordEnd s
    else startWord (.cmove w) w.os w.r s (fun s x =>
      match cctl (x.c 15) with
      | none => wordIllegal s
      | some t =>
        if t.len = 0 then wordIllegal s
        else
          let src (j : Nat) : Word := x.c 0 + BitVec.ofNat 64 j * w.v.signExtend 64
          let dst (j : Nat) : Word := x.c 1 + BitVec.ofNat 64 j * x.c 14
          let o := BitVec.ofNat 64 (256 * x.piece)
          match x.buf with
          | none => pieceRead s x t.ssp (src x.reps + o) (pieceLen t.len x.piece)
          | some bs => pieceWrite s x t.dsp (dst x.reps + o) bs w.os (fun s =>
            pieceDone s (.cmove w) t.len w.n.toNat (fun s =>
              endWith s [(w.r.toNat, src w.n.toNat), (w.r.toNat + 1, dst w.n.toNat)]))))

/-- CFILL (R383): byte k of a unit takes byte k mod 8 of c(n+1). -/
def execCfill (w : EWO) (s : State) : Res :=
  issueC (.cfill w) s (fun s =>
    if w.n = 0 then wordEnd s
    else startWord (.cfill w) w.os w.r s (fun s x =>
      match cctl (x.c 15) with
      | none => wordIllegal s
      | some t =>
        if t.len = 0 then wordIllegal s
        else
          let dst (j : Nat) : Word := x.c 0 + BitVec.ofNat 64 j * w.v.signExtend 64
          let n := pieceLen t.len x.piece
          let bs := (List.range n).map (fun k => BitVec.ofNat 8 ((x.c 1).toNat / 2 ^ (8 * (k % 8))))
          pieceWrite s x t.dsp (dst x.reps + BitVec.ofNat 64 (256 * x.piece)) bs w.os (fun s =>
            pieceDone s (.cfill w) t.len w.n.toNat (fun s => endWith s [(w.r.toNat, dst w.n.toNat)]))))

/-- The index of a gather's or scatter's repeat, read once per repeat and kept under 16 (R384). -/
def withIndex (s : State) (x : EWord) (f : State → EWord → Nat → State) : State :=
  let off := x.c 2 + BitVec.ofNat 64 (4 * x.reps)
  if off.toNat % 4 ≠ 0 then wordStop s 8 s.cur.src 0 off
  else match mfind x.regs (32 + x.reps) with
    | some v => f s x v.toNat
    | none => match s.uRd s.who .sp off 4 with
      | (s, .ok bs) =>
        let x := { x with regs := mset (x.regs.filter (fun e => e.1 < 32)) (32 + x.reps) (BitVec.ofNat 64 (leNat bs)) }
        f (s.setEw x) x (leNat bs)
      | (s, .error e) => wordFail s e false

/-- CGATH (R384). -/
def execCgath (w : EWO) (s : State) : Res :=
  issueC (.cgath w) s (fun s =>
    if w.n = 0 then wordEnd s
    else startWord (.cgath w) w.os w.r s (fun s x =>
      match cctl (x.c 15) with
      | none => wordIllegal s
      | some t =>
        if t.len = 0 then wordIllegal s
        else withIndex s x (fun s x idx =>
          let dst (j : Nat) : Word := x.c 1 + BitVec.ofNat 64 j * w.v.signExtend 64
          let o := BitVec.ofNat 64 (256 * x.piece)
          let n := pieceLen t.len x.piece
          let go (s : State) (bs : List Byte) : State :=
            pieceWrite s x t.dsp (dst x.reps + o) bs w.os (fun s =>
              pieceDone s (.cgath w) t.len w.n.toNat (fun s =>
                endWith s [(w.r.toNat + 1, dst w.n.toNat), (w.r.toNat + 2, x.c 2 + BitVec.ofNat 64 (4 * w.n.toNat))]))
          match x.buf with
          | some bs => go s bs
          | none =>
            if idx = 0xFFFFFFFF then go s (List.replicate n 0)
            else pieceRead s x t.ssp (x.c 0 + BitVec.ofNat 64 idx * x.c 3 + o) n)))

/-- CSCAT (R384): a row whose index is all ones is skipped. -/
def execCscat (w : EWO) (s : State) : Res :=
  issueC (.cscat w) s (fun s =>
    if w.n = 0 then wordEnd s
    else startWord (.cscat w) w.os w.r s (fun s x =>
      match cctl (x.c 15) with
      | none => wordIllegal s
      | some t =>
        if t.len = 0 then wordIllegal s
        else withIndex s x (fun s x idx =>
          let src (j : Nat) : Word := x.c 1 + BitVec.ofNat 64 j * w.v.signExtend 64
          let o := BitVec.ofNat 64 (256 * x.piece)
          let last (s : State) : State :=
            endWith s [(w.r.toNat + 1, src w.n.toNat), (w.r.toNat + 2, x.c 2 + BitVec.ofNat 64 (4 * w.n.toNat))]
          if idx = 0xFFFFFFFF then pieceDone s (.cscat w) 0 w.n.toNat last
          else match x.buf with
          | none => pieceRead s x t.ssp (src x.reps + o) (pieceLen t.len x.piece)
          | some bs => pieceWrite s x t.dsp (x.c 0 + BitVec.ofNat 64 idx * x.c 3 + o) bs w.os (fun s =>
            pieceDone s (.cscat w) t.len w.n.toNat last))))

/-- A box in units of whole bytes: an E2M1 pair is one unit (R388). -/
structure Box where
  ub  : Nat
  o   : List Int
  b   : List Nat
  ext : List Nat
  r   : ShapeRec

/-- Units of a slice. -/
def Box.units (b : Box) : Nat := b.b.foldl (· * ·) 1

/-- The tensor address of unit q of a slice, none outside the tensor. -/
def Box.addr (b : Box) (slice q : Nat) : Option Word :=
  let d (i : Nat) : Nat := nthN b.b i
  let ix := [q % d 0, q / d 0 % d 1, q / (d 0 * d 1) % d 2, q / (d 0 * d 1 * d 2), slice]
  let x := (List.range 5).map (fun k => b.o.getD k 0 + (nthN ix k : Int))
  if (List.range 5).all (fun k => 0 ≤ x.getD k 0 && x.getD k 0 < (nthN b.ext k : Int)) then
    some (b.r.base + BitVec.ofNat 64 ((x.getD 0 0).toNat * b.ub)
      + (List.range 4).foldl (fun a k => a + BitVec.ofNat 64 ((x.getD (k + 1) 0).toNat) * nthW b.r.stride k) 0)
  else none

/-- The box of a CBOX; `none` when it is ILLEGAL. -/
def boxOf (sh : Option ShapeRec) (x : EWord) (o4 : Int) : Option Box :=
  match sh with
  | none => none
  | some r =>
    let half (w : Word) (k : Nat) : Int := sextN 32 (bits w.toNat (32 * k) 32)
    let o := [half (x.c 0) 0, half (x.c 0) 1, half (x.c 1) 0, half (x.c 1) 1, o4]
    let b := (List.range 4).map (fun k => bits (x.c 3).toNat (16 * k) 16)
    if b.any (fun n => n == 0) then none
    else if r.fmt = .e2m1 then
      if nthN b 0 % 2 = 0 ∧ o.getD 0 0 % 2 = 0 then
        some ⟨1, (o.getD 0 0 / 2) :: o.drop 1, (nthN b 0 / 2) :: b.drop 1, (nthN r.ext 0 / 2) :: r.ext.drop 1, r⟩
      else none
    else some ⟨r.fmt.bits / 8, o, b, r.ext, r⟩

/-- Read the units of a piece from the tensor, zeros outside it (R388). -/
def boxIn (s : State) (b : Box) (slice lo n : Nat) : State × Except UErr (List Byte) :=
  (List.range n).foldl (fun a k =>
    match a with
    | (s, .error e) => (s, .error e)
    | (s, .ok bs) => match b.addr slice (lo + k) with
      | none => (s, .ok (bs ++ List.replicate b.ub 0))
      | some t => match s.uRd s.who b.r.space t b.ub with
        | (s, .ok x) => (s, .ok (bs ++ x))
        | (s, .error e) => (s, .error e)) (s, .ok [])

/-- The units of a piece as runs of consecutive addresses, in buffer order; none for units outside the tensor. -/
def Box.runs (b : Box) (slice lo n : Nat) : List (Option Word × Nat) :=
  ((List.range n).foldl (fun (l : List (Option Word × Nat)) k =>
    match l, b.addr slice (lo + k) with
    | (none, m) :: r, none => (none, m + b.ub) :: r
    | (some a, m) :: r, some c => if a + BitVec.ofNat 64 m = c then (some a, m + b.ub) :: r else (some c, b.ub) :: l
    | l, a => (a, b.ub) :: l) []).reverse

/-- Write a piece to the tensor, run by run, dropping what lies outside it (R388); a run is written as a whole (R164). -/
def boxOut (s : State) (b : Box) (slice lo : Nat) (bs : List Byte) (os : OS) : State × Except UErr Unit :=
  let go := (b.runs slice lo (bs.length / b.ub)).foldl (fun (a : State × Except UErr (List Byte)) r =>
    match a with
    | (s, .error e) => (s, .error e)
    | (s, .ok bs) => match r.1 with
      | none => (s, .ok (bs.drop r.2))
      | some t => match s.uWr s.who b.r.space t (bs.take r.2) os 0 with
        | (s, .ok ()) => (s, .ok (bs.drop r.2))
        | (s, .error e) => (s, .error e)) (s, .ok bs)
  match go with
  | (s, .ok _) => (s, .ok ())
  | (s, .error e) => (s, .error e)

/-- CBOX (R388). -/
def execCbox (w : EWO) (s : State) : Res :=
  issueC (.cbox w) s (fun s =>
    if w.n = 0 then wordEnd s
    else startWord (.cbox w) w.os w.r s (fun s x =>
      match cctl (x.c 15), boxOf s.en.shape x (sextN 16 w.v.toNat) with
      | some t, some b =>
        let u := x.c 2
        if u.toNat % b.ub ≠ 0 then wordStop s 8 s.cur.src 0 u
        else
          let size := b.units * b.ub
          let n := pieceLen size x.piece
          let dense := u + BitVec.ofNat 64 (x.reps * size + 256 * x.piece)
          let lo := 256 / b.ub * x.piece
          let fin (s : State) : State := pieceDone s (.cbox w) size w.n.toNat (fun s =>
            endWith s [(w.r.toNat + 2, u + BitVec.ofNat 64 (w.n.toNat * size))])
          if w.v.toNat < 2 ^ 16 then
            match x.buf with
            | none => bufferIn x (boxIn s.untag b x.reps lo (n / b.ub))
            | some bs => pieceWrite s x t.dsp dense bs w.os fin
          else
            match x.buf with
            | none => pieceRead s x t.ssp dense n
            | some bs => match boxOut s b x.reps lo bs w.os with
              | (s, .ok ()) => fin (s.setEw { x with buf := none })
              | (s, .error e) => wordFail s e true
      | _, _ => wordIllegal s))

/-- CSIG and CWAIT (R389). -/
def execCsig (os : OS) (f : BitVec 6) (n : BitVec 16) (s : State) : Res := issueC (.csig os f n) s (wSig os f n)
def execCwait (os : OS) (r : BitVec 4) (f : BitVec 6) (n : BitVec 16) (s : State) : Res :=
  issueC (.cwait os r f n) s (fun s => onceWord s n (wWait (.cwait os r f n) os r f))

/-- CSYNC (R390): not executed while a pre-emption waits for the stream, unless its channels hold bytes that it must still take (R397).
CHK counts the steps done. -/
def execCsync (os : OS) (rdv : Bool) (n : BitVec 16) (s : State) : Res :=
  let i : Instr := .csync os rdv n
  issueC i s (fun s => onceWord s n (fun s =>
    let x := s.ew i
    if s.replays then wordEnd (s.modEn (fun e => { e with shape := none }))
    else if x.chk = 0 ∧ !x.begun ∧ s.me.preempt.isSome ∧ s.me.chansEmpty then s.setEw x
    else
    let x := { x with begun := true }
    let s := s.setEw x
    if s.hub.units.any (fun u => u.src == s.cur.core && u.eng == s.ei) then s
    else if isRel os ∧ !s.engReleased s.who os.scope then s
    else
      let fin (s : State) : State :=
        match s.engAcq (isAcq os && bumps os.scope) with
        | none => sweepWord s
        | some s => wordEnd (s.modEn (fun e => { e with shape := none }))
      if rdv ∧ x.chk < 2 then
        wArrive i (s.setEw { x with chk := 1 }) (fun s => fin (s.setEw { s.ew i with chk := 2 }))
      else fin (s.setEw { x with chk := Nat.max 1 x.chk })))

/-- CEND (R390): the stream ends. -/
def engEnd (s : State) : State := s.modEn (fun e => { e with cur := none, st := .ended })
def execCend (n : BitVec 16) (s : State) : Res := issueC (.cend n) s (fun s => onceWord s n engEnd)

/-- A link word waits for its pod-time slot in c(n+2) (R20, R391). -/
def atSlot (s : State) (x : EWord) (f : State → State) : State :=
  let slot := x.c 2
  if s.en.slotOk then f s
  else if slot = 0 ∨ slot.toNat ≤ s.hub.podTime.toNat then f (s.modEn (fun e => { e with slotOk := true }))
  else s

/-- LINK_WORD_SLOT_REACHED (R20, R391): the word in progress of engine `Inp.idx` of `Inp.core` may begin. -/
def execLinkWordSlotReached (s : State) : Res :=
  let c := s.inp.core.toNat
  let e := (s.core c).eng s.inp.idx
  match e.cur with
  | some x =>
    let link : Bool := match x.i with | .csend _ | .crecv _ | .cred _ => true | _ => false
    if s.inp.idx < 2 ∧ link ∧ x.begun ∧ !e.slotOk ∧ (x.c 2).toNat ≤ s.hub.podTime.toNat then
      .next (s.modCore c (fun k => k.modEng s.inp.idx (fun e => { e with slotOk := true })))
    else .fault .notEnabled
  | none => .fault .notEnabled

/-- The tweak of a data unit on the link (R395). -/
def linkTweak (accel : BitVec 10) (core eng chan off : Nat) : Nat :=
  2 ^ 63 + accel.toNat * 2 ^ 53 + core % 512 * 2 ^ 44 + eng % 2 * 2 ^ 43 + chan % 8 * 2 ^ 40 + off / 16 % 2 ^ 40
def linkCrypt (enc : Bool) (key : BitVec 512) (accel : BitVec 10) (core eng chan off : Nat) (bs : List Byte) : List Byte :=
  ((List.range ((bs.length + 15) / 16)).map (fun j =>
    xtsUnit enc key (linkTweak accel core eng chan (off + 16 * j)) (padTo 16 ((bs.drop (16 * j)).take 16)))).flatten

/-- Bytes of the issuing engine on their way to a channel, and those in its buffer (R391). -/
def State.chanLoad (s : State) (accel : BitVec 10) (core eng chan : Nat) : Nat :=
  let fly := (s.hub.units.filter (fun u => u.src == s.cur.core && u.eng == s.ei
    && u.accel == accel && u.core == core && u.teng == eng && u.chan == chan)).map (·.len)
  fly.sum + (if accel = s.hub.accid then (mget [] ((s.core core).eng eng).chan chan).length else 0)

/-- CSEND (R391, R392, R395): each piece is read and handed to the link. -/
def execCsend (w : EWO) (s : State) : Res :=
  issueC (.csend w) s (fun s =>
    if w.n = 0 then wordEnd s
    else startWord (.csend w) w.os w.r s (fun s x =>
      match cctl (x.c 15) with
      | none => wordIllegal s
      | some t =>
        let tg := (x.c 1).toNat
        if t.len = 0 ∨ bits tg 20 44 ≠ 0 then wordIllegal s
        else atSlot s x (fun s =>
          let ch := w.v.toNat % 8
          let accel := BitVec.ofNat 10 (bits tg 10 10)
          let n := pieceLen t.len x.piece
          let a := x.c 0 + BitVec.ofNat 64 (x.reps * t.len + 256 * x.piece)
          match x.buf with
          | none => pieceRead s x t.ssp a n
          | some bs =>
            if 8192 < s.chanLoad accel (bits tg 0 9) (bits tg 9 1) ch + n then s
            else if isRel w.os ∧ !s.engReleased s.who w.os.scope then s
            else
              let world := s.me.world
              let off := mget 0 s.en.sent ch
              let wd := s.world world.toNat
              let data := if world = 0 then bs
                else linkCrypt true (wd.key wd.cur) s.hub.accid s.cur.core s.ei ch off bs
              let (s, l) := s.wait
              let u : LinkUnit := {
                src := s.cur.core, eng := s.ei, accel := accel, core := bits tg 0 9, teng := bits tg 9 1, chan := ch,
                world := world, gen := wd.cur, off := off, len := n, last := t.len ≤ 256 * (x.piece + 1), data := data,
                target := x.c 1, id := s.me.nextId, clk := s.dieClk (dieOf s.cur.core),
                sentAt := s.hub.podTime.toNat, left := l }
              let s := (s.modHub (fun h => { h with units := h.units ++ [u] })).modMe (fun k => { k with nextId := k.nextId + 1 })
              let s := s.modEn (fun e => { e with sent := mput 0 e.sent ch (off + n) })
              pieceDone (s.setEw { x with buf := none }) (.csend w) t.len w.n.toNat (fun s =>
                endWith s [(w.r.toNat, x.c 0 + BitVec.ofNat 64 (w.n.toNat * t.len))]))))

/-- Take bytes from a receive channel into the copy buffer, once enough are there (R393). -/
def chanTake (s : State) (x : EWord) (ch n : Nat) : State :=
  let have' := mget [] s.en.chan ch
  if have'.length < n then s
  else (s.modEn (fun e => { e with chan := mput [] e.chan ch (have'.drop n) })).setEw { x with buf := some (have'.take n) }

/-- CRECV (R393). -/
def execCrecv (w : EWO) (s : State) : Res :=
  issueC (.crecv w) s (fun s =>
    if w.n = 0 then wordEnd s
    else startWord (.crecv w) w.os w.r s (fun s x =>
      match cctl (x.c 15) with
      | none => wordIllegal s
      | some t =>
        if t.len = 0 then wordIllegal s
        else atSlot s x (fun s =>
          match x.buf with
          | none => chanTake s x (w.v.toNat % 8) (pieceLen t.len x.piece)
          | some bs =>
            pieceWrite s x t.dsp (x.c 0 + BitVec.ofNat 64 (x.reps * t.len + 256 * x.piece)) bs w.os (fun s =>
              pieceDone s (.crecv w) t.len w.n.toNat (fun s =>
                endWith s [(w.r.toNat, x.c 0 + BitVec.ofNat 64 (w.n.toNat * t.len))])))))

/-- A format CRED takes (R394). -/
def credFmt (c : Nat) : Bool := 6 ≤ c && c ≤ 10

/-- One element of CRED: exact widening, one RNE sum, one conversion (R394). -/
def credElem (fin fout : Fmt) (rnd : RndK) (a b : Nat) : Nat :=
  let s := fp32Add (cvtElem fin .fp32 .rne false false 0 a).1 (cvtElem fout .fp32 .rne false false 0 b).1
  (cvtElem .fp32 fout rnd false false 0 s).1

/-- CRED (R394): received elements are added into the local block. -/
def execCred (w : EWO) (s : State) : Res :=
  issueC (.cred w) s (fun s =>
    if w.n = 0 then wordEnd s
    else startWord (.cred w) w.os w.r s (fun s x =>
      match cctl (x.c 15) with
      | none => wordIllegal s
      | some t =>
        let fin := (fmtOf t.fin).getD .fp32
        let fout := (fmtOf t.fout).getD .fp32
        let bi := fin.bits / 8
        let bo := fout.bits / 8
        let rnd := (rndOf t.rnd).getD .rne
        if t.len = 0 ∨ 5 ≤ t.rnd ∨ !credFmt t.fin ∨ !credFmt t.fout ∨ t.len % bi ≠ 0 then wordIllegal s
        else if (x.c 0).toNat % bo ≠ 0 then wordStop s 8 s.cur.src 0 (x.c 0)
        else atSlot s x (fun s =>
          match x.buf with
          | none => chanTake s x (w.v.toNat % 8) (pieceLen t.len x.piece)
          | some bs =>
            let n := bs.length / bi
            let a := x.c 0 + BitVec.ofNat 64 (x.reps * (t.len / bi * bo) + 256 / bi * x.piece * bo)
            match s.untag.uRd s.who t.dsp a (n * bo) with
            | (s, .error e) => wordFail s.untag e false
            | (s, .ok loc) =>
              let s := (s.owe s.who).farDone s.who
              let out := (List.zip (chop bi bs n) (chop bo loc n)).map (fun p => leBytes bo (credElem fin fout rnd p.1 p.2))
              pieceWrite s x t.dsp a out.flatten w.os (fun s =>
                pieceDone s (.cred w) t.len w.n.toNat (fun s =>
                  endWith s [(w.r.toNat, x.c 0 + BitVec.ofNat 64 (w.n.toNat * (t.len / bi * bo)))])))))

/-- Bytes arrive at a channel; none when its buffer is full or another sender's block is arriving (R391). -/
def Eng.receive (e : Eng) (ch sender : Nat) (last : Bool) (bs : List Byte) : Option Eng :=
  let have' := mget [] e.chan ch
  let from' := mget 0 e.chFrom ch
  if 8192 < have'.length + bs.length ∨ (from' ≠ 0 ∧ from' ≠ sender + 1) then none
  else some { e with chan := mput [] e.chan ch (have' ++ bs), chFrom := mput 0 e.chFrom ch (if last then 0 else sender + 1) }

/-- A unit comes to its channel from an engine of module `src`, decrypted under the generation that it names (R395): none while the
channel has no room. One whose generation is no more is discarded, and the receiving core stops with ACCESS. -/
def State.unitIn (s : State) (src : BitVec 10) (u : LinkUnit) : Option State :=
  let k := s.core u.core
  let wd := s.world u.world.toNat
  if u.world ≠ 0 ∧ !wd.live u.gen then some (raiseOn s u.core 6 (3 + u.teng) 0 0 0)
  else
    let bs := if u.world = 0 then u.data else (linkCrypt false (wd.key u.gen) src u.src u.eng u.chan u.off u.data).take u.len
    let sender := (if src = s.hub.accid then 0 else 1024 * (1 + src.toNat)) + 2 * u.src + u.eng
    ((k.eng u.teng).receive u.chan sender u.last bs).map (fun x => s.setCore u.core (k.setEng u.teng x))

/-- A unit does not get to its channel: it is discarded with those behind it, and the sending core stops with ACCESS while its job runs
(R16, R392). -/
def State.unitLost (s : State) (u : LinkUnit) : State :=
  let s := s.modHub (fun h => { h with
    units := h.units.filter (fun v => !(v.src == u.src && v.eng == u.eng && v.target == u.target && v.world == u.world)) })
  if (s.core u.src).runsIn u.world then raiseOn s u.src 6 (3 + u.eng) 0 0 u.target else s

/-- The writes of a unit's stream before it have been applied: those that its clock does not name, and, where it leaves the module, all
of them (R152, R158, R161). -/
def State.unitReady (s : State) (u : LinkUnit) : Bool :=
  let here := u.accel == s.hub.accid
  (s.core u.src).wq.all (fun w => !(w.stream == 3 + u.eng && w.id < u.id && (!here || w.kind != 0 || w.no == 0)))
    && (if here then s.clkMet (dieOf u.core) u.clk else s.hub.ports != 0)

/-- CHANNEL_UNIT_ARRIVAL (R155, R391, R392, R395): the oldest unit in transit numbered `Inp.idx` reaches its channel, or, when
`Inp.accel` names another module, a unit from there does: to core `Inp.core`, engine `Inp.idx / 8`, channel
`Inp.idx % 8`, of world `Inp.world`, from core `Inp.idx2 / 2`, engine `Inp.idx2 % 2` there, with `Inp.len` bytes as `Inp.data` carries them
over the link, `Inp.ok` for the last piece of its unit; `Inp.val` holds its offset and, as its top bit, the parity of its generation. A
unit for another module leaves; `Inp.ok` is false when that module refuses it. -/
def execChannelUnitArrival (s : State) : Res :=
  if s.inp.accel ≠ s.hub.accid then
    let v := s.inp.val.toNat
    let u : LinkUnit := {
      src := s.inp.idx2 / 2 % 512, eng := s.inp.idx2 % 2, accel := s.hub.accid, core := s.inp.core.toNat, teng := s.inp.idx / 8 % 2,
      chan := s.inp.idx % 8, world := s.inp.world, gen := tbit v 63, off := v % 2 ^ 63, len := s.inp.len, last := s.inp.ok,
      data := s.inp.data, target := 0, left := 0 }
    if s.hub.ports = 0 then .fault .notEnabled
    else if !(s.core u.core).runsIn u.world then .next (s.logErr 1 (reqCode 5 0) 0 0 u.world.toNat 0)
    else match s.unitIn s.inp.accel u with
      | some t => .next t
      | none => .fault .notEnabled
  else match s.hub.units[s.inp.idx]? with
    | none => .fault .notEnabled
    | some u =>
      let first := (s.hub.units.take s.inp.idx).all (fun v =>
        !(v.src == u.src && v.eng == u.eng && v.core == u.core && v.teng == u.teng && v.chan == u.chan && v.accel == u.accel))
      let gone := s.modHub (fun h => { h with units := h.units.eraseIdx s.inp.idx })
      if !first ∨ !s.unitReady u then .fault .notEnabled
      else if u.accel ≠ s.hub.accid then .next (if s.inp.ok then gone.send (.unit u) else gone.unitLost u)
      else if !(s.core u.core).runsIn u.world then
        .next (gone.logErr 1 (reqCode 2 (2 * u.src + u.eng)) 0 0 u.world.toNat 0 |>.unitLost u)
      else match gone.unitIn s.hub.accid u with
        | some t => .next t
        | none => .fault .notEnabled

end Sys2Proof.Machine
end

