-- ==== Sys2Proof/Machine/Ports.lean ====
section
/-! DEFINITION. The transfer units of the stream ports (06 R106; 15 R314-R317; 20 R402): up to 512 bytes per cycle of the
next tile, in pattern order. An E2M1 pair is one unit of a byte. -/

namespace Sys2Proof.Machine

/-- A pattern block as Table 15-2 lays it out; none when it breaks the table. -/
def patternOf (bs : List Byte) : Option Pattern :=
  let n (o k : Nat) : Nat := leNat ((bs.drop o).take k)
  let nd := n 0x0A 1
  let tr := n 0x0C 2
  let tc := n 0x0E 2
  let ext := (List.range 4).map (fun d => n (0x10 + 4 * d) 4)
  let st := (List.range 3).map (fun d => BitVec.ofNat 64 (n (0x20 + 8 * d) 8))
  match spaceOf (n 8 1), fmtOf (n 9 1) with
  | some sp, some fm =>
    let u := Nat.max 1 (fm.bits / 8)
    if fm ≠ .stored ∧ 1 ≤ nd ∧ nd ≤ 4 ∧ n 0x0B 1 = 0 ∧ 1 ≤ tr ∧ tr ≤ 64 ∧ 1 ≤ tc ∧ tc ≤ 2048 ∧ tr * tc * fm.bits ≤ 16384
        ∧ ext.all (fun x => 1 ≤ x) ∧ (List.range 4).all (fun d => d < nd || nthN ext d == 1) ∧ n 0 8 % u = 0
        ∧ st.all (fun x => x.toNat % u == 0) ∧ n 0x38 8 = 0 ∧ (fm ≠ .e2m1 ∨ (nthN ext 0 % 2 = 0 ∧ tc % 2 = 0)) then
      some ⟨BitVec.ofNat 64 (n 0 8), sp, fm, nd, tr, tc, ext, st⟩
    else none
  | _, _ => none

/-- Bytes of a unit, units of a tile and of the whole pattern. -/
def Pattern.ub (p : Pattern) : Nat := Nat.max 1 (p.fmt.bits / 8)
def Pattern.half (p : Pattern) (n : Nat) : Nat := if p.fmt = .e2m1 then n / 2 else n
def Pattern.tileUnits (p : Pattern) : Nat := p.half p.te
def Pattern.units (p : Pattern) : Nat := p.half p.elems
def Pattern.tileLen (p : Pattern) : Nat := p.tileUnits * p.ub

/-- Address of unit i (R315). -/
def Pattern.addr (p : Pattern) (i : Nat) : Word :=
  let e0 := p.half (nthN p.ext 0)
  let e (d : Nat) : Nat := nthN p.ext d
  let ix := [i / e0 % e 1, i / (e0 * e 1) % e 2, i / (e0 * e 1 * e 2)]
  p.base + BitVec.ofNat 64 (i % e0 * p.ub)
    + (List.range 3).foldl (fun a d => a + BitVec.ofNat 64 (nthN ix d) * nthW p.stride d) 0

/-- Units i to i + n - 1 as runs of consecutive addresses; none for positions past the end. -/
def Pattern.runs (p : Pattern) (i n : Nat) : List (Option Word × Nat) :=
  ((List.range n).foldl (fun (l : List (Option Word × Nat)) k =>
    let a := if i + k < p.units then some (p.addr (i + k)) else none
    match l, a with
    | (none, m) :: r, none => (none, m + p.ub) :: r
    | (some b, m) :: r, some c => if b + BitVec.ofNat 64 m = c then (some b, m + p.ub) :: r else (some c, p.ub) :: l
    | l, a => (a, p.ub) :: l) []).reverse

/-- Whether the accesses of a binding may be made: those its context issued before the BIND come first (R152, R160). -/
def Core.portReady (k : Core) (p : Port) : Bool :=
  k.accepted p.ctx p.id && (!p.wr || k.loaded p.ctx p.id)
    && k.flights.all (fun g => !(g.src == p.ctx && g.id < p.id && isRead g.i && isAcq g.os && g.phase.away))

def State.modPort (s : State) (c p : Nat) (f : Port → Port) : State :=
  s.modCore c (fun k => match mfind k.ports p with
    | some x => { k with ports := mset k.ports p (f x) }
    | none => k)

/-- Accesses of an acquire binding acquire (R129, R160): none while the GENBUMP must wait for a sweep. -/
def Port.bumps (x : Port) : Bool := isAcq x.os && Machine.bumps x.os.scope

/-- Read the pattern block of a binding (R316). -/
def State.portBlock (s : State) (c p : Nat) (x : Port) : State :=
  let w := whoPort c p x
  if x.bumps ∧ (s.core c).bumpWaits then s
  else match s.untag.uRd w x.bspace x.blk 64 with
    | (s, .error e) => s.untag.uFail w e false
    | (s, .ok bs) =>
      let s := (s.owe w).farDone w
      match patternOf bs with
      | none => raiseOn s c 4 x.ctx 0 0 x.blk
      | some t =>
        let s := if x.bumps then s.modCore c Core.genbump else s
        s.modPort c p (fun x => { x with pat := some t })

/-- Nothing has been read: the banks of a core and its neighbours are as `old` has them (R402). -/
def State.banksAs (s old : State) (c : Nat) : State :=
  (List.range 4).foldl (fun s j =>
    let d := c / 4 * 4 + j
    if (s.core d).banks = (old.core d).banks then s else s.modCore d (fun k => { k with banks := (old.core d).banks })) s

/-- A read port's unit moves up to 512 bytes of the next tile. -/
def State.portRead (s : State) (c p : Nat) (x : Port) (t : Pattern) : State :=
  let w := whoPort c p x
  let n := Nat.min 512 (t.tileLen - x.part.length) / t.ub
  let i := x.moved * t.tileUnits + x.part.length / t.ub
  if x.bumps ∧ (s.core c).bumpWaits then s
  else match (t.runs i n).foldl (fun (a : State × Except UErr (List Byte)) r =>
    match a with
    | (s, .error e) => (s, .error e)
    | (s, .ok bs) => match r.1 with
      | none => (s, .ok (bs ++ List.replicate r.2 0))
      | some a => match s.uRd w t.space a r.2 with
        | (s, .ok b) => (s, .ok (bs ++ b))
        | (s, .error e) => (s, .error e)) (s.untag, .ok []) with
  | (u, .error e) => (u.untag.uFail w e false).banksAs s c
  | (s, .ok bs) =>
    let tags := s.rtag
    let s := s.untag.farDone w
    let s := if x.bumps then s.modCore c Core.genbump else s
    s.modPort c p (fun x =>
    let part := x.part ++ bs
    let x := { x with tags := x.tags ++ tags }
    if t.tileLen ≤ part.length then
      { x with tiles := x.tiles ++ [BitVec.ofNat 16384 (leNat part)], part := [], moved := x.moved + 1, fresh := x.fresh + 1 }
    else { x with part := part })

/-- What the ports of a core have read in the cycle before is back; poisoned data stops the core (R51). -/
def State.portsBack (s : State) (c : Nat) : State :=
  (s.core c).ports.foldl (fun s e =>
    if e.2.tags.isEmpty then s
    else
      let s' := s.modPort c e.1 (fun x => { x with tags := [] })
      match s.poisoned c e.2.tags with
      | some va => raiseOn s' c 6 e.2.ctx 0 0 (BitVec.ofNat 64 va)
      | none => s') s

/-- Where the bytes of a run stand among those of `Port.snap`, for those that translate. -/
def State.placesOf (s : State) (c : Nat) (space : SpaceK) (a : Word) (n : Nat) : List Nat :=
  match spPlace c space a with
  | some (d, off) => (List.range n).map (fun j => if d = c then off + j else nPlace d (off + j))
  | none => (pageParts a.toNat n).flatMap (fun p => match s.trL1 c p.1 { w := true } with
    | .ok pa => (List.range p.2).map (fun j => gPlace (pa + j))
    | _ => List.replicate p.2 0)

/-- A run of a write port without the bytes that later stores of its context have covered (R160): what is left of it, as address, first
byte and length. -/
def Port.left (x : Port) (s : State) (c : Nat) (space : SpaceK) (a : Word) (n : Nat) : List (Word × Nat × Nat) :=
  if x.snap.isEmpty then [(a, 0, n)]
  else
    (((s.placesOf c space a n).zipIdx.foldl (fun (l : List (Nat × Nat)) e =>
      if (mfind x.snap e.1).isSome then l
      else match l with
        | (o, m) :: r => if o + m = e.2 then (o, m + 1) :: r else (e.2, 1) :: l
        | [] => [(e.2, 1)]) []).reverse).map (fun p => (a + BitVec.ofNat 64 p.1, p.1, p.2))

/-- A write port's unit passes up to 512 bytes of its oldest tile to the write path (R402). Runs that have gone stay gone where a later
one waits. -/
def State.portWrite (s : State) (c p : Nat) (x : Port) (t : Pattern) (tile : Tile) : State :=
  let w := whoPort c p x
  let n := Nat.min 512 (t.tileLen - x.part.length) / t.ub
  let i := x.moved * t.tileUnits + x.part.length / t.ub
  let all := leBytes t.tileLen tile.toNat
  let bs := (all.drop x.part.length).take (n * t.ub)
  let run (s : State) (a : Word) (bs : List Byte) : State × Except UErr Unit :=
    (x.left s c t.space a bs.length).foldl (fun (q : State × Except UErr Unit) r => match q with
      | (s, .ok ()) => s.uWr w t.space r.1 ((bs.drop r.2.1).take r.2.2) x.os x.pol
      | e => e) (s, .ok ())
  match (t.runs i n).foldl (fun (a : State × Option UErr × Nat) r =>
    match a with
    | (s, some e, m) => (s, some e, m)
    | (s, none, m) => match r.1 with
      | none => (s, none, m + r.2)
      | some a => match run s a ((bs.drop m).take r.2) with
        | (s, .ok ()) => (s, none, m + r.2)
        | (s, .error e) => (s, some e, m)) (s, none, 0) with
  | (s, some e, m) => (s.modPort c p (fun x => { x with part := x.part ++ bs.take m })).uFail w e true
  | (s, none, _) => s.modPort c p (fun x =>
    let part := x.part ++ bs
    if t.tileLen ≤ part.length then { x with tiles := x.tiles.drop 1, part := [], moved := x.moved + 1 }
    else { x with part := part })

/-- An unbind whose drain is done ends the binding (R317). -/
def State.portEnd (s : State) (c p : Nat) : State :=
  s.modCore c (fun k => match mfind k.ports p with
    | some x => if x.endReq ∧ x.tiles.isEmpty ∧ x.part.isEmpty then { k with ports := mdel k.ports p } else k
    | none => k)

/-- PORT_TILE_TRANSFER (R106, R314-R317, R402): one cycle of the transfer unit of port `Inp.idx` of `Inp.core`. In a stop
only the drains go on that a pre-emption waits for (R203). -/
def execPortTileTransfer (s : State) : Res :=
  let c := s.inp.core.toNat
  let p := s.inp.idx
  let k := s.core c
  match mfind k.ports p with
  | none => .fault .notEnabled
  | some x =>
    let frozen := (k.stop.isSome || k.hmode) && !(x.wr && k.stop.any (fun t => t.r.cause == 14))
    if x.wait ∨ !k.portReady x ∨ frozen then .fault .notEnabled
    else
      let s := if x.pat.isNone then s.portBlock c p x else s
      match (mfind (s.core c).ports p).bind (·.pat) with
      | none => .next s
      | some t =>
        if x.wr then
          match x.tiles with
          | tile :: _ => .next ((s.portWrite c p x t tile).portEnd c p)
          | [] => .next (s.portEnd c p)
        else if x.moved < t.tiles ∧ x.tiles.length < 4 then .next (s.portRead c p x t)
        else .next s

end Sys2Proof.Machine
end

