-- ==== Sys2Proof/Machine/Bay.lean ====
section
/-! DEFINITION. What a stop writes into the ember bay (10 R192-R195; 14 R275; 15 R326; 16 R333; 17 R370; 18 R397; 19 R399):
the stop image, the records and the capture slots. Offsets are from scratchpad offset 0x40_0000. -/

namespace Sys2Proof.Machine

/-- What has a record: an operation, an engine's word in progress, a drain. -/
inductive BayItem
  | op (f : Flight)
  | word (e : Nat) (w : EWord) (pc : Word)
  | drain (d : Drain)

/-- Issue SCYC, stream and slot: the order of R399. -/
def BayItem.key : BayItem → Nat × Nat × Nat
  | .op f => (f.issue, f.src, f.slot)
  | .word e w _ => (w.issue, 3 + e, 0)
  | .drain d => (d.issue, 6, 0)
def keyLt (a b : Nat × Nat × Nat) : Bool :=
  a.1 < b.1 || (a.1 == b.1 && (a.2.1 < b.2.1 || (a.2.1 == b.2.1 && a.2.2 < b.2.2)))
def insItem (x : BayItem) : List BayItem → List BayItem
  | [] => [x]
  | y :: l => if keyLt x.key y.key then x :: y :: l else y :: insItem x l

/-- A CSYNC or KSYNC not executed yet (R202): it is no word in progress. -/
def EWord.syncWaits (w : EWord) : Bool :=
  !w.begun && (match w.i with | .csync .. | .ksync .. => true | _ => false)

/-- The items of a core, in record order: operations that came from records keep the order of those records (R401). -/
def State.bayItems (s : State) (c : Nat) : List BayItem :=
  let k := s.core c
  let words := (List.range 3).filterMap (fun e =>
    match (k.eng e).cur with
    | some w => if (k.eng e).st.isRun && !w.syncWaits then some (BayItem.word e w (k.eng e).pc) else none
    | none => none)
  let dr := if k.lease then (match (s.kiln (kilnOf c)).drain with | some d => [BayItem.drain d] | none => []) else []
  let old := (k.flights.filter (·.again)).map BayItem.op
  ((k.flights.filter (fun f => !f.again)).map BayItem.op ++ words ++ dr).foldl (fun l x => insItem x l) old

/-- Passes done at an SCYC (R333): VQMX and VDQMX show none. -/
def Flight.progAt (f : Flight) (scyc : Nat) : Nat :=
  match f.i with
  | .vqmx .. | .vdqmx .. => 0
  | _ =>
    if f.i.tileResult || (match f.i with | .vcmp .. => true | _ => false) then
      let el := (scyc + 2 ^ 48 - f.issue) % 2 ^ 48
      Nat.max f.prog (Nat.min f.passes (el * f.passes / Nat.max 1 (f.i.vcTime f.passes).2))
    else f.prog

/-- The result of the passes done so far (R195), low elements first. -/
def Flight.partialTile (f : Flight) (o : VOp) (prog : Nat) : Tile :=
  let r := f.result o
  let (n, b) := f.resLen o
  BitVec.ofNat 16384 ((match f.i with | .vcmp .. => r.pred | _ => r.tile) % 2 ^ (n * prog / Nat.max 1 f.passes * b))

/-- The tiles an operation keeps in capture slots: sources A, B, C, its predicate and its partial result. -/
structure Caps where
  a : Option Tile := none
  b : Option Tile := none
  c : Option Tile := none
  p : Option Tile := none
  d : Option Tile := none

def Flight.capsAt (f : Flight) (scyc : Nat) : Caps :=
  match f.i.vop with
  | some o =>
    let pg := f.progAt scyc
    let d := if pg = 0 then none else some (f.partialTile o pg)
    if pg < f.passes then { a := f.tA, b := f.tB, c := f.tC, p := f.pr.map (fun p => p.setWidth 16384), d := d }
    else { d := d }
  | none =>
    match f.i with
    | .pand .. | .por .. | .pxor .. | .pnot .. => { a := f.tA, b := f.tB }
    | .stv .. | .stp .. => { c := f.tA }
    | .ldv .. => if f.phase = .captured ∨ f.prog ≠ 0 then { d := f.td } else {}
    | .ldp .. => if f.phase = .captured ∨ f.phase = .fixed then { d := f.td } else {}
    | _ => {}
def Caps.list (c : Caps) : List Tile := [c.a, c.b, c.c, c.p, c.d].filterMap id

/-- Bytes of each of those tiles. -/
def Flight.capLens (f : Flight) : Nat × Nat × Nat × Nat × Nat :=
  match f.i.vop with
  | some o =>
    let n := vshN f.vsh
    let (m, b) := f.resLen o
    (tileBytes (f.i.srcN n) o.fmt, f.i.bBytes o n, tileBytes n o.fmt, 256, (m * b + 7) / 8)
  | none => match f.i with
    | .stv .. | .stp .. | .ldv .. | .ldp .. => (0, 0, f.i.accSize f.vsh, 0, f.i.accSize f.vsh)
    | _ => (256, 256, 0, 0, 0)
def Flight.capTiles (f : Flight) (scyc : Nat) : List (Tile × Nat) :=
  let c := f.capsAt scyc
  let (a, b, x, p, d) := f.capLens
  [c.a.map (·, a), c.b.map (·, b), c.c.map (·, x), c.p.map (·, p), c.d.map (·, d)].filterMap (fun x => x)

/-- Bytes of an age's tile. -/
def Age.len (a : Age) : Nat := let n := vshN a.shape; tileBytes (if a.pack then 2 * n else n) (vshFmt a.shape)

/-- Ages that may still be read: interlocked mode has no expiry (R112). -/
def Core.liveAges (k : Core) (l : List Age) : List (Option Age) :=
  (List.range 4).map (fun j => match l[j]? with | some a => if k.inter || 0 < a.hold then some a else none | none => none)

/-- An LDV or LDP whose request has left the core: a stop captures its data into a slot (R191, R326). -/
def Flight.toCapture (f : Flight) : Bool :=
  (f.phase == .sent || f.phase == .served) && (match f.i with | .ldv .. | .ldp .. => true | _ => false)

/-- Records and capture slots that a stop at the current edge would write (R192). -/
def State.bayCount (s : State) (c : Nat) : Nat × Nat :=
  let k := s.core c
  let items := s.bayItems c
  let caps := (items.map (fun x => match x with | .op f => if f.toCapture then 1 else (f.capsAt k.scyc.toNat).list.length | _ => 0)).sum
  (items.length, caps + ((k.liveAges k.va).filterMap id).length + ((k.liveAges k.vb).filterMap id).length)
def bayFits (n c : Nat) : Bool := n ≤ 256 && c ≤ 15 && n + 16 * c ≤ 464

/-- The encoded word of an instruction. -/
def opWord (i : Instr) : Nat := match encodeFields i with | some e => e.2 | none => 0

/-- STATE of Table 10-3. -/
def Flight.stateCode (f : Flight) : Nat :=
  match f.phase with
  | .fixed => 0
  | .unsent | .held => 1
  | .sent | .served => if f.i.isSpecial then 0 else 1
  | .captured => 3
  | .faulted => 4

/-- DEST of Table 10-3. -/
def Flight.destWord (f : Flight) : Nat :=
  let kind := match f.i with
    | .ldv .. => 2
    | .ldp .. | .vcmp .. | .pand .. | .por .. | .pxor .. | .pnot .. => 3
    | .ldq .. => 4
    | .fset .. | .finc .. => 5
    | .stv .. | .stp .. => 6
    | _ => if f.i.store.isSome then 6 else if f.i.tileResult then 2 else 0
  match f.i.xDst.head? with
  | some r => 2 ^ 24 + f.src * 2 ^ 16 + (if kind = 0 then r.toNat else 0)
  | none => kind * 2 ^ 24 + f.src * 2 ^ 16 + f.dest % 2 ^ 16
def wordDest (i : Instr) (bank : Nat) : Nat :=
  match i with
  | .csetl w | .cseth w | .cadv w => 7 * 2 ^ 24 + w.r.toNat
  | .ksetl w | .kseth w => 8 * 2 ^ 24 + w.r.toNat
  | .kzero _ | .kldc _ | .kmma _ | .kdrain _ => 9 * 2 ^ 24 + bank
  | _ => 0

/-- A record's 128 bytes (Table 10-3). -/
structure Rec where
  op : Nat
  src : Nat
  slot : Nat
  state : Nat
  token : Nat
  fault : Nat
  caps : Nat
  capd : Nat
  issue : Nat
  remain : Nat
  prog : Nat
  pc : Nat
  dest : Nat
  cnt : Nat
  fpctl : Nat
  vsh : Nat
  ea : Nat
  ops : List Word
  data : Nat

def Rec.bytes (r : Rec) : List Byte :=
  leBytes 8 r.op ++ leBytes 1 r.src ++ leBytes 1 r.slot ++ leBytes 1 r.state ++ leBytes 1 r.token ++ leBytes 1 r.fault
    ++ leBytes 2 r.caps ++ leBytes 1 r.capd ++ leBytes 8 r.issue ++ leBytes 4 r.remain ++ leBytes 4 r.prog ++ leBytes 8 r.pc
    ++ leBytes 4 r.dest ++ leBytes 4 r.cnt ++ leBytes 4 r.fpctl ++ leBytes 4 r.vsh ++ leBytes 8 r.ea
    ++ ((List.range 4).map (fun j => leBytes 8 (nthW r.ops j).toNat)).flatten ++ leBytes 16 r.data ++ leBytes 16 0

/-- The number the next captured tile gets, 15 for none. -/
def capNo (n : Nat) (t : Option Tile) : Nat × Nat := match t with | some _ => (n, n + 1) | none => (15, n)

/-- The record of an item; `n` capture slots are taken already, `items` are all items. -/
def BayItem.recOf (x : BayItem) (k : Core) (kl : Kiln) (n : Nat) (items : List BayItem) : Rec :=
  match x with
  | .op f =>
    let cp := f.capsAt k.scyc.toNat
    let (a, n) := capNo n cp.a
    let (b, n) := capNo n cp.b
    let (c, n) := capNo n cp.c
    let (p, n) := capNo n cp.p
    let (d, _) := capNo n cp.d
    let st := f.stateCode
    let ldq := (items.findIdx? (fun y => match y with | .op g => g.id == f.dest | _ => false)).getD 0
    let wait : Bool := st == 1 && (match f.i with | .qpop .. | .qpeek .. => true | _ => false)
    let pg := f.progAt k.scyc.toNat
    let data := match f.i.vop with
      | some o => if f.passes ≤ pg then (f.result o).flags else 0
      | none => match f.i with
        | .flueld .. => if f.wr then 1 else 0
        | .fset .. | .finc .. => 0
        | _ => f.data
    ⟨opWord f.i, f.src, f.slot, st, match f.tok with | some t => 128 + t.toNat | none => 0, if st = 4 then f.fault else 0,
     a * 4096 + b * 256 + c * 16 + p, d, f.issue, if st = 0 ∨ st = 3 then Nat.max 1 f.remain else 0xFFFFFFFF, pg, f.pc.toNat,
     f.destWord, f.cnt.toNat, f.fpctl.toNat, f.vsh.toNat,
     if f.i.vop.isSome then 0 else setBits f.ea.toNat 62 2 f.space.code,
     if wait then BitVec.ofNat 64 ldq :: f.ops.drop 1 else f.ops, data⟩
  | .word e w pc =>
    ⟨opWord w.i, 3 + e, 0, 1, 0, 0, 0xFFFF, 15, w.issue, 0xFFFFFFFF, w.reps, pc.toNat, wordDest w.i kl.ptr, 0, 0, 0, 0, [],
     if e < 2 then w.piece + (if w.buf.isSome then 2 ^ 32 else 0) else 0⟩
  | .drain d =>
    ⟨opWord d.w, 6, 0, 1, 0, 0, 0xFFFF, 15, d.issue, 0xFFFFFFFF, d.row, d.kpc.toNat, wordDest d.w d.bank,
     (d.cnt.getD 0).toNat, 0, 0, 0, [], 0⟩

/-- Every record with the capture slots, in order. -/
def State.bayRecs (s : State) (c : Nat) : List Rec × List (Tile × Nat) :=
  let k := s.core c
  let items := s.bayItems c
  items.foldl (fun (a : List Rec × List (Tile × Nat)) x =>
    (a.1 ++ [x.recOf k (s.kiln (kilnOf c)) a.2.length items],
     a.2 ++ (match x with | .op f => f.capTiles k.scyc.toNat | _ => []))) ([], [])

/-- Stream state of a context in the image: a stalled one is 4. -/
def Ctx.stCode (t : Ctx) : Nat := if t.st.isRun ∧ t.wait.isSome then 4 else t.st.code

/-- An age's entry (Table 10-2), with its capture slot. -/
def ageBytes (a : Option Age) (n : Nat) : List Byte :=
  match a with
  | some a => leBytes 1 1 ++ leBytes 1 n ++ leBytes 2 (a.hold - 1) ++ leBytes 4 a.shape.toNat ++ leBytes 8 a.landed
  | none => leBytes 16 0

def Que.bytes (q : Que) : List Byte :=
  let mask := (q.ents.zipIdx.map (fun e => if e.1.val.isNone then 2 ^ e.2 else 0)).sum
  leBytes 1 q.ents.length ++ leBytes 1 mask ++ leBytes 6 0
    ++ ((List.range 8).map (fun j => leBytes 8 (match q.ents[j]? with | some e => (e.val.getD 0).toNat | none => 0))).flatten
    ++ leBytes 8 0

def Ctx.loopBytes (t : Ctx) : List Byte :=
  ((List.range 4).map (fun j => match t.loops[j]? with
    | some l => leBytes 8 l.start.toNat ++ leBytes 4 l.count ++ leBytes 4 l.endOff
    | none => leBytes 16 0)).flatten

def seqBytes (q : Option Seqr) : List Byte :=
  match q with
  | some q => leBytes 8 q.body.toNat ++ leBytes 2 q.ii ++ leBytes 1 q.stages ++ leBytes 1 0 ++ leBytes 4 q.trip
      ++ leBytes 4 q.iter ++ leBytes 2 q.cyc ++ leBytes 42 0
  | none => leBytes 64 0

def portBytes (p : Option Port) : List Byte :=
  match p with
  | some p =>
    let te := match p.pat with | some t => t.te | none => 0
    leBytes 1 (if p.wr then 1 else 0) ++ leBytes 1 p.tiles.length ++ leBytes 6 0 ++ leBytes 8 p.blk.toNat
      ++ leBytes 8 (p.moved * te) ++ leBytes 8 (p.cons * te)
  | none => leBytes 32 0

/-- Outstanding counts of a context, 4 bits per token. -/
def Ctx.tokWord (t : Ctx) : Nat := (List.range 4).foldl (fun v j => v + Nat.min 15 (mget 0 t.tok j) * 2 ^ (4 * j)) 0

/-- The stop image, offsets 0x0000 to 0x17FF (Table 10-2). -/
def Core.image (k : Core) (r : Raise) (n caps ncap : Nat) : List Byte :=
  let x (t : Ctx) : List Byte := ((List.range 32).map (fun j => leBytes 8 (t.rx (BitVec.ofNat 5 j)).toNat)).flatten
  let delay (t : Ctx) : Nat := if t.st.isRun then Nat.min 15 t.delay else 0
  let va := k.liveAges k.va
  let vb := k.liveAges k.vb
  let ages := ((va ++ vb).foldl (fun (a : List Byte × Nat) e =>
    (a.1 ++ ageBytes e a.2, if e.isSome then a.2 + 1 else a.2)) ([], ncap)).1
  let eng (e : Eng) : Nat := e.st.code
  leBytes 4 0x49454C50 ++ leBytes 1 r.cause ++ leBytes 1 r.stream ++ leBytes 2 n ++ leBytes 1 caps ++ leBytes 1 r.detail
    ++ leBytes 2 ((if k.lease then 1 else 0) + (if k.inter then 2 else 0) + (if k.em.st = .parked then 4 else 0))
    ++ leBytes 1 (delay k.cl) ++ leBytes 1 (delay k.ck) ++ leBytes 1 (delay k.cs) ++ leBytes 1 0
    ++ leBytes 8 k.scyc.toNat ++ leBytes 8 r.addr.toNat
    ++ leBytes 2 (k.sys.rrb % 64 + k.sys.prb % 8 * 256) ++ leBytes 2 r.idx
    ++ leBytes 4 k.sys.vsh.toNat ++ leBytes 4 k.sys.fpctl.toNat ++ leBytes 4 k.sys.fpst.toNat ++ leBytes 4 k.sys.srseed.toNat
    ++ leBytes 4 k.sys.srcnt.toNat ++ leBytes 2 k.cl.tokWord ++ leBytes 2 k.ck.tokWord ++ leBytes 4 k.cs.tokWord
    ++ ([k.cl.pc, k.ck.pc, k.cs.pc, k.e0.pc, k.e1.pc, k.em.pc].map (fun p => leBytes 8 p.toNat)).flatten
    ++ ([k.cl.stCode, k.ck.stCode, k.cs.stCode, eng k.e0, eng k.e1, eng k.em, 0, 0].map (leBytes 1)).flatten
    ++ leBytes 8 k.sys.tvec.toNat ++ x k.cl ++ x k.ck ++ x k.cs
    ++ ((List.range 8).map (fun q => (k.que q).bytes)).flatten
    ++ k.cl.loopBytes ++ k.ck.loopBytes ++ k.cs.loopBytes ++ seqBytes k.ck.seq ++ ages
    ++ ((List.range 4).map (fun p => portBytes (mfind k.ports p))).flatten
    ++ ((List.range 15).map (fun p => leBytes 256 (k.rp (p + 1)).toNat)).flatten ++ leBytes 256 0

/-- Write the stop image, the records and the capture slots (R191, R193). A capture slot's unused tail is a free
value (R195, log 5). -/
def State.writeBay (s : State) (c : Nat) (r : Raise) : State :=
  let k := s.core c
  let (recs, tiles) := s.bayRecs c
  let ages := (k.liveAges k.va ++ k.liveAges k.vb).filterMap id
  let all := tiles ++ ages.map (fun a => (a.tile, a.len))
  let img := k.image r recs.length all.length tiles.length
  let bay := wrBs k.bay 0 img
  let bay := recs.zipIdx.foldl (fun b x => wrBs b (0x1800 + 128 * x.2) x.1.bytes) bay
  let (bay, free) := all.zipIdx.foldl (fun (b : Mem × Nat) x =>
    let n := Nat.min 2048 x.1.2
    let tail := (List.range (2048 - n)).map (fun j => Config.freeByte (b.2 + j))
    (wrBs b.1 (0xF800 - 0x800 * x.2) (leBytes n x.1.1.toNat ++ tail), b.2 + (2048 - n))) (bay, s.free)
  { s.setCore c { k with bay := bay } with free := free }

end Sys2Proof.Machine
end

