-- ==== Sys2Proof/Machine/Resume.lean ====
section
/-! DEFINITION. RESUME (10 R197-R201; 14 R275; 15 R326; 19 R400, R401): the bay is validated, the image reloaded and the
records reissued in record order. -/

namespace Sys2Proof

/-- Queue of an LDQ, QPOP or QPEEK. -/
def Instr.queueOf (i : Instr) : Option (Bool × Nat) :=
  match i with
  | .ldq q _ => some (true, q.toNat)
  | .qpop _ q | .qpeek _ q => some (false, q.toNat)
  | _ => none

end Sys2Proof

namespace Sys2Proof.Machine

/-- A number in the bay. -/
def Core.bayN (k : Core) (off n : Nat) : Nat := rdN k.bay off n
def Core.bayTile (k : Core) (slot : Nat) : Tile := BitVec.ofNat 16384 (k.bayN (0xF800 - 0x800 * slot) 2048)

/-- Record i as it stands in the bay. -/
def Core.recAt (k : Core) (i : Nat) : Rec :=
  let b := 0x1800 + 128 * i
  let n (o m : Nat) : Nat := k.bayN (b + o) m
  ⟨n 0 8, n 8 1, n 9 1, n 10 1, n 11 1, n 12 1, n 13 2, n 15 1, n 16 8, n 24 4, n 28 4, n 32 8, n 40 4, n 44 4, n 48 4, n 52 4,
   n 56 8, (List.range 4).map (fun j => BitVec.ofNat 64 (n (64 + 8 * j) 8)), n 96 16⟩

/-- The instruction a record's OP encodes, of the class its SRC and SLOT take. -/
def Rec.instr (r : Rec) : Option Instr :=
  let cls : Option Cls :=
    if r.src = 0 ∨ r.src = 2 then (if r.slot = 0 then some .sc else if r.slot = 1 then some .mc else none)
    else if r.src = 1 then
      (if r.slot = 0 then some .sc else if r.slot = 1 then some .mc else if r.slot ≤ 3 then some .vc else none)
    else if r.src ≤ 4 then some .copy else if r.src ≤ 6 then some .kiln else none
  match cls with
  | some c => (decodeOpt c r.op).bind (fun i => if i.wf then some i else none)
  | none => none

/-- Registers a fixed or captured record lands in. -/
def Rec.lands (r : Rec) : List RegId :=
  match r.instr with
  | some i => if r.src ≤ 2 ∧ (r.state = 0 ∨ r.state = 3) then
      (i.xDst.filter (· != 0)).map (fun x => (0, 32 * r.src + x.toNat))
        ++ (if r.dest / 2 ^ 24 = 2 ∨ r.dest / 2 ^ 24 = 3 then [(r.dest / 2 ^ 24 - 1, r.dest % 2 ^ 16)] else [])
        ++ (match i with | .vsetsh _ => [(3, 0)] | .vqmx .. => [(1, (nthW r.ops 1).toNat)] | _ => [])
    else []
  | none => []

/-- Bay validation (R197). -/
def Core.bayOk (k : Core) : Bool :=
  let n := k.bayN 6 2
  let c := k.bayN 8 1
  k.bayN 0 4 == 0x49454C50 && bayFits n c &&
  (let recs := (List.range n).map k.recAt
   recs.zipIdx.all (fun e =>
     let r := e.1
     (r.state == 0 || r.state == 1 || r.state == 3 || r.state == 4) && r.instr.isSome
       && [r.caps / 4096 % 16, r.caps / 256 % 16, r.caps / 16 % 16, r.caps % 16, r.capd].all (fun s => s == 15 || s < c)
       && !((r.state == 0 || r.state == 3) && r.remain == 0)
       && (match r.instr.bind Instr.queueOf, r.state with
           | some (false, q), 1 =>
             (match recs[(nthW r.ops 0).toNat]? with
              | some l => (nthW r.ops 0).toNat < e.2 && l.state == 1 && (l.instr.bind Instr.queueOf) == some (true, q)
              | none => false)
           | _, _ => true)
       && (recs.take e.2).all (fun p => !(p.src == r.src && p.pc == r.pc && p.issue == r.issue && p.remain == r.remain
            && p.lands.any (fun x => r.lands.contains x)))))

/-- A capture slot's tile, none for 15. -/
def Core.capOf (k : Core) (s : Nat) : Option Tile := if s = 15 then none else some (k.bayTile s)

/-- The operation a record of a bundle context reissues, numbered `id`; `base` is the number of record 0. -/
def Rec.flight (r : Rec) (k : Core) (i : Instr) (id base : Nat) : Flight :=
  let wait : Bool := match i with | .qpop .. | .qpeek .. => r.state == 1 | _ => false
  let sp : Bool := bits r.ea 62 2 == 1 || (bits r.ea 62 2 == 2 && i.maddr.isSome)
  let fenceLike : Bool := match i with | .fence _ | .syncg _ | .rcfence => true | .stv .. => sp && bits r.ea 62 2 == 1 | _ => wait
  let again : Bool := i.isDiv && r.state == 1
  let a := nthW r.ops 0
  { id := id, i := i, src := r.src, slot := r.slot, pc := BitVec.ofNat 64 r.pc,
    tok := if tbit r.token 7 then some (BitVec.ofNat 2 r.token) else none, issue := r.issue,
    phase := if r.state = 0 then (if i.isSpecial then .sent else .fixed) else if r.state = 3 then .captured else if again then .captured else .unsent,
    remain := if r.state = 0 ∨ r.state = 3 then r.remain else if again then divLat i.signedDiv a else 0,
    live := !(r.state == 1 && fenceLike), fault := 0, prog := r.prog,
    ea := match i with | .vqmx .. => nthW r.ops 1 | _ => BitVec.ofNat 64 (r.ea % 2 ^ 62),
    space := (spaceOf (bits r.ea 62 2)).getD .g, ops := r.ops, cnt := BitVec.ofNat 32 r.cnt, fpctl := BitVec.ofNat 32 r.fpctl,
    vsh := BitVec.ofNat 32 r.vsh, dest := if wait then base + (nthW r.ops 0).toNat else r.dest % 2 ^ 16,
    data := match i with   -- a FSET or FINC carries its stream's releases
      | .fset os .. | .finc os .. => relWide os (k.ctx r.src)
      | _ => if again then (divVal i a (nthW r.ops 1)).toNat else r.data,
    tA := match i with | .stv .. | .stp .. => k.capOf (r.caps / 16 % 16) | _ => k.capOf (r.caps / 4096 % 16),
    tB := k.capOf (r.caps / 256 % 16), tC := k.capOf (r.caps / 16 % 16),
    pr := (k.capOf (r.caps % 16)).map (fun t => t.setWidth 2048), td := k.capOf r.capd,
    wr := match i with | .flueld .. => r.data == 1 | _ => false,
    redo := r.state == 1, again := true }

/-- Own-scratchpad offset of an access. -/
def Flight.spOff (f : Flight) (c : Nat) : Nat :=
  match f.space with | .nb => (nbTarget c f.ea).2 | _ => f.ea.toNat
/-- Whether an access is to the own scratchpad. -/
def Flight.ownSp (f : Flight) (c : Nat) : Bool :=
  f.i.maddr.isSome && (match f.space with
    | .sp => true
    | .nb => f.ea.toNat < 2 ^ 24 && (nbTarget c f.ea).1 == c
    | .g => false)

/-- A queue as the image holds it: reserved entries wait for the LDQs numbered in `ldq`, in order; locks stay. -/
def Core.queueLoad (k : Core) (q : Nat) (ldq : List Nat) : Que :=
  let o := 0x380 + 80 * q
  let old := (k.que q).ents
  let mask := k.bayN (o + 1) 1
  let go := (List.range (Nat.min 8 (k.bayN o 1))).foldl (fun (a : List QEnt × List Nat) j =>
    let lock := (old[j]?).bind (·.lock)
    let pa := (old[j]?).bind (·.lockPa)
    let wait := tbit mask j
    let v := if wait then none else some (BitVec.ofNat 64 (k.bayN (o + 8 + 8 * j) 8))
    (a.1 ++ [{ val := v, src := if wait then a.2.headD 0 else 0, lock := lock, lockPa := pa }],
      if wait then a.2.drop 1 else a.2)) ([], ldq)
  { ents := go.1, fresh := 0 }

/-- A context as the image holds it (R197): its registers, PC, tokens, loops and issue delay. -/
def Core.ctxLoad (k : Core) (x : Nat) (t : Ctx) : Ctx :=
  let tok := k.bayN (if x = 0 then 0x38 else if x = 1 then 0x3A else 0x3C) 2
  { t with
    x := (List.range 31).foldl (fun m j => mput 0 m (j + 1) (BitVec.ofNat 64 (k.bayN (0x80 + 256 * x + 8 * (j + 1)) 8))) [],
    pc := BitVec.ofNat 64 (k.bayN (0x40 + 8 * x) 8),
    delay := k.bayN (0x0C + x) 1,
    tok := (List.range 4).foldl (fun m j => mput 0 m j (bits tok (4 * j) 4)) [],
    loops := (List.range 4).filterMap (fun j =>
      let o := 0x600 + 64 * x + 16 * j
      if k.bayN o 16 = 0 then none
      else some ⟨BitVec.ofNat 64 (k.bayN o 8), k.bayN (o + 8) 4, k.bayN (o + 12) 4⟩),
    seq := if x ≠ 1 ∨ k.bayN 0x6CA 1 = 0 then none
      else some ⟨BitVec.ofNat 64 (k.bayN 0x6C0 8), k.bayN 0x6C8 2, k.bayN 0x6CA 1, k.bayN 0x6CC 4, k.bayN 0x6D0 4, k.bayN 0x6D4 2⟩ }

/-- Ages of a slot from the image and its capture slots; the issue order of its results is the core's own (R112). -/
def Core.agesLoad (k : Core) (v : Nat) (ords : List (Nat × Bool)) : List Age :=
  (List.range 4).filterMap (fun j =>
    let o := 0x700 + 16 * (4 * v + j)
    if k.bayN o 1 = 0 ∨ 15 ≤ k.bayN (o + 1) 1 then none
    else
      let (ord, pack) := (ords[4 * v + j]?).getD (0, false)
      let a : Age := ⟨k.bayTile (k.bayN (o + 1) 1), BitVec.ofNat 32 (k.bayN (o + 4) 4), k.bayN (o + 8) 8, k.bayN (o + 2) 2 + 1, ord, pack⟩
      some { a with tile := BitVec.ofNat 16384 (a.tile.toNat % 2 ^ (8 * a.len)) })

/-- An engine's word in progress continues from its record; a deleted record ends the word (R199, R397). A word that has none because
it was not executed yet is fetched again. -/
def Eng.fromRecs (e : Eng) (src : Nat) (recs : List (Rec × Instr)) : Eng :=
  match e.cur with
  | none => e
  | some w => match recs.find? (fun r => r.1.src == src) with
    | some (r, i) =>
      let copy := src < 5
      { e with cur := some { w with
        i := i, reps := r.prog, chk := match i with | .kmma _ => r.prog / 128 | _ => w.chk,
        piece := if copy then r.data % 2 ^ 32 else 0, buf := if copy ∧ !tbit r.data 32 then none else w.buf } }
    | none => if !e.st.isRun then e else if w.syncWaits then { e with cur := none } else { e with cur := none, pc := e.pc + 8 }

/-- Reload the image and take the records out of the bay: the core, and the operations to send or perform again. -/
def Core.reload (k : Core) (c : Nat) (st : Stop) : Core × List Flight :=
  let n := k.bayN 6 2
  let base := k.nextId
  let recs := ((List.range n).map k.recAt).filterMap (fun r => r.instr.map (fun i => (r, i)))
  let ops := (recs.zipIdx.filter (fun e => e.1.1.src ≤ 2)).map (fun e => (e.1.1, e.1.1.flight k e.1.2 (base + e.2) base))
  let taken := (ops.filterMap (fun e => match e.2.i with | .qpop .. => if e.1.state = 1 then some e.2.dest else none | _ => none))
  let ldqs (q : Nat) : List Nat := ops.filterMap (fun (e : Rec × Flight) =>
    if e.2.i.queueOf == some (true, q) && !taken.contains e.2.id then some e.2.id else none)
  let keep := if k.hmode then k.flights.filter (fun f => isWrite f.i && f.i.atom.isNone && f.phase == .unsent) else []
  let w (o m : Nat) : Nat := k.bayN o m
  let redo := ops.filter (fun e => e.1.state == 4 && e.2.ownSp c)
  let fl := (ops.filter (fun e => !(e.1.state == 4 && e.2.ownSp c))).map (·.2)
  let k' := { k with
    cl := k.ctxLoad 0 k.cl, ck := k.ctxLoad 1 st.k, cs := k.ctxLoad 2 k.cs,
    sys := { k.sys with
      rrb := w 0x20 2 % 64 % 48, prb := w 0x20 2 / 256 % 8, vsh := BitVec.ofNat 32 (w 0x24 4), fpctl := BitVec.ofNat 32 (w 0x28 4),
      fpst := BitVec.ofNat 32 (w 0x2C 4), srseed := BitVec.ofNat 32 (w 0x30 4), srcnt := BitVec.ofNat 32 (w 0x34 4),
      tvec := BitVec.ofNat 64 (w 0x78 8) },
    queues := (List.range 8).foldl (fun m q => mput {} m q (k.queueLoad q (ldqs q))) [],
    p := (List.range 15).foldl (fun m j => mput 0 m (j + 1) (BitVec.ofNat 2048 (w (0x800 + 256 * j) 256))) [],
    va := k.agesLoad 0 st.ords, vb := k.agesLoad 1 st.ords, vaBusy := st.vaBusy, vbBusy := st.vbBusy,
    e0 := k.e0.fromRecs 3 recs, e1 := k.e1.fromRecs 4 recs, em := k.em.fromRecs 5 recs,
    flights := keep ++ fl, nextId := base + n,
    passes := fl.filterMap (fun f =>
      match f.i with
      | .ldv .. => if f.phase = .fixed ∧ f.prog < passesOf (f.i.accSize f.vsh) then some (f.src, f.id, f.prog) else none
      | .stv .. => if f.space ≠ .g ∧ !f.live then some (f.src, f.id, f.prog) else none
      | _ => none),
    stop := none, raises := st.pend, hmode := false, resumed := true, halted := false, hold := none, miss := [], todo := [], refr := false }
  (k', redo.map (·.2))

/-- The drain of a core's kiln continues from its record: the row in progress runs again from its first instruction
with the recorded capture (R370); a deleted one is abandoned. -/
def State.drainLoad (s : State) (c : Nat) (recs : List Rec) : State :=
  if !(s.core c).lease then s
  else match (s.kiln (kilnOf c)).drain with
    | none => s
    | some d => match recs.find? (fun r => r.src == 6) with
      | some r => s.modKiln (kilnOf c) (fun k => { k with drain := some { d with
          row := r.prog, pc := 0, cnt := if flueSr d.prog ∧ d.cnt.isSome then some (BitVec.ofNat 32 r.cnt) else d.cnt } })
      | none => s.retire (kilnOf c) d.bank

/-- RESUME of a core whose bay is valid (R197). -/
def State.resume (s : State) (c : Nat) : State :=
  match (s.core c).stop with
  | none => s
  | some st =>
    let k := s.core c
    let recs := (List.range (k.bayN 6 2)).map k.recAt
    let (k', redo) := k.reload c st
    let s := (s.setCore c k').drainLoad c recs
    let cur := s.cur
    let s := redo.foldl (fun s f =>
      let s := { s with cur := { core := c, src := f.src, slot := f.slot, pc := f.pc, tok := f.tok } }
      let s := spAccess s { f with phase := .fixed } (f.spOff c) true
      s.modCore c (fun k => match f.tok with   -- the image's token counts already hold it (R400)
        | some t => k.modCtx f.src (fun x => { x with tok := mmod 0 x.tok t.toNat (· - 1) })
        | none => k)) s
    { s with cur := cur }

end Sys2Proof.Machine
end

