-- ==== Sys2Proof/Machine/Jobs.lean ====
section
/-! DEFINITION. How the streams of a core end: at a job's end (06 R103), by termination (05 R85) and by containment
(10 R205), with the release of peers (06 R108). -/

namespace Sys2Proof.Machine

/-- Cores whose job, running or switched out, meets a test. -/
def State.coresWith (s : State) (p : Job → Bool) : List Nat :=
  s.cores.filterMap (fun e => match e.2.job with | some j => if p j then some e.1 else none | none => none)
def State.savedWith (s : State) (p : Job → Bool) : List Saved :=
  s.hub.saved.filter (fun v => match v.keep.job with | some j => p j | none => false)

/-- Group-table entries at a job's slots. -/
def Job.entries (j : Job) : List Nat := j.slots.filterMap (fun e => if e.2 = 0 then none else some (e.2 - 1))
def Core.entries (k : Core) : List Nat := match k.job with | some j => j.entries | none => []

/-- The lowest of the codes given to one wait is kept (R108). -/
def minRel (r : Option Nat) (code : Nat) : Option Nat :=
  match r with
  | some q => if code < q % 256 then some code else some q
  | none => some code

/-- Release the waits of a core on a flag, and its waits on a group that holds the peer. -/
def Core.peerGive (k : Core) (ents : List Nat) (code : Nat) : Core :=
  let k := (List.range 3).foldl (fun k x =>
    let t := k.ctx x
    let on (g : BitVec 2) : Bool := match k.grpAt g.toNat with | some e => ents.contains e | none => false
    let hit := match t.wait with
      | some (.flag ..) => true
      | some (.bar g) => on g
      | some (.sgwait g) => on g
      | _ => false
    if hit then k.setCtx x { t with rel := minRel t.rel code } else k) k
  (List.range 3).foldl (fun k e =>
    let x := k.eng e
    match x.cur with
    | some w => match w.i with
      | .cwait .. | .kwait .. => if w.begun then k.setEng e { x with rel := minRel x.rel code } else k
      | _ => k
    | none => k) k

/-- The cores bound to some of these entries, but for `c`, are released with a code (R108). -/
def State.peersGive (s : State) (c : Nat) (ents : List Nat) (code : Nat) : State :=
  if ents.isEmpty then s
  else { s with cores := s.cores.map (fun e =>
    if e.1 ≠ c ∧ e.2.entries.any (fun x => ents.contains x) then (e.1, e.2.peerGive ents code) else e) }

/-- Peers of a core, those that share a bound group with it, are released with a code (R108). -/
def State.peerRelease (s : State) (c code : Nat) : State := s.peersGive c (s.core c).entries code

/-- Stores that stand in the bay, not sent, while a handler runs. -/
def Core.bayStores (k : Core) : List Flight :=
  ((List.range (k.bayN 6 2)).map k.recAt).filterMap (fun r => match r.instr with
    | some i => if r.state = 1 ∧ r.src ≤ 2 ∧ isWrite i ∧ i.atom.isNone then some (r.flight k i k.nextId k.nextId) else none
    | none => none)

/-- Every store issued and not yet accepted is performed, after those of `first`; what cannot be translated is lost with
its job (R85). -/
def State.flushWrites (s : State) (c : Nat) (first : List Flight) : State :=
  let s := (s.freeHeld c true).modCore c (fun k =>
    let l := ((first ++ k.flights).filter (fun (f : Flight) => isWrite f.i && f.phase == .unsent)).zipIdx.map
      (fun e => { e.1 with id := e.2 })
    let k : Core := { k with flights := l }
    let k := l.foldl (fun (k : Core) (f : Flight) =>
      match f.i with
      | .stv .. => if f.ownSp c then
          (List.range (passesOf (f.i.accSize f.vsh) - f.prog)).foldl (fun k j => k.stvPass f (f.spOff c) (f.prog + j)) k else k
      | _ => k) k
    { k with flights := k.flights.map (fun f => { f with remain := 0, live := true }) })
  (s.present c true).modCore c (fun k => { k with flights := [], raises := [], miss := [], passes := [] })

def Ctx.finish (t : Ctx) : Ctx :=
  { t with st := if t.st = .notStarted then .notStarted else .ended, wait := none, rel := none, arrived := false, delay := 0,
           halting := false, seq := none, loops := [], tok := [] }
def Eng.finish (e : Eng) : Eng :=
  { e with st := if e.st = .notStarted then .notStarted else .ended, cur := none, rel := none, page := false, stopReq := false }

/-- The streams of a core have ended: queue entries, port data, bindings, tokens and records are discarded (R103); an unbind's
drain goes on (R317). Every locked line unlocks (R132). -/
def Core.endStreams (k : Core) : Core :=
  { k.dropQueues with
    cl := k.cl.finish, ck := k.ck.finish, cs := k.cs.finish, e0 := k.e0.finish, e1 := k.e1.finish, em := k.em.finish,
    ports := k.ports.filterMap (fun e =>
      if e.2.wr ∧ e.2.endReq ∧ (!e.2.tiles.isEmpty ∨ !e.2.part.isEmpty) then some e else none),
    far := [], back := [], flights := [], passes := [], incs := [], hold := none, miss := [], raises := [], todo := [], stop := none, hmode := false,
    hjob := false, mute := 0, preempt := none, halted := false, attached := false, bps := [], bpskip := [], hreq := false,
    va := [], vb := [], vaBusy := 0, vbBusy := 0, ended := true }

/-- An SREWARD. -/
def HubReq.isReward (r : HubReq) : Bool := match r.i with | .sreward _ => true | _ => false

/-- An SGCANCEL. -/
def HubReq.isCancel (r : HubReq) : Bool := match r.i with | .sgcancel .. => true | _ => false

/-- What a core's write ports have taken has been written. -/
def Core.portsDrained (k : Core) : Bool := k.ports.all (fun p => !p.2.wr || (p.2.tiles.isEmpty && p.2.part.isEmpty))

/-- The hub forgets what a core had asked of it, but with `rew` not a reward that reaches it in this cycle, nor a sibling's own cancel
that has reached it (R84); a fault entry keeps its place without it. -/
def State.dropReqs (s : State) (c : Nat) (rew : Bool) : State :=
  let other (w : Nat × Nat) : Bool := w.2 == 8 || w.1 != c
  s.modHub (fun h => { h with
    reqs := h.reqs.filter (fun r => r.core != c || (rew && (r.isReward && r.left ≤ 1 || r.isCancel && r.left == 0 && (match r.kind with | some (.sibling ..) => true | _ => false)))),
    faults := h.faults.map (fun e => { e with waiters := e.waiters.filter other }),
    fwait := (h.fwait.map (fun e => { e with waiters := e.waiters.filter other })).filter (fun e => !e.waiters.isEmpty),
    sgrps := h.sgrps.map (fun e => (e.1, { e.2 with nwait := e.2.nwait.filter (fun w => w.1 != c) })) })

/-- A lease that a job still holds at its end (R103, R116): an OPEN bank is discarded, a DRAINING one completes; from
handler mode the drain is abandoned with the stop's records. -/
def State.leaseJobEnd (s : State) (c : Nat) (abandon : Bool) : State :=
  let s := s.leaseDrop c
  if (s.core c).lease then
    let kn := kilnOf c
    let s := s.discardOpen kn
    let s := if abandon then s.modKiln kn (fun k => { k with b0 := {}, b1 := {}, drain := none }) else s
    s.leaseEndWhen kn 3
  else s

/-- The job of a core ends of itself (R103). -/
def State.jobEnd (s : State) (c : Nat) : State :=
  (s.leaseJobEnd c (s.core c).hmode).modCore c Core.endStreams

/-- Terminate the streams of a core (R85): its peers get a code, its stores are performed, a retirement in progress
completes. -/
def State.killCore (s : State) (c code : Nat) : State :=
  if (s.core c).job.isNone ∨ (s.core c).ended then s
  else if (s.core c).starting then
    s.modCore c (fun k => { k with starting := false, ended := true })
  else
    let k := s.core c
    let s := ((s.peerRelease c code).flushWrites c (if k.hmode then k.bayStores else [])).leaseJobEnd c k.hmode
    (s.dropReqs c false).modCore c Core.endStreams

/-- Give back the group-table entries of a job that is no more; an entry is freed with its last member's job (R76). The
entry of a sample group goes with the group. -/
def State.freeEntries (s : State) (ents : List Nat) : State :=
  ents.foldl (fun s e =>
    if (s.grp e).kind = 3 then s
    else if (s.coresWith (fun j => j.entries.contains e)).isEmpty ∧ (s.savedWith (fun j => j.entries.contains e)).isEmpty then
      s.modHub (fun h => { h with groups := mdel h.groups e })
    else s) s

/-- The ember bay that a save area holds: stop image, records and capture slots (Table 10-4). -/
def savedBay (b : List Byte) (n cap : Nat) : Mem :=
  let caps := b.drop (0x1E90 + 128 * n)
  let bay := wrBs (wrBs ([] : Mem) 0 ((b.drop 0x690).take 0x1800)) 0x1800 ((b.drop 0x1E90).take (128 * n))
  (List.range cap).foldl (fun m i => wrBs m (0xF800 - 0x800 * i) ((caps.drop (2048 * i)).take 2048)) bay

/-- The save area of a switched-out job, read back from its world's memory (R203). -/
def State.savedArea (s : State) (v : Saved) : List Byte := s.plainRd v.keep.world.toNat v.pa v.len

/-- Reading the area back is an access of the hub (R57). -/
def State.areaSees (s : State) (v : Saved) : State := (s.rangeAccess 4 0 v.keep.world.toNat v.pa v.len false).1

/-- Switched-out jobs are terminated (R85): their peers get a code, and stores that the save area holds as not sent are performed. -/
def State.killSaved (s : State) (p : Job → Bool) (code : Nat) : State :=
  let l := s.savedWith p
  let s := s.modHub (fun h => { h with saved := h.saved.filter (fun v => match v.keep.job with | some j => !p j | none => true) })
  let s := l.foldl (fun s v =>
    let s := (s.areaSees v).peersGive 512 v.keep.entries code
    let old := s.core v.core
    let k := { v.keep with bay := savedBay (s.savedArea v) v.ncore v.ncap }
    let s := (s.setCore v.core k).flushWrites v.core k.bayStores
    let late := (s.core v.core).wq.map (fun w => { w with dead := v.keep.job.map (·.kind) })
    s.setCore v.core { old with wq := old.wq ++ late }) s
  l.foldl (fun s v => s.freeEntries v.keep.entries) s

/-- Stores of jobs terminated while switched out are still to be applied. -/
def State.deadWrites (s : State) (p : JobKind → Bool) : Bool := s.cores.any (fun e => e.2.wq.any (fun w => w.dead.any p))

/-- The core holds no job any more. -/
def State.freeCore (s : State) (c : Nat) : State :=
  let k := s.core c
  let s := s.setCore c { k with job := none, ended := false, failed := false, starting := false }
  s.freeEntries k.entries

/-- Every write of a core's job has been applied or acknowledged, its sends included, and its lease is over (R163). -/
def State.jobQuiet (s : State) (c : Nat) : Bool :=
  let k := s.core c
  k.wq.isEmpty && !k.lease && k.ports.isEmpty && s.hub.units.all (fun u => u.src != c) && s.hub.fincs.all (fun f => f.src / 4 != c)

end Sys2Proof.Machine
end

