-- ==== Sys2Proof/Machine/Queues.lean ====
section
/-! DEFINITION. User queues (02 R27-R32; 04 R65): descriptors, indices, notifies, hardware slots and queue stops. -/

namespace Sys2Proof.Machine

def State.uq (s : State) (q : Nat) : UQueue := mget {} s.hub.queues q
def State.modUq (s : State) (q : Nat) (f : UQueue → UQueue) : State :=
  s.modHub (fun h => { h with queues := mset h.queues q (f (mget {} h.queues q)) })

/-- A little-endian field of a block of bytes. -/
def fld (b : List Byte) (off n : Nat) : Nat := leNat ((b.drop off).take n)
def fldW (b : List Byte) (off : Nat) : Word := BitVec.ofNat 64 (fld b off 8)

/-- The descriptor as it lies in memory, and a 32-bit write to it. -/
def State.qdRaw (s : State) (q : Nat) : List Byte := s.rawRd (s.qdAddr q) 64
def State.qdWr (s : State) (q off : Nat) (v : BitVec 32) : State := s.rawWr (s.qdAddr q + off) (leBytes 4 v.toNat)

/-- The slot a queue is mapped on. -/
def State.hslot (s : State) (q : Nat) : Option HSlot := (s.uq q).slot.bind (fun n => mfind s.hub.hslots n)
def State.modHslot (s : State) (n : Nat) (f : HSlot → HSlot) : State :=
  s.modHub (fun h => match mfind h.hslots n with
    | some x => { h with hslots := mset h.hslots n (f x) }
    | none => h)

/-- WIDX, RIDX and CIDX: in the slot while mapped, else in the descriptor. -/
def State.qIdx (s : State) (q : Nat) : BitVec 32 × BitVec 32 × BitVec 32 :=
  match s.hslot q with
  | some h => (h.widx, h.ridx, h.cidx)
  | none =>
    let b := s.qdRaw q
    (BitVec.ofNat 32 (fld b 0x10 4), BitVec.ofNat 32 (fld b 0x14 4), BitVec.ofNat 32 (fld b 0x18 4))
def State.setRidx (s : State) (q : Nat) (v : BitVec 32) : State :=
  match (s.uq q).slot with
  | some n => s.modHslot n (fun h => { h with ridx := v })
  | none => s.qdWr q 0x14 v
/-- CIDX also shows in the descriptor, where a host reads it (R34). -/
def State.setCidx (s : State) (q : Nat) (v : BitVec 32) : State :=
  let s := match (s.uq q).slot with
    | some n => s.modHslot n (fun h => { h with cidx := v })
    | none => s
  s.qdWr q 0x18 v

/-- Entries written and not fetched. -/
def State.qPending (s : State) (q : Nat) : Nat := let (w, r, _) := s.qIdx q; (w - r).toNat

def qDescOf (b : List Byte) : QDesc :=
  { base := fldW b 0, log := fld b 8 1, prio := fld b 9 1, world := BitVec.ofNat 10 (fld b 10 2), vec := fld b 12 2,
    irq := tbit (fld b 14 1) 0 }

/-- Whether a world takes jobs (R50). -/
def State.worldOpen (s : State) (w : Nat) : Bool := w == 0 || (s.world w).st == 2 || (s.world w).st == 3

/-- Descriptor validation (R28, R30, R50). -/
def State.qDescOk (s : State) (b : List Byte) : Bool :=
  let w := fld b 10 2
  let (wi, ri, ci) := (BitVec.ofNat 32 (fld b 0x10 4), BitVec.ofNat 32 (fld b 0x14 4), BitVec.ofNat 32 (fld b 0x18 4))
  let lg := fld b 8 1
  fld b 0 8 % 4096 == 0 && fld b 0 8 < 2 ^ 56 && 4 ≤ lg && lg ≤ 16 && fld b 9 1 ≤ 7 && w ≤ 1023 && fld b 12 2 ≤ 2047
    && fld b 14 1 < 2 && !(fld b 14 1 == 1 && fld b 12 2 == 0) && fld b 15 1 == 0 && fld b 0x20 32 == 0 && s.worldOpen w
    && (ri - ci).toNat ≤ (wi - ci).toNat && (wi - ci).toNat ≤ 2 ^ lg

/-- A queue becomes ready (R65). -/
def State.qReady (s : State) (q : Nat) : State :=
  if (s.uq q).ready then s
  else (s.modUq q (fun u => { u with ready := true, since := s.hub.order })).modHub (fun h => { h with order := h.order + 1 })

/-- Steps of an OPB still to be placed; an OPB that has failed claims none (R73). -/
def Opb.left (o : Opb) : Bool := !o.stopCl && (o.next < o.n || !o.claimed.isEmpty)

/-- A fetched OPB of the queue has steps left (log 20). -/
def State.qUnplaced (s : State) (q : Nat) : Bool :=
  (s.uq q).opbs.any (fun n => match mfind s.hub.opbs n with | some o => o.left | none => false)

/-- Unmap a queue (R32): RIDX and CIDX go back to the descriptor, WIDX never does. -/
def State.qUnmap (s : State) (q : Nat) : State :=
  match (s.uq q).slot, s.hslot q with
  | some n, some h =>
    let s := (s.qdWr q 0x14 h.ridx).qdWr q 0x18 h.cidx
    let s := (s.modUq q (fun u => { u with slot := none })).modHub (fun x => { x with hslots := mdel x.hslots n })
    if ((h.widx - h.ridx).toNat > 0 ∨ s.qUnplaced q) ∧ (s.uq q).en then s.qReady q else s
  | _, _ => s

/-- RUN ends when no queue is enabled and no OPB is in flight (R21). -/
def State.hifIdle (s : State) : State :=
  if s.hub.hif = 3 ∧ s.hub.queues.all (fun e => !e.2.en) ∧ s.hub.opbs.isEmpty then s.modHub (fun h => { h with hif := 2 }) else s

/-- Disable a queue (R30): it fetches nothing more and is unmapped; OPBs already fetched run on. -/
def State.qDisable (s : State) (q : Nat) : State :=
  ((s.modUq q (fun u => { u with en := false, ready := false })).qUnmap q).hifIdle

/-- Stop a queue with QERR (R30, R64): `code` is the refusal code; the class 2 entry names the requester and its world, the queue's
where the hub stops it on its own account. -/
def State.qStop (s : State) (q qerr code req : Nat) (addr : Word) (w status : Nat) : State :=
  let s := (s.qDisable q).qdWr q 0x1C (BitVec.ofNat 32 qerr)
  s.logErr 2 req addr (BitVec.ofNat 32 (code * 2 ^ 16 + qerr * 2 ^ 12 + q)) w status

/-- A notify of queue q with V (R31, R32): the status it completes with. -/
def State.notify (s : State) (q : Nat) (v : BitVec 32) (req : Nat) (addr : Word) (world : Nat) : State × Nat :=
  if !(s.uq q).en then (s.logErr 1 req addr 0 world 5, 5)
  else
    let (w, r, _) := s.qIdx q
    let d := (v - r).toNat
    if (w - r).toNat ≤ d ∧ d ≤ 2 ^ (s.uq q).d.log then
      let s := s.qdWr q 0x10 v
      match (s.uq q).slot with
      | some n => (s.modHslot n (fun h => { h with widx := v }), 0)
      | none => (if 0 < d then s.qReady q else s, 0)
    else (s.qStop q 2 0 req addr world 7, 7)

/-- LAUNCH and launch packets (R78, R80): append an OPB address and notify, as one step of the queue. -/
def State.launchAt (s : State) (q world : Nat) (opb : Word) : State × Nat :=
  let u := s.uq q
  let (w, r, _) := s.qIdx q
  let at' := u.d.base.toNat + 8 * (w.toNat % 2 ^ u.d.log)
  if !u.en then (s, 2)
  else if u.d.world.toNat ≠ world then (s, 3)
  else if opb.toNat % 256 ≠ 0 then (s, 4)
  else if !s.hubWritable world at' 8 then ((s.agentPart 4 0 world at' 8 true { w := true }).1, 5)   -- a refusal has its entry (R41)
  else if 2 ^ u.d.log < (w + 1 - r).toNat then (s, 1)
  else ((s.hubWr world at' (leBytes 8 opb.toNat)).notify q (w + 1) (reqCode 4 0) 0 world |>.1, 0)

/-- A mapped queue without a pending entry and without an undispatched step of a fetched OPB is idle (R65). -/
def State.qIdle (s : State) (q : Nat) : Bool :=
  s.qPending q == 0 && !s.qUnplaced q
    && s.hub.sgrps.all (fun e => (mfind s.hub.opbs e.2.opb).all (fun o => o.q != q)
      || (e.2.st != 1 && s.hub.sibq.all (fun x => x.1 != e.1)))

/-- Since when each slot is idle. -/
def State.idleMarks (s : State) : State :=
  s.hub.hslots.foldl (fun s e =>
    if s.qIdle e.2.q then
      if e.2.idle.isSome then s else (s.modHslot e.1 (fun h => { h with idle := some s.hub.order })).modHub (fun h => { h with order := h.order + 1 })
    else if e.2.idle.isSome then s.modHslot e.1 (fun h => { h with idle := none }) else s) s

/-- The least element by a key, the first among equals. -/
def leastBy {α : Type} (k : α → Nat) : List α → Option α
  | [] => none
  | a :: l => match leastBy k l with
    | some b => if k b < k a then some b else some a
    | none => some a

/-- The ready queue that is mapped next: highest PRIO, then ready earliest (R65). -/
def State.nextReady (s : State) : Option Nat :=
  (leastBy (fun (e : Nat × UQueue) => (7 - e.2.d.prio) * 2 ^ 64 + e.2.since)
    (s.hub.queues.filter (fun e => e.2.en && e.2.ready && e.2.slot.isNone))).map (·.1)

/-- The slot it takes, with the queue unmapped for it: a free slot, the one idle longest, or that of the mapped queue of
lower PRIO. -/
def State.slotFor (s : State) (q : Nat) : Option (Nat × Option Nat) :=
  match (List.range 64).find? (fun n => (mfind s.hub.hslots n).isNone) with
  | some n => some (n, none)
  | none =>
    match leastBy (fun (e : Nat × HSlot) => e.2.idle.getD 0) (s.hub.hslots.filter (fun e => e.2.idle.isSome)) with
    | some e => some (e.1, some e.2.q)
    | none =>
      match leastBy (fun (e : Nat × HSlot) => (s.uq e.2.q).d.prio * 2 ^ 64 + e.2.since) s.hub.hslots with
      | some e => if (s.uq e.2.q).d.prio < (s.uq q).d.prio then some (e.1, some e.2.q) else none
      | none => none

/-- Map a queue on a slot: its descriptor is read again and validated (R28). -/
def State.qMap (s : State) (q n : Nat) : State :=
  let b := s.qdRaw q
  let s := s.modUq q (fun u => { u with ready := false })
  if s.qDescOk b then
    let (w, r, c) := s.qIdx q
    let s := s.modUq q (fun u => { u with slot := some n, d := qDescOf b })
    s.modHub (fun h => { h with
      hslots := mset h.hslots n ⟨q, w, r, c, h.order, none⟩, defs := mdel h.defs n, order := h.order + 1 })
  else s.qStop q 1 0 (reqCode 4 0) 0 (s.uq q).d.world.toNat 0

/-- QUEUE_MAP (R65). -/
def execQueueMap (s : State) : Res :=
  let s := s.idleMarks
  match s.nextReady with
  | none => .fault .notEnabled
  | some q =>
    match s.slotFor q with
    | none => .fault .notEnabled
    | some (n, v) =>
      let s := match v with | some p => s.qUnmap p | none => s
      .next (s.qMap q n)

end Sys2Proof.Machine
end

