-- ==== Sys2Proof/Machine/Opb.lean ====
section
/-! DEFINITION. Operator parameter blocks as the scheduler reads them (04 R63, R64, R76, R412; 05 R82, R90). Where several
refusal codes apply the lowest is given, an unreadable block first; but a SGDESC that is misaligned or not mapped counts as an
invalid SGDESC, code 7 (log 19). -/

namespace Sys2Proof.Machine

/-- The job image record (R246), as far as the hub uses it. -/
structure ImageRec where
  flags : Nat
  step  : BitVec 16
  entry : List Word                -- L, K, S, C0, C1
  mask  : Word
  nsafe : Nat
  flue  : Word
  fslot : BitVec 8
  pref  : List (Nat × Nat)

def imageOf (b : List Byte) : ImageRec :=
  { flags := fld b 5 1, step := BitVec.ofNat 16 (fld b 6 2), entry := (List.range 5).map (fun k => fldW b (8 + 8 * k)),
    mask := fldW b 0x30, nsafe := fld b 0x38 2, flue := fldW b 0x40, fslot := BitVec.ofNat 8 (fld b 0x48 1),
    pref := (List.range 2).map (fun k => (fld b (0x50 + 16 * k) 8, fld b (0x58 + 16 * k) 8)) }
/-- R412. -/
def imageOk (b : List Byte) : Bool :=
  let r := imageOf b
  fld b 0 4 == 0x494A4C50 && fld b 4 1 == 1 && r.flags < 4 && fld b 0x49 7 == 0 && fld b 0x70 16 == 0
    && (r.entry.take 3).any (fun e => e != 0) && (tbit r.flags 1 || r.step == Config.stepping)

/-- A group definition (R76): slot, mode, BWDOG, mask. -/
def groupDef (b : List Byte) : Nat × Nat × Nat × Nat := (fld b 0 1, fld b 1 1, fld b 4 4, fld b 16 64)
def groupsOf (b : List Byte) (n : Nat) : List (Nat × Nat × Nat × Nat) := (List.range n).map (fun k => groupDef (b.drop (80 * k)))
def groupsOk (b : List Byte) (n cps steps : Nat) (gang : Bool) : Bool :=
  let l := groupsOf b n
  let slots := l.map (·.1)
  slots.length == slots.eraseDups.length && (List.range n).all (fun k =>
    let d := b.drop (80 * k)
    let g := groupDef d
    g.1 ≤ 3 && g.2.1 ≤ 1 && fld d 2 2 == 0 && fld d 8 8 == 0 && (g.2.1 == 0 || gang) && g.2.2.2 != 0
      && g.2.2.2 < 2 ^ (if g.2.1 = 0 then cps else steps * cps))

/-- Number of set bits. -/
def popN (n v : Nat) : Nat := ((List.range n).filter (fun i => tbit v i)).length

/-- The fields of an OPB. -/
def opbOf (b : List Byte) (q : Nat) (index : BitVec 32) (addr : Word) (world : BitVec 10) (prio : Nat) (mask : Nat)
    (gb : List Byte) (inter : Bool) : Opb :=
  let ext := (List.range 6).map (fun d => fld b (0x20 + 4 * d) 4)
  { q := q, index := index, addr := addr, world := world, prio := prio, flags := fld b 6 1, ndim := fld b 5 1, ext := ext,
    n := ext.foldl (· * ·) 1, cps := fld b 8 2, place := fld b 10 1, mask := BitVec.ofNat 512 mask,
    l1g := if fld b 11 1 = 0 then 5 else fld b 11 1, wdog := if fld b 12 1 = 0 then 32 else fld b 12 1, image := fldW b 0x10,
    inter := inter, progress := fldW b 0x18, args := (List.range 8).map (fun k => fldW b (0x40 + 8 * k)),
    waits := (List.range (fld b 7 1)).map (fun j => (fldW b (0x80 + 16 * j), fldW b (0x88 + 16 * j))), sat := [], retry := [],
    cdone := fldW b 0xC0, cinc := fldW b 0xC8, groups := groupsOf gb (fld b 13 1), sgdesc := fldW b 0xD8, next := 0,
    claimed := [], running := [], done := 0, finish := [], bad := [], failed := 0, stopCl := false, tour := none, starts := [],
    page := none }

/-- Read and check an OPB but for SGDESC's block: a refusal code or the OPB (Table 4-2). -/
def State.opbRead (s : State) (q : Nat) (index : BitVec 32) (addr : Word) (world : BitVec 10) (prio : Nat) : Except Nat Opb :=
  let w := world.toNat
  if addr.toNat % 256 ≠ 0 then .error 4
  else match s.hubRd w addr.toNat 256 with
  | none => .error 4
  | some b =>
    let ext := (List.range 6).map (fun d => fld b (0x20 + 4 * d) 4)
    let n := ext.foldl (· * ·) 1
    let ndim := fld b 5 1
    let flags := fld b 6 1
    let nwait := fld b 7 1
    let cps := fld b 8 2
    let place := fld b 10 1
    let l1g := fld b 11 1
    let wdog := fld b 12 1
    let ng := fld b 13 1
    let image := fld b 0x10 8
    let prog := fld b 0x18 8
    let pm := fld b 0x38 8
    let cdone := fld b 0xC0 8
    let ga := fld b 0xD0 8
    let mask := if place = 3 then (s.hubRd w pm 64).map leNat else some 0
    let gang := tbit flags 1
    if fld b 0 4 ≠ 0x424F4C50 ∨ fld b 4 1 ≠ 1 then .error 1
    else if ndim < 1 ∨ 6 < ndim ∨ ext.any (· == 0) ∨ (ext.drop ndim).any (· != 1) ∨ 4 < nwait ∨ 2 ^ 28 < n then .error 2
    else if cps < 1 ∨ 64 < cps ∨ 3 < place ∨ (l1g ≠ 0 ∧ (l1g < 5 ∨ 32 < l1g)) ∨ (wdog ≠ 0 ∧ (wdog < 16 ∨ 48 < wdog))
        ∨ (place = 2 ∧ cps % 4 ≠ 0) ∨ (place = 3 ∧ (match mask with | some m => popN 512 m < cps | none => false : Bool))
        ∨ (gang ∧ 512 < n * cps) then .error 3
    else
      let waitOk := (List.range nwait).all (fun j =>
        fld b (0x80 + 16 * j) 8 % 8 == 0 && (s.hubRd w (fld b (0x80 + 16 * j) 8) 8).isSome)
      let img := s.hubRd w image 128
      let gb := if ng = 0 ∨ 4 < ng then some [] else s.hubRd w ga (80 * ng)
      if image % 64 ≠ 0 ∨ img.isNone ∨ prog % 8 ≠ 0 ∨ !s.hubWritable w prog ((n + 7) / 8) ∨ mask.isNone ∨ !waitOk
          ∨ cdone % 8 ≠ 0 ∨ (cdone ≠ 0 ∧ !s.hubWritable w cdone 8) ∨ gb.isNone then .error 4
      else if 16 ≤ flags ∨ (tbit flags 2 ∧ tbit flags 3) ∨ fld b 14 2 ≠ 0 ∨ fld b 0xE0 32 ≠ 0 ∨ (place ≠ 3 ∧ pm ≠ 0)
          ∨ fld (b.drop (0x80 + 16 * nwait)) 0 (0x40 - 16 * nwait) ≠ 0 ∨ (ga == 0) != (ng == 0)
          ∨ (fld b 0xD8 8 ≠ 0 ∧ !tbit flags 2 ∧ !tbit flags 3) then .error 5
      else if 4 < ng ∨ !groupsOk (gb.getD []) ng cps n gang then .error 6
      else if !imageOk (img.getD []) then .error 9
      else
        let r := imageOf (img.getD [])
        .ok (opbOf b q index addr world prio (mask.getD 0) (gb.getD []) (tbit r.flags 0 || r.step != Config.stepping))

/-- The template rule of R82. -/
def Opb.isTemplate (o : Opb) : Bool :=
  o.ndim == 1 && o.n == 1 && o.flags == 0 && o.waits.isEmpty && o.cdone == 0
def State.template (s : State) (world : BitVec 10) (addr : Word) (prio : Nat) : Option Opb :=
  match s.opbRead 0 0 addr world prio with
  | .ok o => some o
  | .error _ => none

/-- A sample-group descriptor is valid (R82). -/
def State.sgDescOk (s : State) (world : BitVec 10) (a : Word) : Bool :=
  a.toNat % 64 == 0 && (match s.hubRd world.toNat a.toNat 64 with
    | none => false
    | some d =>
      let mn := fld d 5 1
      let mx := fld d 6 1
      let eps := fld d 0x20 4
      let out := fld d 0x10 8
      fld d 0 4 == 0x47534C50 && fld d 4 1 == 1 && fld d 7 1 == 0 && fld d 0x24 4 == 0 && fld d 0x30 16 == 0
        && 1 ≤ mn && mn ≤ mx && mx ≤ 64 && bits eps 23 8 != 255 && (!tbit eps 31 || eps == 2 ^ 31)
        && out % 16 == 0 && s.hubWritable world.toNat out (16 * mx)
        && (match s.template world (fldW d 8) 0 with | some t => t.isTemplate | none => false))

/-- A tournament descriptor is valid (R90). -/
def State.tourDescOk (s : State) (world : BitVec 10) (o : Opb) (a : Word) : Bool :=
  o.n == 1 && o.cps == 1 && a.toNat % 64 == 0 && (match s.hubRd world.toNat a.toNat 288 with
    | none => false
    | some d =>
      let nriv := fld d 5 1
      let nround := fld d 6 1
      let a0 := fld d 8 8
      fld d 0 4 == 0x53544C50 && fld d 4 1 == 1 && 2 ≤ nriv && nriv ≤ 16 && 1 ≤ nround && nround ≤ 12 && 1 ≤ a0
        && a0 * 2 ^ (nround - 1) < 2 ^ 63 && fld d 7 1 < 4 && fld d 0x10 8 % 32 == 0 && fld d 0x18 8 == 0
        && fld (d.drop (0x20 + 16 * nriv)) 0 (256 - 16 * nriv) == 0
        && (List.range nriv).all (fun j =>
          (match s.template world (fldW d (0x20 + 16 * j)) 0 with
            | some t => tbit t.flags 1 && !tbit t.flags 2 && !tbit t.flags 3 && t.groups.all (fun g => g.1 != 3)
            | none => false)
          && (match s.template world (fldW d (0x28 + 16 * j)) 0 with | some t => t.isTemplate | none => false)))

/-- Read and validate an OPB (R64). -/
def State.opbCheck (s : State) (q : Nat) (index : BitVec 32) (addr : Word) (world : BitVec 10) (prio : Nat) : Except Nat Opb :=
  match s.opbRead q index addr world prio with
  | .error e => .error e
  | .ok o =>
    if tbit o.flags 2 ∧ !s.sgDescOk world o.sgdesc then .error 7
    else if tbit o.flags 3 ∧ !s.tourDescOk world o o.sgdesc then .error 7
    else .ok o

def State.opb (s : State) (n : Nat) : Option Opb := mfind s.hub.opbs n
def State.modOpb (s : State) (n : Nat) (f : Opb → Opb) : State :=
  s.modHub (fun h => match mfind h.opbs n with
    | some o => { h with opbs := mset h.opbs n (f o) }
    | none => h)

/-- The OPBs of a queue in flight, in ring order. -/
def State.qOpbs (s : State) (q : Nat) : List (Nat × Opb) := (s.uq q).opbs.filterMap (fun n => (s.opb n).map (fun o => (n, o)))

/-- Whether the ring entry at the head may be fetched now: in RUN (R21, R22), with the queue mapped and every step of the OPBs before it
dispatched (R64, R66). -/
def State.fetchable (s : State) (q : Nat) : Bool :=
  s.hub.hif == 3 && (s.uq q).en && (s.uq q).slot.isSome && s.qPending q != 0
    && (s.qOpbs q).all (fun o => o.2.failed == 0 && !o.2.left)

/-- What the scheduler reads of an OPB in a world, as it validates it (R57, R64). -/
def State.opbReads (s : State) (w : Nat) (addr : Nat) : State :=
  let b := (s.hubRd w addr 256).getD []
  let s := s.hubSees w addr 256
  let more (s : State) (yes : Bool) (a n : Nat) : State := if yes then s.hubSees w a n else s
  let s := more s (fld b 10 1 == 3) (fld b 0x38 8) 64
  let s := more s (fld b 0x10 8 != 0) (fld b 0x10 8) 128
  let s := more s (fld b 13 1 != 0 && fld b 13 1 ≤ 4) (fld b 0xD0 8) (80 * fld b 13 1)
  more s (fld b 0xD8 8 != 0) (fld b 0xD8 8) (if tbit (fld b 6 1) 3 then 288 else 64)

/-- OPB_FETCH (R29, R64): of queue `Inp.idx`. -/
def execOpbFetch (s : State) : Res :=
  let q := s.inp.idx
  if !s.fetchable q then .fault .notEnabled
  else
    let u := s.uq q
    let (_, r, _) := s.qIdx q
    let at' := u.d.base.toNat + 8 * (r.toNat % 2 ^ u.d.log)
    let w := u.d.world.toNat
    match s.hubRd w at' 8 with
    | none => .next ((s.hubSees w at' 8).qStop q 1 0 (reqCode 4 0) (BitVec.ofNat 64 at') w 0)
    | some b =>
      let s := (s.hubSees w at' 8).setRidx q (r + 1)
      let e := leNat b
      let a := BitVec.ofNat 64 e
      if 2 ^ 56 ≤ e then .next (s.qStop q 3 5 (reqCode 4 0) a w 0)
      else if e % 256 ≠ 0 then .next (s.qStop q 3 4 (reqCode 4 0) a w 0)
      else match s.opbCheck q r a u.d.world u.d.prio with
        | .error c => .next ((s.opbReads w e).qStop q 3 c (reqCode 4 0) a w 0)
        | .ok o =>
          let s := s.opbReads w e
          let n := s.hub.nextOpb
          .next ((s.modHub (fun h => { h with opbs := mset h.opbs n o, nextOpb := n + 1 })).modUq q (fun u => { u with opbs := u.opbs ++ [n] }))

end Sys2Proof.Machine
end

