-- ==== Sys2Proof/Machine/Samples.lean ====
section
/-! DEFINITION. Sample groups at the hub (05 R82-R89; 22 R403-R405): siblings, the ends they come to, the collection. -/

namespace Sys2Proof.Machine

/-- FP32 operations that round once, RNE, keep subnormals and ignore FPCTL (R89). -/
def f32op (x : FV × Nat) : Nat := (finishFP .fp32 .rne false 0 x).1
def f32v (c : Nat) : FV := valOf .fp32 c
def f32sub (a b : Nat) : Nat := f32op (fvAdd .rne (f32v a) (fvNeg (f32v b)))
def f32div (a b : Nat) : Nat := f32op (fvDiv (f32v a) (f32v b))
def f32sqrt (a : Nat) : Nat := f32op (fvSqrt (f32v a))
def f32fma (a b c : Nat) : Nat := f32op (fvFma .rne (f32v a) (f32v b) (f32v c))
def f32ofNat (n : Nat) : Nat := f32op (.fin false n 0, 0)
def f32finite (c : Nat) : Bool := bits c 23 8 != 255

/-- The status of a group and the advantages of its rewarded siblings, given as (index, reward) in ascending index (R89). -/
def advantages (minrew eps : Nat) (l : List (Nat × Nat)) : Nat × List (Nat × Nat) :=
  let m := f32ofNat l.length
  if l.length < minrew then (2, [])
  else
    let mean := f32div (l.foldl (fun a r => fp32Add a r.2) 0) m
    let ss := l.foldl (fun a r => let d := f32sub r.2 mean; f32fma d d a) 0
    let var := f32div ss m
    if !f32finite mean ∨ !f32finite var then (3, [])
    else if var % 2 ^ 31 = 0 then (1, [])
    else
      let den := fp32Add (f32sqrt var) eps
      (0, l.map (fun r => (r.1, f32div (f32sub r.2 mean) den)))

def State.sg (s : State) (n : Nat) : Option SGrp := mfind s.hub.sgrps n
def State.modSg (s : State) (n : Nat) (f : SGrp → SGrp) : State :=
  s.modHub (fun h => match mfind h.sgrps n with
    | some g => { h with sgrps := mset h.sgrps n (f g) }
    | none => h)
def SGrp.sib (g : SGrp) (i : Nat) : Sib := mget {} g.sibs i
def SGrp.modSib (g : SGrp) (i : Nat) (f : Sib → Sib) : SGrp := { g with sibs := mset g.sibs i (f (g.sib i)) }
def isSibOf (n i : Nat) (j : Job) : Bool := j.kind == .sibling n i
def JobKind.inGrp (n : Nat) : JobKind → Bool | .sibling m _ => m == n | _ => false
def isSibIn (n : Nat) (j : Job) : Bool := j.kind.inGrp n

/-- A reward of the sibling has reached the hub, where it waits for the sibling's stores (R85, R405), or its own cancel did so in an
earlier cycle: it has decided the state (R84). -/
def State.rewHeld (s : State) (n i : Nat) : Bool :=
  s.hub.reqs.any (fun r => (r.left == 0 && r.isReward || r.here && r.isCancel) && r.kind == some (.sibling n i))

/-- A sibling enters a terminal state (R84, R85): its streams end on every core, and its peers get a code. -/
def State.sibEnd (s : State) (n i st code : Nat) : State :=
  match s.sg n with
  | none => s
  | some g =>
    if (g.sib i).st ≠ 0 then s
    else
      let s := s.modSg n (fun g => g.modSib i (fun b => { b with st := st, running := false, paused := false }))
      let s := s.modHub (fun h => { h with
        sibq := h.sibq.filter (fun e => e != (n, i)), reqs := h.reqs.filter (fun r => r.kind != some (.sibling n i)) })
      let s := (s.coresWith (isSibOf n i)).foldl (fun s c => s.killCore c code) s
      s.killSaved (isSibOf n i) code

/-- A reward reaches the hub (R84, R85). -/
def State.sibReward (s : State) (n i : Nat) (r : BitVec 32) : State :=
  match s.sg n with
  | none => s
  | some g =>
    if (g.sib i).st ≠ 0 then s
    else
      let s := s.modSg n (fun g => g.modSib i (fun b => { b with reward := r }))
      s.sibEnd n i (if f32finite r.toNat then 1 else 5) 2

/-- A core of a sibling is contained (R84): the hub decides in its cycle, after the rewards that reach it then. -/
def State.sibFail (s : State) (n i : Nat) : State := s.modSg n (fun g => g.modSib i (fun b => { b with fail := true }))

/-- Siblings that are not terminal. -/
def SGrp.open' (g : SGrp) : List Nat := (List.range g.n).filter (fun i => (g.sib i).st == 0)

/-- Those of them whose state no reward at the hub has decided. -/
def State.sgOpen (s : State) (n : Nat) : List Nat :=
  match s.sg n with
  | some g => g.open'.filter (fun i => !s.rewHeld n i)
  | none => []

/-- Siblings with a contained core are FAILED (R84). -/
def State.sgFails (s : State) (n : Nat) : State :=
  (s.sgOpen n).foldl (fun s i => if (s.sg n).any (fun g => (g.sib i).fail) then s.sibEnd n i 4 1 else s) s

/-- Cancel every sibling that is not terminal. -/
def State.sgCancelAll (s : State) (n : Nat) : State := (s.sgOpen n).foldl (fun s i => s.sibEnd n i 2 2) s

/-- Sample groups of which a core's job is part of the parent step. -/
def State.parentOf (s : State) (c : Nat) : List Nat :=
  s.hub.sgrps.filterMap (fun e => if e.2.parents.contains c
    && (s.core c).job.any (fun j => j.kind == .step && j.opb == e.2.opb && j.step == e.2.step) then some e.1 else none)

/-- A parent core's job has ended (R87). -/
def State.sgParentEnd (s : State) (c : Nat) : State :=
  (s.parentOf c).foldl (fun s n =>
    s.modSg n (fun g => { g with parents := g.parents.filter (· != c), nwait := g.nwait.filter (fun w => w.1 != c) })) s

/-- A parent whose last core's job has ended cancels its siblings (R87). -/
def State.sgOrphans (s : State) (n : Nat) : State :=
  match s.sg n with
  | some g => if g.parents.isEmpty then s.sgCancelAll n else s
  | none => s

/-- A parent core is contained (R87): no OUT is written. -/
def State.sgParentFail (s : State) (c : Nat) : State :=
  (s.parentOf c).foldl (fun s n => ((s.sg n).elim s (fun g => g.open'.foldl (fun s i => s.sibEnd n i 2 2) s)).sgFree n) s

/-- The collection (R87): advantages, OUT, a release at sys scope, and the SGWAITs see it. -/
def State.sgCollect (s : State) (n : Nat) (g : SGrp) : State :=
  let got := (List.range g.n).filterMap (fun i => if (g.sib i).st = 1 then some (i, (g.sib i).reward.toNat) else none)
  let (st, adv) := advantages g.minrew g.eps.toNat got
  let s := (List.range g.n).foldl (fun s i =>
    let b := g.sib i
    s.hubWr g.world.toNat (g.out.toNat + 16 * i)
      (leBytes 4 (mget 0 adv i) ++ leBytes 4 (if b.st = 1 ∨ b.st = 5 then b.reward.toNat else 0) ++ leBytes 1 b.st ++ leBytes 7 0)) s
  s.modSg n (fun g => { g with st := 2, status := st, waited := !g.nwait.isEmpty })

/-- What a group comes to: siblings whose streams have all ended without a reward, collection once every sibling is
terminal and its writes are performed, and the end with its parent. -/
def State.sgSettle (s : State) (n : Nat) : State :=
  match s.sg n with
  | none => s
  | some g =>
    let s := (s.sgOpen n).foldl (fun s i =>
      let cs := s.coresWith (isSibOf n i)
      if (g.sib i).running ∧ cs.all (fun c => (s.core c).ended) ∧ (s.savedWith (isSibOf n i)).isEmpty then s.sibEnd n i 6 2 else s) s
    match s.sg n with
    | none => s
    | some g =>
      let s := if g.st = 1 ∧ !g.open'.any (fun i => (g.sib i).paused) then s.modSg n (fun g => { g with st := 0 }) else s
      let s := if g.st ≠ 2 ∧ g.open'.isEmpty ∧ (s.coresWith (isSibIn n)).all (fun c => s.jobQuiet c) ∧ !s.deadWrites (JobKind.inGrp n) then
          s.sgCollect n g else s
      match s.sg n with
      | some g => if g.st = 2 ∧ g.parents.isEmpty then s.sgFree n else s
      | none => s

/-- SAMPLE_DEADLINE_EXPIRY (R84, R86): of group `Inp.idx`; a sibling whose reward has reached the hub keeps it. -/
def execSampleDeadlineExpiry (s : State) : Res :=
  let n := s.inp.idx
  match s.sg n with
  | none => .fault .notEnabled
  | some g =>
    if g.deadline ≠ 0 ∧ g.deadline ≤ g.run ∧ g.st = 0 ∧ !(s.sgOpen n).isEmpty then
      .next ((s.sgOpen n).foldl (fun s i => s.sibEnd n i 3 3) s)
    else .fault .notEnabled

/-- FORK at the hub (R83, R296): its status. -/
def State.fork (s : State) (c g : Nat) (cnt : Word) : State × Nat :=
  let k := s.core c
  match k.job with
  | none => (s, 6)
  | some j =>
    match s.opb j.opb with
    | none => (s, 6)
    | some o =>
      let d := (s.hubRd j.world.toNat o.sgdesc.toNat 64).getD []
      let same (i : Job) : Bool := i.kind == .step && i.opb == j.opb && i.step == j.step
      let out := s.savedWith same
      let parents := (s.coresWith same).filter (fun p => !(s.core p).ended) ++ out.map (·.core)
      if k.isSib then (s, 5)
      else if j.kind ≠ .step ∨ !tbit o.flags 2 then (s, 6)
      else if cnt = 0 ∨ fld d 6 1 < cnt.toNat then (s, 1)
      else if (s.coresWith same).any (fun p => ((s.core p).grpAt g).isSome) ∨ out.any (fun v => (v.keep.grpAt g).isSome) then (s, 2)
      else match (List.range 64).find? (fun n => (mfind s.hub.sgrps n).isNone),
                 (List.range 256).find? (fun e => (mfind s.hub.groups e).isNone) with
        | none, _ => (s, 3)
        | _, none => (s, 4)
        | some n, some e =>
          let grp : Grp := { members := maskOf parents, kind := 3, slot := g, world := j.world, count := cnt.toNat, opb := o.addr,
                             opbNo := j.opb, step := j.step, obj := n }
          let sg : SGrp := {
            grp := e, slot := g, parents := parents, opb := j.opb, step := j.step, n := cnt.toNat, minrew := fld d 5 1,
            out := fldW d 0x10, deadline := fld d 0x18 8, eps := BitVec.ofNat 32 (fld d 0x20 4), seed := fldW d 0x28,
            tmpl := fldW d 8, prio := j.prio, world := j.world, sibs := [], run := 0, st := 0, status := 0, nwait := [],
            waited := false }
          let bind (k : Core) : Core := { k with job := k.job.map (fun j => { j with slots := mset j.slots g (e + 1) }) }
          let s := (s.coresWith same).foldl (fun s p => s.modCore p bind) ((s.hubSees j.world.toNat o.sgdesc.toNat 64).opbReads j.world.toNat (fld d 8 8))
          (s.modHub (fun h => { h with
            saved := h.saved.map (fun v => if v.keep.job.any same then { v with keep := bind v.keep } else v),
            groups := mset h.groups e grp, sgrps := mset h.sgrps n sg,
            sibq := h.sibq ++ (List.range cnt.toNat).map (fun i => (n, i)) }), 0)

/-- SGCANCEL by a parent (R85, R296). -/
def State.sgCancel (s : State) (c g : Nat) (ix : Word) : State × Nat :=
  match ((s.core c).grpAt g).bind s.sgAt with
  | none => (s, 3)
  | some (n, q) =>
    if ix = BitVec.allOnes 64 then (s.sgCancelAll n, if (s.sgOpen n).isEmpty then 1 else 0)
    else if q.n ≤ ix.toNat then (s, 2)
    else if !(s.sgOpen n).contains ix.toNat then (s, 1)
    else (s.sibEnd n ix.toNat 2 2, 0)

/-- SGINFO (R296). -/
def State.sgInfo (s : State) (c g sel : Nat) : Word :=
  let none' : Word := BitVec.allOnes 64
  match sel, ((s.core c).grpAt g).bind s.sgAt with
  | 3, _ => (match (s.core c).kind with | some (.sibling _ i) => BitVec.ofNat 64 i | _ => none')
  | _, none => none'
  | 0, some (_, q) => BitVec.ofNat 64 (q.n + (q.n - q.open'.length) * 2 ^ 8 + q.st * 2 ^ 16)
  | 1, some (_, q) => if q.deadline = 0 then none' else BitVec.ofNat 64 (q.deadline - q.run)
  | _, some (_, q) => BitVec.ofNat 64 (((List.range q.n).map (fun i => if (q.sib i).st ≠ 0 then 2 ^ i else 0)).sum)

end Sys2Proof.Machine
end

