-- ==== Sys2Proof/Machine/Tourn.lean ====
section
/-! DEFINITION. Tournament scopes at the hub (05 R90-R97; 23 R406-R408): parcels, ranking, the boundary, the end. -/

namespace Sys2Proof.Machine

def State.tour (s : State) (n : Nat) : Option Tour := mfind s.hub.tours n
def State.modTour (s : State) (n : Nat) (f : Tour → Tour) : State :=
  s.modHub (fun h => match mfind h.tours n with
    | some t => { h with tours := mset h.tours n (f t) }
    | none => h)
def Tour.riv (t : Tour) (j : Nat) : Option Rival := mfind t.rivals j
def Tour.modRiv (t : Tour) (j : Nat) (f : Rival → Rival) : Tour :=
  { t with rivals := t.rivals.map (fun e => if e.1 = j then (j, f e.2) else e) }
def isRivalOf (n j : Nat) (x : Job) : Bool := x.kind == .rival n j
def JobKind.inTour (n : Nat) : JobKind → Bool | .rival m _ => m == n | _ => false
def isRivalIn (n : Nat) (x : Job) : Bool := x.kind.inTour n

/-- Live: running, FINISHED or WINNER (R93). -/
def Rival.live (r : Rival) : Bool := r.st == 1 || r.st == 2 || r.st == 5

/-- Parcels of a rival in this round (R92). -/
def State.rivParcels (s : State) (n j : Nat) : Nat :=
  match (s.tour n).bind (fun t => t.riv j) with
  | some r => r.parcels + ((s.coresWith (isRivalOf n j)).map (fun c => (s.core c).parcels)).sum
      + ((s.savedWith (isRivalOf n j)).map (fun v => v.keep.parcels)).sum
  | none => 0

/-- The allowance of the round. -/
def Tour.allow (t : Tour) : Nat := t.a0 * 2 ^ t.round

/-- Overshoot: parcels beyond the allowance that stopped the rival; none after TYIELD (R92, R407). -/
def Rival.overAt (r : Rival) (t : Tour) (p : Nat) : Nat := if r.asked then p - t.allow else 0

/-- Score a is worse than b (R93): NaN is lowest in either direction. -/
def scoreLt (cmp : Nat) (a b : Word) : Bool :=
  if tbit cmp 0 then
    let x := valOf .fp32 (a.toNat % 2 ^ 32)
    let y := valOf .fp32 (b.toNat % 2 ^ 32)
    if fvIsNan x then !fvIsNan y
    else if fvIsNan y then false
    else if tbit cmp 1 then fvLt y x else fvLt x y
  else if tbit cmp 1 then b.slt a else a.slt b

/-- Rival a ranks above b; entries are (index, score, parcels). -/
def ranksAbove (cmp : Nat) (a b : Nat × Word × Nat) : Bool :=
  if scoreLt cmp b.2.1 a.2.1 then true
  else if scoreLt cmp a.2.1 b.2.1 then false
  else if a.2.2 ≠ b.2.2 then a.2.2 < b.2.2 else a.1 < b.1

/-- Insertion into a list best first. -/
def insRank (cmp : Nat) (x : Nat × Word × Nat) : List (Nat × Word × Nat) → List (Nat × Word × Nat)
  | [] => [x]
  | y :: l => if ranksAbove cmp x y then x :: y :: l else y :: insRank cmp x l

/-- The ranking of the live rivals (R93). -/
def State.ranking (s : State) (n : Nat) (t : Tour) : List Nat :=
  ((t.rivals.filter (fun e => e.2.live)).foldl (fun l e => insRank t.cmp (e.1, e.2.score, s.rivParcels n e.1) l) []).map (·.1)

/-- A rival record (R97). -/
def Rival.bytes (r : Rival) : List Byte :=
  leBytes 8 r.score.toNat ++ leBytes 8 r.lastP ++ leBytes 4 r.lastO ++ leBytes 1 r.st ++ leBytes 1 r.rank ++ leBytes 1 r.elim
    ++ leBytes 1 0 ++ leBytes 2 (if r.st = 3 ∨ r.st = 4 then 0 else r.cores.length) ++ leBytes 6 0
def State.tourRecords (s : State) (n : Nat) : State :=
  match s.tour n with
  | none => s
  | some t => match s.opb t.opb with
    | none => s
    | some o => t.rivals.foldl (fun s e => s.hubWr o.world.toNat (t.out + 32 * e.1) e.2.bytes) s

/-- A rival loses its cores: KILLED (3) or FAILED (4) in this round; its streams are terminated (R93, R95). -/
def State.rivEnd (s : State) (n j st code : Nat) : State :=
  match s.tour n with
  | none => s
  | some t => match t.riv j with
    | none => s
    | some r =>
      let s := s.modTour n (fun t => t.modRiv j (fun r => { r with
        st := st, elim := t.round, dead := r.dead ++ r.cores, cores := [], stopped := [] }))
      let s := r.cores.foldl (fun s c => match (s.core c).job with
        | some x => if isRivalOf n j x then s.killCore c code else s
        | none => s) s
      s.killSaved (isRivalOf n j) code

/-- The tournament ends without a winner: its OPB is refused with code 8 (R95). -/
def State.tourLost (s : State) (n : Nat) : State :=
  match s.tour n with
  | none => s
  | some t => (s.tourRecords n).modOpb t.opb (fun o => { o with failed := if o.failed = 0 then 8 else o.failed, stopCl := true, running := [] })

/-- A core of a rival is contained (R95). -/
def State.rivFail (s : State) (n j : Nat) : State :=
  let s := s.rivEnd n j 4 1
  match s.tour n with
  | some t => if t.rivals.any (fun e => e.2.live) then s else s.tourLost n
  | none => s

/-- A round has ended: every live rival is stopped on each core whose job has not ended, or FINISHED (R92, R93). -/
def State.roundOver (s : State) (n : Nat) (t : Tour) : Bool :=
  !t.bound && !t.last && !t.frozen && t.rivals.any (fun e => e.2.live) && t.rivals.all (fun e =>
    e.2.st != 1 || (s.coresWith (isRivalOf n e.1)).all (fun c => e.2.stopped.contains c || (s.core c).ended))

/-- Rank the round and kill the losers (R93, R96). -/
def State.tourRank (s : State) (n : Nat) (t : Tour) : State :=
  let order := s.ranking n t
  let l := order.length
  let final := t.round + 1 == t.nround
  let keep := if final then 1 else if l = 1 then 1 else (l + 1) / 2
  let s := order.zipIdx.foldl (fun s e =>
    let p := s.rivParcels n e.1
    s.modTour n (fun t => t.modRiv e.1 (fun r => { r with lastP := p, lastO := r.overAt t p, rank := e.2 }))) s
  let s := (order.drop keep).foldl (fun s j => s.rivEnd n j 3 2) s
  let s := if keep = 1 then s.modTour n (fun t => match order.head? with
    | some j => t.modRiv j (fun r => { r with st := 5 })
    | none => t) else s
  s.modTour n (fun t => { t with bound := true, last := keep == 1 })

/-- Deal cores round-robin to survivors in rank order (R94): the (rival, core) pairs. -/
def dealt (surv cores : List Nat) : List (Nat × Nat) :=
  cores.zipIdx.filterMap (fun e => (surv[e.2 % Nat.max 1 surv.length]?).map (fun j => (j, e.1)))

/-- Insert a core id into an ascending list. -/
def insAsc (c : Nat) : List Nat → List Nat
  | [] => [c]
  | d :: l => if c ≤ d then c :: d :: l else d :: insAsc c l

/-- Groups of steps that are placed together (R76): slot, mode, BWDOG and member cores; `steps` pairs a step with its cores
in rank order. A definition none of whose ranks runs gives no entry. -/
def groupSets (o : Opb) (steps : List (Nat × List Nat)) : List (Nat × Nat × Nat × Nat × List Nat) :=
  (o.groups.map (fun g =>
    let pick (base : Nat) (cs : List Nat) : List Nat := cs.zipIdx.filterMap (fun e => if tbit g.2.2.2 (base + e.2) then some e.1 else none)
    if g.2.1 = 0 then steps.map (fun s => (g.1, g.2.1, g.2.2.1, s.1, pick 0 s.2))
    else [(g.1, g.2.1, g.2.2.1, (steps.head?.map (·.1)).getD 0, (steps.map (fun s => pick (s.1 * o.cps) s.2)).flatten)])).flatten.filter
    (fun g => !g.2.2.2.2.isEmpty)

/-- Free group-table entries. -/
def State.freeGroups (s : State) : List Nat := (List.range 256).filter (fun e => (mfind s.hub.groups e).isNone)

/-- Allocate the entries of such steps; the slots that each core gets. -/
def State.allocGroups (s : State) (o : Opb) (opbNo : Nat) (steps : List (Nat × List Nat)) : State × Map (Map Nat) :=
  ((groupSets o steps).zip s.freeGroups).foldl (fun (a : State × Map (Map Nat)) x =>
    let ((slot, mode, bw, st, cs), e) := x
    let g : Grp := { members := maskOf cs, kind := 1 + mode, slot := slot, world := o.world, count := cs.length, bwdog := bw, opb := o.addr,
                     opbNo := opbNo, step := st }
    (a.1.modHub (fun h => { h with groups := mset h.groups e g }),
     cs.foldl (fun m c => mset m c (mset (mget [] m c) slot (e + 1))) a.2)) (s, [])

/-- The x registers that R70 sets: indices, x7, rank, core count, OPB address, arguments. -/
def initX (idx : List Nat) (x7 rank cnt : Nat) (addr : Word) (args : List Word) : Map Word :=
  let l := (List.range 6).map (fun d => BitVec.ofNat 64 (nthN idx d)) ++ [BitVec.ofNat 64 x7, BitVec.ofNat 64 rank, BitVec.ofNat 64 cnt, addr]
    ++ (List.range 8).map (nthW args)
  l.zipIdx.foldl (fun m e => mput 0 m (e.2 + 1) e.1) []

/-- Loop indices of a step, dimension 0 varying fastest (R70). -/
def stepIdx : List Nat → Nat → List Nat
  | [], _ => []
  | e :: l, i => i % Nat.max 1 e :: stepIdx l (i / Nat.max 1 e)

/-- A job of an OPB or template; what its image gives is read at its start. -/
def mkJob (kind : JobKind) (opb step prio : Nat) (t : Opb) (slots : Map Nat) (init : Map Word) : Job :=
  { kind := kind, opb := opb, step := step, world := t.world, prio := prio, wdog := t.wdog, inter := t.inter, image := t.image,
    flue := 0, fslots := 0, fload := [], init := init, l1g := t.l1g, slots := slots, granted := false }

/-- A job of a rival on a core (R91, R94): START or GROW template, group slot 3 and the template's groups bound. -/
def rivalJob (o : Opb) (t : Opb) (opb n j grp rank cnt : Nat) (idx : List Nat) (slots : Map Nat) : Job :=
  mkJob (.rival n j) opb 0 o.prio t (mset slots 3 (grp + 1)) (initX idx j rank cnt t.addr t.args)

/-- A clear is due before the job placed on a core starts (R53). -/
def Core.clearFirst (k : Core) : Bool :=
  k.clearing || (match k.lastWorld, k.job with | some w, some j => w != j.world | _, _ => false)

/-- A core whose L1 split differs from the job's moves it before the first parcel (R70). -/
def State.prepare (s : State) (c : Nat) : State :=
  let k := s.core c
  match k.job with
  | some j => if k.starting ∧ !k.clearFirst ∧ k.split.isNone ∧ k.gran ≠ 32 - j.l1g then s.moveSplit c (32 - j.l1g) else s
  | none => s

/-- Give a core a job, to start once its clear is done. -/
def State.giveJob (s : State) (c : Nat) (j : Job) : State :=
  (s.modCore c (fun k =>
    { k with job := some j, starting := true, ended := false, failed := false, parcels := 0, preempt := none, mute := 0 })).prepare c

/-- A stopped core goes on from its safe point (R94): what the scope wrote before the boundary is seen (R408). -/
def State.boundResume (s : State) (c : Nat) : State :=
  (s.resume c).modCore c (fun k => { k.genbump with preempt := none, parcels := 0 })

/-- The boundary (R94): deal the freed cores, write the records, grow the groups, resume the survivors, start GROW jobs.
After the last round the freed cores go idle. -/
def State.tourBoundary (s : State) (n : Nat) (t : Tour) (o : Opb) : State :=
  let final := t.round + 1 == t.nround
  let order := (t.rivals.filter (fun e => e.2.st == 1 || e.2.st == 5)).foldl (fun (l : List (Nat × Nat)) e =>
    l.filter (fun x => x.1 < e.2.rank) ++ [(e.2.rank, e.1)] ++ l.filter (fun x => e.2.rank < x.1)) []
  let running (j : Nat) : Bool := match t.riv j with | some r => !r.cores.isEmpty | none => false
  let surv := (order.map (·.2)).filter running
  let free := t.rivals.foldl (fun l e => e.2.dead.foldl (fun l c => insAsc c l) l) []
  let deal := if final then [] else dealt surv free
  let s := s.modTour n (fun t => { t with rivals := t.rivals.map (fun e => (e.1, { e.2 with
    cores := e.2.cores ++ (deal.filter (fun d => d.1 == e.1)).map (·.2), dead := [] })) })
  let s := (s.tourRecords n).modHub (fun h => { h with stopAsks := h.stopAsks.filter (fun x => x.1 != n) })
  let s := deal.foldl (fun s d => match t.riv d.1 with
    | some r => s.modGrp r.grp (fun g =>
        let m : BitVec 512 := 1#512 <<< d.2
        if g.arrived = 0 then { g with members := g.members ||| m, count := g.count + 1 }
        else { g with newMem := g.newMem ||| m, count := g.count + 1 })
    | none => s) s
  let s := s.modTour n (fun t => { t with
    bound := false, round := if final then t.round else t.round + 1,
    rivals := t.rivals.map (fun e => (e.1, { e.2 with parcels := 0, oversh := 0, stopped := [], asked := false, yield := false })) })
  let s := t.rivals.foldl (fun s e => if e.2.live then e.2.stopped.foldl (fun s c => s.boundResume c) s else s) s
  deal.foldl (fun s d => match t.riv d.1 with
    | some r => match s.template o.world r.grow o.prio with
      | some g =>
        let (s, m) := (s.opbReads o.world.toNat r.grow.toNat).allocGroups g t.opb [(0, [d.2])]
        let cores := ((s.tour n).bind (fun t => t.riv d.1)).elim [] (fun r => r.cores)
        s.giveJob d.2 (rivalJob o g t.opb n d.1 r.grp (cores.idxOf d.2) cores.length [] (mget [] m d.2))
      | none => s
    | none => s) s

/-- A scope is pre-empted as long as a job of it is switched out or still has to stop for that (R96). -/
def State.tourThaw (s : State) (n : Nat) : State :=
  if (s.savedWith (isRivalIn n)).isEmpty ∧ (s.coresWith (isRivalIn n)).all (fun c => (s.core c).ended || (s.core c).preempt != some 0) then
    s.modTour n (fun t => { t with frozen := false })
  else s

/-- What a scope comes to in a hub cycle: finished rivals, the end of a round, the boundary, the completion. -/
def State.tourSettle (s : State) (n : Nat) : State :=
  let s := s.tourThaw n
  match s.tour n with
  | none => s
  | some t =>
    let done (j : Nat) : Bool := (s.coresWith (isRivalOf n j)).all (fun c => (s.core c).ended) && (s.savedWith (isRivalOf n j)).isEmpty
    let s := t.rivals.foldl (fun s e => if e.2.st = 1 ∧ done e.1 then
      s.modTour n (fun t => t.modRiv e.1 (fun r => { r with st := 2, cores := [] })) else s) s
    match s.tour n with
    | none => s
    | some t =>
      let s := if s.roundOver n t then s.tourRank n t else s
      match s.tour n with
      | none => s
      | some t =>
        let quiet := (s.coresWith (isRivalIn n)).all (fun c =>
          (s.core c).wq.isEmpty && (s.core c).portsDrained && s.seenAll c && s.hub.fincs.all (fun f => f.src / 4 != c)
            && (!(s.core c).ended) && (t.rivals.any (fun e => e.2.stopped.contains c))) && !s.deadWrites (JobKind.inTour n)
        match s.opb t.opb with
        | none => s.modHub (fun h => { h with tours := mdel h.tours n })
        | some o =>
          if t.bound ∧ !t.frozen ∧ quiet then s.tourBoundary n t o
          else if t.last ∧ !t.bound ∧ o.finish.isEmpty ∧ o.done = 0 ∧ (s.coresWith (isRivalIn n)).isEmpty ∧ (s.savedWith (isRivalIn n)).isEmpty
              ∧ !s.deadWrites (JobKind.inTour n) ∧ o.failed = 0 then
            s.modOpb t.opb (fun o => { o with finish := [0] })
          else s

/-- A stop request to every core of a rival: it reaches core `own` in this cycle, the others after a free time (log 5). -/
def State.askStops (s : State) (n j : Nat) (own : Option Nat) : State :=
  (s.coresWith (isRivalOf n j)).foldl (fun s c =>
    let (s, d) := if own = some c then (s, 0) else (s.draw, Config.latency s.free + 2)
    s.modHub (fun h => { h with stopAsks := h.stopAsks ++ [(n, j, c, d)] })) s

/-- ALLOWANCE_REACHED (R92, R406): rival `Inp.idx2` of scope `Inp.idx`. A rival of one core is counted there, one of several at the
hub. -/
def execAllowanceReached (s : State) : Res :=
  let n := s.inp.idx
  match s.tour n with
  | none => .fault .notEnabled
  | some t => match t.riv s.inp.idx2 with
    | none => .fault .notEnabled
    | some r =>
      if r.st = 1 ∧ !t.last ∧ !t.bound ∧ !t.frozen ∧ !r.asked ∧ !r.yield ∧ t.allow ≤ s.rivParcels n s.inp.idx2 then
        let s := s.modTour n (fun t => t.modRiv s.inp.idx2 (fun r => { r with asked := true }))
        match s.coresWith (isRivalOf n s.inp.idx2) with
        | [c] => .next (s.modCore c (fun k => { k with preempt := some (k.preempt.getD 1) }))
        | _ => .next (s.askStops n s.inp.idx2 none)
      else .fault .notEnabled

/-- TYIELD (R92, R407): the request takes effect on its own core from the next cycle on, and later on the rival's others; no effect
outside a rival or after the last round. -/
def execTyield (s : State) : Res :=
  issue .tyield s (fun s =>
    match s.me.kind with
    | some (.rival n j) =>
      if (s.tour n).any (fun t => !t.last) then
        (s.modTour n (fun t => t.modRiv j (fun r => { r with yield := true }))).askStops n j (some s.cur.core)
      else s
    | _ => s)

/-- The stop requests that reach a core in this cycle. -/
def State.stopsReach (s : State) : State :=
  (s.hub.stopAsks.filter (fun x => x.2.2.2 == 0)).foldl (fun s x =>
    let (n, j, c, _) := x
    let on : Bool := (s.tour n).any (fun t => !t.bound && (t.riv j).any (fun r => r.st == 1 && (r.asked || r.yield)))
    if on ∧ (s.core c).job.any (isRivalOf n j) then s.modCore c (fun k => { k with preempt := some (k.preempt.getD 1) }) else s)
    (s.modHub (fun h => { h with stopAsks := h.stopAsks.filter (fun x => x.2.2.2 != 0) }))

/-- TSCORE, TGROW and TINFO at the hub (R91, R94, R296): the value for xd, and for TGROW the mask to write. -/
def State.tinfo (s : State) (c sel : Nat) : Word :=
  match (s.core c).kind with
  | some (.rival n j) => match s.tour n with
    | some t => match sel with
      | 0 => BitVec.ofNat 64 t.round
      | 1 => BitVec.ofNat 64 (t.allow - s.rivParcels n j)
      | 2 => BitVec.ofNat 64 (match t.riv j with | some r => if t.round = 0 then 0xFF else r.rank | none => 0xFF)
      | _ => BitVec.ofNat 64 j
    | none => BitVec.allOnes 64
  | _ => BitVec.allOnes 64
def State.tscore (s : State) (kind : Option JobKind) (v : Word) : State × Word :=
  match kind with
  | some (.rival n j) => (s.modTour n (fun t => t.modRiv j (fun r => { r with score := v })), 0)
  | _ => (s, 1)
def State.tgrow (s : State) (c : Nat) : Option (Nat × List Byte) :=
  match (s.core c).kind with
  | some (.rival n j) => ((s.tour n).bind (fun t => t.riv j)).map (fun r =>
      let g := s.grp r.grp
      (r.cores.length, leBytes 64 (g.members ||| g.newMem).toNat))
  | _ => none

end Sys2Proof.Machine
end

