-- ==== Sys2Proof/Machine/Place.lean ====
section
/-! DEFINITION. Placement and progress of steps (04 R66-R76, R409; 02 R34): claims, dispatch opportunities, job start and
completion. -/

namespace Sys2Proof.Machine

/-- Cores held by a tournament scope, dealt or to be dealt. -/
def State.tourHeld (s : State) (c : Nat) : Bool :=
  s.hub.tours.any (fun e => e.2.rivals.any (fun r => r.2.cores.contains c || r.2.dead.contains c))

/-- Whether a core is reserved for another OPB than this one, known by its queue and address (R80). -/
def State.resvOther (s : State) (c : Nat) (opb : Option (Nat × Word)) : Bool := mget 0 s.hub.resv c != 0 && mfind s.hub.resvFor c != opb

/-- A dispatch opportunity has given the core to a switched-out sibling (R88). -/
def State.backHeld (s : State) (c : Nat) : Bool := s.hub.saved.any (fun v => v.placed && v.core == c)

/-- An idle core, for an OPB or for no OPB (R74). -/
def State.idleFor (s : State) (opb : Option (Nat × Word)) (c : Nat) : Bool :=
  (s.core c).job.isNone && !s.resvOther c opb && !s.tourHeld c && !s.backHeld c

/-- The core's last world is this one (R53, R74). -/
def State.lastIs (s : State) (w : BitVec 10) (c : Nat) : Bool := !(s.core c).clearing && (s.core c).lastWorld == some w

/-- The first n of ascending cores, those of matching last world before the others, in ascending order (R74). -/
def State.takeCores (s : State) (w : BitVec 10) (l : List Nat) (n : Nat) : Option (List Nat) :=
  if l.length < n then none
  else some (((l.filter (s.lastIs w) ++ l.filter (fun c => !s.lastIs w c)).take n).foldl (fun a c => insAsc c a) [])

/-- The cores of one step among eligible idle ones (R74). -/
def State.pickStep (s : State) (o : Opb) (l : List Nat) : Option (List Nat) :=
  let l := if o.place = 3 then l.filter (fun c => o.mask.getLsbD c) else l
  let match' (cs : List Nat) : Nat := (cs.filter (s.lastIs o.world)).length
  match o.place with
  | 1 =>
    let sets := (List.range 8).filterMap (fun d => s.takeCores o.world (l.filter (fun c => dieOf c == d)) o.cps)
    leastBy (fun cs => 512 - match' cs) sets
  | 2 =>
    let whole := (List.range 128).filter (fun k => (List.range 4).all (fun j => l.contains (4 * k + j)))
    let quad (k : Nat) : List Nat := (List.range 4).map (4 * k + ·)
    let order := (List.range 5).flatMap (fun m => whole.filter (fun k => match' (quad k) == 4 - m))
    if order.length < o.cps / 4 then none
    else some (((order.take (o.cps / 4)).flatMap quad).foldl (fun a c => insAsc c a) [])
  | _ => s.takeCores o.world l o.cps

/-- The cores of several steps placed together, in ascending step index (R74). -/
def State.pickGang (s : State) (o : Opb) : List Nat → List Nat → Option (List (Nat × List Nat))
  | [], _ => some []
  | i :: is, l => match s.pickStep o l with
    | none => none
    | some cs => (s.pickGang o is (l.filter (fun c => !cs.contains c))).map (fun r => (i, cs) :: r)

/-- Idle cores of the module for an OPB. -/
def State.idleCores (s : State) (opb : Option (Nat × Word)) : List Nat := (List.range 512).filter (s.idleFor opb)

/-- The reservation ends when the OPB's first step is placed (R80). -/
def State.unreserve (s : State) (opb : Nat × Word) : State :=
  s.modHub (fun h =>
    let gone := (h.resvFor.filter (fun e => e.2 == opb)).map (·.1)
    { h with resv := h.resv.filter (fun e => !gone.contains e.1), resvFor := h.resvFor.filter (fun e => !gone.contains e.1) })

/-- Place steps of an OPB on cores: group entries, then jobs (R70, R76). -/
def State.placeSteps (s : State) (n : Nat) (o : Opb) (steps : List (Nat × List Nat)) : State :=
  let now := s.hub.podTime.toNat
  let (s, slots) := s.allocGroups o n steps
  let s := s.modOpb n (fun o => { o with
    claimed := o.claimed.filter (fun i => !steps.any (fun e => e.1 == i)),
    running := o.running ++ steps.map (·.1), starts := o.starts ++ steps.map (fun e => (e.1, now)) })
  let s := s.unreserve (o.q, o.addr)
  steps.foldl (fun s e => e.2.zipIdx.foldl (fun s c =>
    s.giveJob c.1 (mkJob .step n e.1 o.prio o (mget [] slots c.1) (initX (stepIdx o.ext e.1) e.1 c.2 o.cps o.addr o.args))) s) s

/-- The gangs of a tournament's START templates, in ascending rival index (R90). -/
def State.pickRivals (s : State) : List (Opb × Opb) → List Nat → Option (List (List (Nat × List Nat)))
  | [], _ => some []
  | (t, _) :: ts, l => match s.pickGang t (List.range t.n) l with
    | none => none
    | some g =>
      let used := g.flatMap (·.2)
      (s.pickRivals ts (l.filter (fun c => !used.contains c))).map (fun r => g :: r)

/-- Place a launching OPB: its scope, its rivals' entries and gangs (R90, R91). -/
def State.planTour (s : State) (n : Nat) (o : Opb) : Option State :=
  match s.hubRd o.world.toNat o.sgdesc.toNat 288, (List.range 16).find? (fun i => (mfind s.hub.tours i).isNone) with
  | some d, some sc =>
    let pairs := (List.range (fld d 5 1)).map (fun j => (fldW d (0x20 + 16 * j), fldW d (0x28 + 16 * j)))
    let tm := pairs.filterMap (fun p => match s.template o.world p.1 o.prio, s.template o.world p.2 o.prio with
      | some a, some b => some (a, b)
      | _, _ => none)
    match (if tm.length = pairs.length then s.pickRivals tm (s.idleCores (some (o.q, o.addr))) else none) with
    | none => none
    | some gangs =>
      let free := s.freeGroups
      if free.length < gangs.length + ((tm.zip gangs).map (fun e => (groupSets e.1.1 e.2).length)).sum then none
      else
        let all := ((tm.zip pairs).zip gangs).zipIdx.map (fun e => (e.2, e.1.1.1.1, e.1.1.2, e.1.2, free.getD e.2 0))
        let s := pairs.foldl (fun s e => (s.opbReads o.world.toNat e.1.toNat).opbReads o.world.toNat e.2.toNat)
          (s.hubSees o.world.toNat o.sgdesc.toNat 288)
        let s := all.foldl (fun s e =>
          let cs := e.2.2.2.1.flatMap (·.2)
          let g : Grp := { members := maskOf cs, kind := 4, slot := 3, world := o.world, count := cs.length, opb := o.addr, opbNo := n,
                           step := 0, obj := sc }
          s.modHub (fun h => { h with groups := mset h.groups e.2.2.2.2 g })) s
        let tour : Tour := {
          opb := n, nround := fld d 6 1, cmp := fld d 7 1, a0 := fld d 8 8, out := fld d 0x10 8, round := 0,
          rivals := all.map (fun e => (e.1, { start := e.2.2.1.1, grow := e.2.2.1.2, grp := e.2.2.2.2, cores := e.2.2.2.1.flatMap (·.2) })),
          last := false, frozen := false, bound := false }
        let s := s.modHub (fun h => { h with tours := mset h.tours sc tour })
        let s := s.modOpb n (fun o => { o with
          claimed := [], running := [0], starts := o.starts ++ [(0, s.hub.podTime.toNat)] })
        let s := s.unreserve (o.q, o.addr)
        some (all.foldl (fun s e =>
          let t := e.2.1
          let steps := e.2.2.2.1
          let cnt := (steps.flatMap (·.2)).length
          let (s, slots) := s.allocGroups t n steps
          steps.foldl (fun s st => st.2.zipIdx.foldl (fun s c =>
            s.giveJob c.1 (rivalJob o t n sc e.1 e.2.2.2.2 (st.1 * t.cps + c.2) cnt (stepIdx t.ext st.1) (mget [] slots c.1))) s) s) s)
  | _, _ => none

/-- Place a pending sibling (R83). -/
def State.planSib (s : State) (n i : Nat) (g : SGrp) : Option State :=
  match s.template g.world g.tmpl g.prio with
  | none => none
  | some t => match s.pickStep t (s.idleCores none) with
    | none => none
    | some cs =>
      if s.freeGroups.length < (groupSets t [(0, cs)]).length then none
      else
        let (s, slots) := (s.opbReads g.world.toNat g.tmpl.toNat).allocGroups t g.opb [(0, cs)]
        let x11 := g.seed + BitVec.ofNat 64 i * 0x9E3779B97F4A7C15
        let s := s.modHub (fun h => { h with sibq := h.sibq.filter (fun e => e != (n, i)) })
        let s := s.modSg n (fun g => g.modSib i (fun b => { b with running := true, cores := cs }))
        some (cs.zipIdx.foldl (fun s c =>
          s.giveJob c.1 (mkJob (.sibling n i) g.opb g.step g.prio t (mget [] slots c.1)
            (initX [] i c.2 t.cps t.addr (x11 :: t.args.drop 1)))) s)

/-- A group-table entry whose members move to other cores. -/
def Grp.move (f : Nat → Nat) (g : Grp) : Grp :=
  { g with members := maskOf ((coresOf g.members).map f), arrived := maskOf ((coresOf g.arrived).map f),
           what := (g.what.map (fun w => (f w.1, w.2))).foldl (fun l w => insWhat w l) [], waits := g.waits.map (fun w => (f w.1, w.2)) }

/-- Cores for paused siblings, in ascending index, by the template's placement rule (R74, R88). -/
def State.pickBack (s : State) (n : Nat) (g : SGrp) : List Nat → List Nat → Option (List (Nat × List Nat))
  | [], _ => some []
  | i :: is, l =>
    let m := (g.sib i).cores.length
    match (match s.template g.world g.tmpl g.prio with
      | some t => s.pickStep { t with cps := m } l
      | none => s.takeCores g.world l m) with
    | none => none
    | some cs => (s.pickBack n g is (l.filter (fun c => !cs.contains c))).map (fun r => (i, cs) :: r)

/-- A paused sibling gets its cores; the jobs go to them by rank when the cores are ready (CONTEXT_SWITCH_IN). -/
def State.placeBack (s : State) (n i : Nat) (old cs : List Nat) : State :=
  let to' (c : Nat) : Nat := cs.getD (old.idxOf c) c
  let ents := ((s.savedWith (isSibOf n i)).flatMap (fun v => v.keep.entries)).eraseDups
  let s := s.modHub (fun h => { h with saved := h.saved.map (fun v =>
    if v.keep.job.any (isSibOf n i) then
      let keep := if kilnOf (to' v.core) = kilnOf v.core then v.keep   -- another kiln loads the flue slots anew (R116)
        else { v.keep with job := v.keep.job.map (fun x => { x with granted := false }) }
      { v with core := to' v.core, placed := true, keep := keep }
    else v) })
  let s := ents.foldl (fun s e => s.modGrp e (Grp.move to')) s
  s.modSg n (fun g => g.modSib i (fun b => { b with cores := cs, paused := false }))

/-- A paused group resumes in one opportunity, once every sibling of it stands switched out (R88): how many siblings that places, and
what follows. -/
def State.planBack (s : State) (n : Nat) (g : SGrp) : Option (Nat × State) :=
  let sibs := g.open'.filter (fun i => (g.sib i).paused && !(s.savedWith (isSibOf n i)).isEmpty)
  if g.st ≠ 1 ∨ sibs.isEmpty ∨ (s.coresWith (isSibIn n)).any (fun c => !(s.core c).ended) then none
  else (s.pickBack n g sibs (s.idleCores none)).map (fun sets =>
    (sibs.length, (sets.foldl (fun s e => s.placeBack n e.1 (g.sib e.1).cores e.2) (s.opbReads g.world.toNat g.tmpl.toNat)).modSg n (fun g => { g with st := 0 })))

/-- The head of a queue: the first OPB in ring order with a step to place (R66). -/
def State.headOf (s : State) (q : Nat) : Option (Nat × Opb) := (s.qOpbs q).find? (fun e => e.2.left)

/-- A head whose waits hold, whose SER predecessors are complete and whose world is open (R50, R66). -/
def State.headReady (s : State) (q : Nat) (e : Nat × Opb) : Bool :=
  (List.range e.2.waits.length).all (fun j => e.2.sat.contains j)
    && (!tbit e.2.flags 0 || (s.uq q).opbs.head? == some e.1) && s.worldOpen e.2.world.toNat

def Opb.isGang (o : Opb) : Bool := tbit o.flags 1 && !tbit o.flags 3

/-- The next placement of a queue, if it can be made now: its cost in tile steps and what follows. Paused groups and then pending
siblings of a queue's OPBs go before its head (log 22). -/
def State.plan (s : State) (q : Nat) : Option (Nat × State) :=
  let mine (g : SGrp) : Bool := match s.opb g.opb with | some o => o.q == q | none => false
  let back := s.hub.sgrps.findSome? (fun e => if mine e.2 then s.planBack e.1 e.2 else none)
  let sib := s.hub.sibq.find? (fun e => (s.sg e.1).any (fun g => g.st == 0 && mine g))
  match back, sib.bind (fun e => (s.sg e.1).map (fun g => (e, g))) with
  | some r, _ => some r
  | none, some ((n, i), g) => (s.planSib n i g).map (fun t => (1, t))
  | none, none => match s.headOf q with
    | none => none
    | some (n, o) =>
      if !s.headReady q (n, o) ∨ o.claimed.isEmpty then none
      else if tbit o.flags 3 then (s.planTour n o).map (fun t => (1, t))
      else
        let steps := if o.isGang then (if o.next < o.n then none else some o.claimed) else some (o.claimed.take 1)
        match steps.bind (fun l => s.pickGang o l (s.idleCores (some (o.q, o.addr)))) with
        | none => none
        | some sets =>
          if s.freeGroups.length < (groupSets o sets).length then none
          else some (if o.isGang then o.n else 1, s.placeSteps n o sets)

/-- The slots that take part: number, queue and level. What a disabled queue has left follows the hardware slots (log 22). -/
def State.turns (s : State) : List (Nat × Nat × Nat) :=
  s.hub.hslots.map (fun e => (e.1, e.2.q, (s.uq e.2.q).d.prio))
    ++ (s.hub.queues.filter (fun e => !e.2.en && !e.2.opbs.isEmpty)).map (fun e => (64 + e.1, e.1, e.2.d.prio))

/-- Deficit round-robin (R67) from turn `i` of the level's turns; `again` holds while the slot served last is tried. -/
def drr (cand : List (Nat × Option (Nat × State))) (defs : Map Nat) (i : Nat) (again : Bool) : Nat → Option (Nat × State × Map Nat)
  | 0 => none
  | fuel + 1 =>
    let next := (i + 1) % Nat.max 1 cand.length
    match cand[i]? with
    | none => none
    | some (sl, none) => drr cand (mput 0 defs sl 0) next false fuel
    | some (sl, some (cost, t)) =>
      let d := mget 0 defs sl + (if again then 0 else 8)
      if cost ≤ d then some (sl, t, mput 0 defs sl (d - cost)) else drr cand (mput 0 defs sl d) next false fuel

/-- The level an opportunity goes to, among those with a placement (R67). -/
def Hub.levelFor (h : Hub) (ls : List Nat) : Option Nat :=
  match leastBy (fun l => 7 - l) ls with
  | none => none
  | some top =>
    let lower := ((List.range 8).reverse).filter (fun l => l < top && ls.contains l)
    if h.oc % 16 = 15 ∧ !lower.isEmpty then leastBy (fun l => mget 0 h.served l) lower else some top

/-- DISPATCH_OPPORTUNITY (R67, R74). The slots of the levels that it passes leave the round with deficit 0. -/
def execDispatchOpportunity (s : State) : Res :=
  let all := s.turns.map (fun e => (e.1, e.2.2, s.plan e.2.1))
  match s.hub.levelFor ((all.filter (fun e => e.2.2.isSome)).map (·.2.1)) with
  | none => .fault .notEnabled
  | some l =>
    let cand := (all.filter (fun e => e.2.1 == l)).map (fun e => (e.1, e.2.2))
    let passed := all.filter (fun e => all.all (fun x => x.2.2.isNone || x.2.1 < e.2.1))
    let defs0 := passed.foldl (fun m e => mput 0 m e.1 0) s.hub.defs
    let last := mget 0 s.hub.rr l
    let at' := cand.findIdx? (fun e => e.1 + 1 == last)
    let first := (cand.findIdx? (fun e => last ≤ e.1 + 1)).getD 0
    match drr cand defs0 (at'.getD first) at'.isSome 40000 with
    | none => .fault .notEnabled
    | some (sl, t, defs) => .next (t.modHub (fun h => { h with
        defs := defs, oc := s.hub.oc + 1, served := mput 0 h.served l (s.hub.oc + 1), rr := mput 0 h.rr l (sl + 1) }))

/-- STEP_CLAIM (R71): of OPB `Inp.idx`; a plain OPB has one step claimed at a time, a gang all of them. -/
def execStepClaim (s : State) : Res :=
  let n := s.inp.idx
  match s.opb n with
  | none => .fault .notEnabled
  | some o =>
    if (s.headOf o.q).map (·.1) == some n ∧ s.headReady o.q (n, o) ∧ o.next < o.n ∧ (o.isGang ∨ o.claimed.isEmpty) then
      let at' := o.progress.toNat + o.next / 8
      let b := (s.hubRd o.world.toNat at' 1).getD [0]
      let set := tbit (leNat b) (o.next % 8)
      .next ((s.hubSees o.world.toNat at' 1).modOpb n (fun o => { o with
        next := o.next + 1, done := if set then o.done + 1 else o.done, claimed := if set then o.claimed else o.claimed ++ [o.next] }))
    else .fault .notEnabled

/-- A condition has been read: it holds, or it is read again 10 us later (R68). -/
def Opb.reread (j now : Nat) (holds : Bool) (o : Opb) : Opb :=
  if holds then { o with sat := o.sat ++ [j] } else { o with retry := mset o.retry j (now + 10001) }

/-- WAIT_COUNTER_REREAD (R68): condition `Inp.idx2` of OPB `Inp.idx`. -/
def execWaitCounterReread (s : State) : Res :=
  let j := s.inp.idx2
  match s.opb s.inp.idx with
  | none => .fault .notEnabled
  | some o =>
    let now := s.hub.podTime.toNat
    match o.waits[j]? with
    | none => .fault .notEnabled
    | some (a, t) =>
      if o.sat.contains j ∨ now + 1 < mget 0 o.retry j then .fault .notEnabled
      else
        let holds : Bool := match s.hubRd o.world.toNat a.toNat 8 with
          | some b => decide (t.toNat ≤ leNat b)
          | none => false
        .next ((s.hubSees o.world.toNat a.toNat 8).modOpb s.inp.idx (Opb.reread j now holds))

/-- A core is drained and cleared for 4,096 cycles (R53): it has no last world any more. -/
def State.coreClear (s : State) (c : Nat) : State :=
  let k := s.core c
  let w := match k.lastWorld with | some w => w.toNat | none => 0
  let s := ((((s.scrubAdd w 1 1).scrubAdd w 2 k.l1.length).scrubAdd w 5 2).scrubAdd w 6 k.tlb.length).scrubAdd w 7 k.icache.length
  s.setCore c { k with
    cl := {}, ck := {}, cs := {}, v := [], p := [], queues := [], ports := [], flags := [], fhist := [], flagOs := [], incs := [],
    va := [], vb := [], e0 := {}, e1 := {}, em := {}, recs := [], sp := [], bay := [], l1 := [], tlb := [], icache := [], ilock := [],
    lastWorld := none, clearing := false, prep := 4096 }

/-- CORE_WORLD_CLEAR (R53, R205): of core `Inp.core`, before a job of another world starts or is
switched in, or after containment. -/
def execCoreWorldClear (s : State) : Res :=
  let c := s.inp.core.toNat
  let k := s.core c
  if k.prep = 0 ∧ ((k.starting ∧ k.clearFirst) ∨ (k.job.isNone ∧ (k.clearing ∨ s.hub.saved.any (fun v => v.core == c && (v.placed || !v.keep.isSib) && k.lastWorld.any (· != v.keep.world))))) then
    .next ((s.coreClear c).prepare c)
  else .fault .notEnabled

/-- The lines of a job's PREFETCH entries (R246): a page that is not there is left out. -/
def State.prefetch (s : State) (c : Nat) (l : List (Nat × Nat)) : State :=
  l.foldl (fun s e =>
    let lines := if e.2 = 0 then 0 else (e.1 + e.2 - 1) / 128 - e.1 / 128 + 1
    (List.range lines).foldl (fun s j => (s.fetchLine c (e.1 / 128 + j)).1) s) s

/-- JOB_START (R100, R101): on core `Inp.core`. -/
def execJobStart (s : State) : Res :=
  let c := s.inp.core.toNat
  let k := s.core c
  match k.job with
  | none => .fault .notEnabled
  | some j =>
    if k.starting ∧ !k.clearFirst ∧ k.prep = 0 ∧ k.split.isNone ∧ k.gran = 32 - j.l1g ∧ !k.bumpWaits then
      let r := imageOf ((s.hubRd j.world.toNat j.image.toNat 128).getD [])
      let ctx (x : Nat) : Ctx :=
        { x := j.init, pc := nthW r.entry x, st := if nthW r.entry x = 0 then .notStarted else .running }
      let eng (x : Nat) (e : Eng) : Eng :=
        { chan := e.chan, chFrom := e.chFrom, pc := nthW r.entry x, st := if nthW r.entry x = 0 then .notStarted else .running }
      let k := { k with
        scyc := 0, cl := ctx 0, ck := ctx 1, cs := ctx 2, v := [], p := [], sys := {}, queues := [], ports := [], flags := [],
        fhist := [], flagOs := [], incs := [], va := [], vb := [], vaBusy := 0, vbBusy := 0, flights := [],
        e0 := eng 3 k.e0, e1 := eng 4 k.e1, em := {}, lease := false, leaseReq := false, hold := none, miss := [], raises := [],
        stop := none, hmode := false, resumed := true, hjob := false, starting := false, ended := r.entry.all (· == 0),
        failed := false, halted := false, wdleft := 2 ^ j.wdog, parcels := 0, banks := [], back := [], recs := [], refr := false, passes := [], todo := [],
        lastWorld := some j.world, job := some { j with flue := r.flue, fslots := r.fslot } }
      .next (((s.hubSees j.world.toNat j.image.toNat 128).setCore c k.genbump).prefetch c r.pref)
    else .fault .notEnabled

/-- What the end of a job means to what it belongs to. -/
def State.jobOver (s : State) (c : Nat) (j : Job) : State :=
  match j.kind with
  | .step =>
    let same (i : Job) : Bool := i.kind == .step && i.opb == j.opb && i.step == j.step
    if (s.coresWith same).isEmpty ∧ (s.savedWith same).isEmpty then
      s.modOpb j.opb (fun o => { o with
        running := o.running.filter (· != j.step), bad := o.bad.filter (· != j.step),
        finish := if o.bad.contains j.step then o.finish else o.finish ++ [j.step] })
    else s
  | .rival n r => s.modTour n (fun t => t.modRiv r (fun v => { v with parcels := v.parcels + (s.core c).parcels }))
  | .sibling .. => s

/-- JOB_COMPLETION_RELEASE (R103, R163): of core `Inp.core`. -/
def execJobCompletionRelease (s : State) : Res :=
  let c := s.inp.core.toNat
  match (s.core c).job with
  | some j => if (s.core c).ended ∧ s.jobQuiet c then .next ((s.freeCore c).jobOver c j) else .fault .notEnabled
  | none => .fault .notEnabled

/-- A completion write that was refused (R409): it is dropped and the OPB will end with code 4. A refusal that has no entry yet gets
one with the virtual address (log 66). -/
def State.opbRefused (s : State) (n : Nat) (o : Opb) (va : Nat) (log : Bool) : State :=
  (if log then s.logErr 1 (reqCode 4 0) (BitVec.ofNat 64 va) 0 o.world.toNat 0 else s).modOpb n (fun o => { o with
    finish := o.finish.drop 1, stopCl := true, failed := if o.failed = 0 then 4 else o.failed, page := none })

/-- A hub write that finds a page with V = 0 waits on the paging service (R206, R409). -/
def State.opbPage (s : State) (n : Nat) (o : Opb) (va : Nat) : State :=
  (s.modOpb n (fun o => { o with page := some (BitVec.ofNat 64 va) })).soon
    [.attempt .faultEnqueue { idx := 8, idx2 := n, world := o.world, addr := BitVec.ofNat 64 va, val := 1 }]

/-- An atomic of the hub on a number of a world, which needs R and W (R124): it is performed at its home, and then what follows it; or
else what becomes of the OPB (R409). -/
def State.opbWrite (s : State) (n : Nat) (o : Opb) (va len : Nat) (op : Nat → Nat) (f : State → State) : State :=
  let w := o.world.toNat
  match s.agentPart 4 0 w va len true { r := true, w := true } with
  | (s, .page false) => s.opbPage n o va
  | (s, .ok pa) => f (s.homeWr none w (s.world w).cur pa (leBytes len (op (leNat (s.plainRd w pa len)))))
  | (t, _) => t.opbRefused n o va (t.hub.errpos == s.hub.errpos)

/-- STEP_COMPLETE (R72): the first finished step of OPB `Inp.idx`. -/
def execStepComplete (s : State) : Res :=
  let n := s.inp.idx
  match s.opb n with
  | none => .fault .notEnabled
  | some o => match o.finish, o.page with
    | i :: rest, none =>
      let va := o.progress.toNat + i / 8
      .next (s.opbWrite n o va 1 (fun v => Nat.lor v (2 ^ (i % 8))) (fun s =>
        let t := (o.starts.find? (fun e => e.1 == i)).elim 0 (·.2)
        (s.modOpb n (fun o => { o with
          finish := rest, done := o.done + 1, running := o.running.filter (· != i), starts := o.starts.filter (fun e => e.1 != i) })).modHub
          (fun h => { h with durs := ((h.podTime.toNat - t) :: h.durs).take 1024 })))
    | _, _ => .fault .notEnabled

/-- CIDX moves over completed entries (R34); `fuel` bounds the ring. -/
def State.cidxGo (s : State) (q : Nat) : Nat → State × Bool
  | 0 => (s, false)
  | fuel + 1 =>
    let (_, _, c) := s.qIdx q
    if (s.uq q).doneIx.contains c.toNat then
      let s := (s.modUq q (fun u => { u with doneIx := u.doneIx.filter (· != c.toNat) })).setCidx q (c + 1)
      ((s.cidxGo q fuel).1, true)
    else (s, false)

/-- The OPB leaves: its queue forgets it, a drain of the queue may end, and so may RUN (R21, R30). -/
def State.opbGone (s : State) (n q : Nat) : State :=
  let s := s.modUq q (fun u => { u with opbs := u.opbs.filter (· != n) })
  (s.modHub (fun h => { h with
    opbs := mdel h.opbs n, tours := h.tours.filter (fun e => e.2.opb != n),
    groups := h.groups.filter (fun e => !(e.2.kind == 4 && e.2.opbNo == n)),
    qbusy := h.qbusy && !(h.qid == q && (mget {} h.queues q).opbs.isEmpty) })).hifIdle

/-- OPB_COMPLETE (R34, R69, R73): of OPB `Inp.idx`. A queue sends one interrupt in a hub cycle. -/
def execOpbComplete (s : State) : Res :=
  let n := s.inp.idx
  match s.opb n with
  | none => .fault .notEnabled
  | some o =>
    if !o.running.isEmpty ∨ !o.finish.isEmpty ∨ o.page.isSome ∨ (o.failed = 0 ∧ o.done < o.n) then .fault .notEnabled
    else if o.failed ≠ 0 then .next ((s.opbGone n o.q).qStop o.q 3 o.failed (reqCode 4 0) o.addr o.world.toNat 0)
    else
      let fin (s : State) : State :=
        let s := s.modUq o.q (fun u => { u with doneIx := u.doneIx ++ [o.index.toNat] })
        let (s, moved) := s.cidxGo o.q 65536
        let s := if moved ∧ (s.uq o.q).d.irq ∧ !s.hub.irqd.contains o.q then
            (s.send (.irq 0 (s.uq o.q).d.vec)).modHub (fun h => { h with irqd := h.irqd ++ [o.q] }) else s
        s.opbGone n o.q
      if o.cdone = 0 ∨ o.cinc = 0 then .next (fin s)
      else .next (s.opbWrite n o o.cdone.toNat 8 (· + o.cinc.toNat) fin)

/-- OPBs whose addresses stand in a queue's ring and have not been fetched, as far as they are valid. -/
def State.ringOpbs (s : State) (q : Nat) : List Opb :=
  let u := s.uq q
  let (w, r, _) := s.qIdx q
  ((List.range (Nat.min 65536 (w - r).toNat)).filterMap (fun j =>
    (s.hubRd u.d.world.toNat (u.d.base.toNat + 8 * ((r.toNat + j) % 2 ^ u.d.log)) 8).map (fun b => BitVec.ofNat 64 (leNat b)))).filterMap
      (fun a => match s.opbCheck q 0 a u.d.world u.d.prio with | .ok o => some o | .error _ => none)

/-- Steps to place before a new last entry of queue q, and whether a wait of these is unsatisfied (R81). -/
def State.aheadOf (s : State) (q : Nat) (opb : Word) : Nat × Bool :=
  let u := s.uq q
  let rest (o : Opb) : Nat := if o.left then o.n - o.next + o.claimed.length else 0
  let openWait (o : Opb) : Bool := (List.range o.waits.length).any (fun j => !o.sat.contains j &&
    (match o.waits[j]? with
     | some (a, t) => (match s.hubRd o.world.toNat a.toNat 8 with | some b => leNat b < t.toNat | none => true)
     | none => false))
  let all (p : Nat) : List Opb := (s.qOpbs p).map (·.2) ++ s.ringOpbs p
  let others := (s.hub.hslots.filter (fun e => u.d.prio < (s.uq e.2.q).d.prio)).flatMap (fun e => all e.2.q)
  let self := match s.opbCheck q 0 opb u.d.world u.d.prio with | .ok o => [o] | .error _ => []
  let last := match (all q).getLast? with | some o => if o.addr = opb then rest o else 0 | none => 0
  (((all q ++ others).map rest).sum - last, (all q ++ self).any openWait)

/-- Up to n idle cores for a packet's OPB, chosen as for its steps, one after another, and the last ones as for a smaller step
(R74, R80; log 67); by core order alone where the OPB is not valid. -/
def State.pickResv (s : State) (o : Option Opb) (w : BitVec 10) : Nat → Nat → List Nat → List Nat
  | 0, _, _ => []
  | fuel + 1, n, l => match o with
    | none => (s.takeCores w l (Nat.min n l.length)).getD []
    | some o => match (List.range (Nat.min n o.cps)).reverse.findSome? (fun m => s.pickStep { o with cps := m + 1 } l) with
      | some cs => cs ++ s.pickResv (some o) w fuel (n - cs.length) (l.filter (fun c => !cs.contains c))
      | none => []

/-- LAUNCH_PACKET (R80, R81): `Inp.data` is the packet, `Inp.idx` the link it came on, `Inp.ok` that its source is admitted. -/
def execLaunchPacket (s : State) : Res :=
  let d := padTo 64 s.inp.data
  let q := fld d 0x10 2
  let w := fld d 0x12 2
  let nres := fld d 0x14 2
  let opb := fldW d 0x18
  let bad : Bool := s.inp.data.length != 64 || fld d 0 4 != 0x504C4C50 || fld d 4 2 != 1 || 2 ≤ fld d 6 2 || 512 < nres
    || fld d 0x16 2 != 0 || fld d 0x28 24 != 0 || opb.toNat % 256 != 0
  let (s, st) := if !s.inp.ok then (s, 5) else if bad then (s, 4) else
    match (if 4096 ≤ q then (s, 2) else s.launchAt q w opb) with
    | (s, 5) => (s, 6)
    | r => r
  let now := s.hub.podTime.toNat
  let taken := if st = 0 ∧ fld d 6 2 = 1 then
      let o := match s.opbCheck q 0 opb (BitVec.ofNat 10 w) (s.uq q).d.prio with | .ok o => some o | .error _ => none
      s.pickResv o (BitVec.ofNat 10 w) 513 nres (s.idleCores (some (q, opb)))
    else []
  let s := s.modHub (fun h => { h with
    resv := taken.foldl (fun m c => mset m c (fld d 0x20 8 + 1)) h.resv, resvFor := taken.foldl (fun m c => mset m c (q, opb)) h.resvFor })
  let start := if st ≠ 0 then 0 else
    match s.aheadOf q opb, s.hub.durs with
    | (_, true), _ | _, [] => 2 ^ 64 - 1
    | (n, false), ds => now + n * (ds.sum / ds.length)
  let res := (List.range 8).flatMap (fun i => leBytes 2 (taken.filter (fun c => dieOf c == i)).length)
  let widx := if q < 4096 then (s.qIdx q).1.toNat else 0
  .next (s.send (.report s.inp.idx (leBytes 4 0x52524C50 ++ leBytes 2 1 ++ leBytes 2 st ++ leBytes 8 (fld d 8 8) ++ leBytes 8 now
    ++ leBytes 8 start ++ res ++ leBytes 2 q ++ leBytes 2 w ++ leBytes 4 widx ++ leBytes 8 0)))

/-- RESERVATION_EXPIRY (R80): of core `Inp.core`. -/
def execReservationExpiry (s : State) : Res :=
  let c := s.inp.core.toNat
  let r := mget 0 s.hub.resv c
  if r ≠ 0 ∧ r ≤ s.hub.podTime.toNat + 1 then
    .next (s.modHub (fun h => { h with resv := mdel h.resv c, resvFor := mdel h.resvFor c }))
  else .fault .notEnabled

end Sys2Proof.Machine
end

