-- ==== Sys2Proof/Machine/Stops.lean ====
section
/-! DEFINITION. Taking a stop and returning from one (10 R190-R205; 06 R119; 14 R300): the causes, the freeze, the capture,
the route of Table 10-1, handler entry, RESUME, containment, pre-emption and the context switch. -/

namespace Sys2Proof.Machine

/-- Priority of a stop cause (Table 10-1), 1 the highest. -/
def causePrio (cause : Nat) : Nat :=
  if [4, 5, 8, 9, 10, 13].contains cause then 1
  else if [6, 7, 11, 12].contains cause then 2
  else if [1, 3].contains cause then 3
  else if cause = 2 then 4
  else if cause = 15 then 5
  else if cause = 14 then 6
  else 7

/-- The order in which causes of one edge are recorded (R190): priority, stream, slot. -/
def Raise.key (r : Raise) : Nat := ((causePrio r.cause * 8 + r.stream) * 8 + r.slot) * 65536 + r.detail
/-- A breakpoint has fired (R212). -/
def Raise.hit (r : Raise) : Bool := r.cause == 2 || r.slot == 4
/-- The cause that is recorded: of two breakpoints the lower index (R190, R212). -/
def recorded (l : List Raise) : Option Raise :=
  match leastBy Raise.key l with
  | none => none
  | some r => if r.hit then leastBy (·.detail) (l.filter (fun q => q.hit && q.cause == r.cause)) else some r

/-- Containment (R204, R205): `reason` of R204, and the stop cause that led to it or 0. A core without a job is logged and cleared. -/
def State.contain (s : State) (c reason cause : Nat) : State :=
  match (s.core c).job with
  | none => (s.logErr 8 (reqCode 1 c) 0 (BitVec.ofNat 32 (reason * 256 + cause)) 0 0).modCore c (fun k => { k with clearing := true })
  | some j =>
    let s := s.logErr 8 (reqCode 1 c) 0 (BitVec.ofNat 32 (reason * 256 + cause)) j.world.toNat 0
    let s := (((s.freeHeld c true).peerRelease c 1).leaseKill c).dropReqs c true   -- what was accepted is performed (R205)
    let s := s.modCore c (fun k => { k.endStreams with starting := false, clearing := true, failed := true, ports := [] })
    let s := s.sgParentFail c
    match j.kind with
    | .step => s.modOpb j.opb (fun o => { o with
        bad := if o.bad.contains j.step then o.bad else o.bad ++ [j.step],
        failed := if o.failed = 0 then 8 else o.failed, stopCl := true })
    | .sibling n i => s.sibFail n i
    | .rival n r => s.rivFail n r

/-- The PC of a stream, 0 for none; a drain's is that of its KDRAIN. -/
def State.streamPc (s : State) (c stream : Nat) : Word :=
  let k := s.core c
  match stream with
  | 0 => k.cl.pc
  | 1 => k.ck.pc
  | 2 => k.cs.pc
  | 3 => k.e0.pc
  | 4 => k.e1.pc
  | 5 => k.em.pc
  | 6 => match (s.kiln (kilnOf c)).drain with | some d => d.kpc | none => k.em.pc
  | _ => 0

/-- The STOP record (R213); a sealed world's PC and address are zero. -/
def State.traceStop (s : State) (c : Nat) (r : Raise) : State :=
  let open' : Bool := (s.core c).world == 0
  s.trace 20 2 c (s.core c).scyc.toNat (r.cause + 256 * r.stream) r.detail
    (leBytes 8 (if open' then (s.streamPc c r.stream).toNat else 0) ++ leBytes 8 (if open' then r.addr.toNat else 0))

/-- Flag waits of a core that stops end there for the log (R219). -/
def State.stopWaits (s : State) (c : Nat) : State :=
  let s := (List.range 3).foldl (fun s x =>
    let t := (s.core c).ctx x
    match t.wait with
    | some (.flag f g) =>
      (s.logWait c x f.toNat g t.waitFrom 4).modCore c (fun k => k.modCtx x (fun t => { t with waitFrom := 0 }))
    | _ => s) s
  (List.range 3).foldl (fun s e =>
    let x := (s.core c).eng e
    let one (r : BitVec 4) (f : BitVec 6) : State :=
      (s.logWait c (3 + e) f.toNat ((x.rr r.toNat).setWidth 32) x.waitFrom 4).modCore c (fun k =>
        k.modEng e (fun x => { x with waitFrom := 0 }))
    match x.cur with
    | some w => if w.begun then (match w.i with
        | .cwait _ r f _ | .kwait _ r f _ => one r f
        | _ => s) else s
    | none => s) s

/-- An operation that its stop records as faulted raises again when it is performed again. -/
def Core.refaults (k : Core) (r : Raise) : Bool :=
  k.flights.any (fun f => f.phase == .faulted && f.src == r.stream && f.slot == r.slot && f.fault == r.cause)

/-- Issue order of the result-port ages, which the image does not hold. -/
def Core.ageOrds (k : Core) : List (Nat × Bool) :=
  [k.va, k.vb].flatMap (fun l => (List.range 4).map (fun j => match l[j]? with | some a => (a.ord, a.pack) | none => (0, false)))

/-- CORE_STOP (R190, R191): core `Inp.core` takes the stop recorded on this edge. Causes raised at issue freeze the SCYC
of that issue; those raised after issue are taken on the edge that ends their SCYC (R398). -/
def execCoreStop (s : State) : Res :=
  let c := s.inp.core.toNat
  let k := s.core c
  let now := k.raises.filter (fun r => !r.late)
  match recorded (if now.isEmpty then k.raises else now) with
  | none => .fault .notEnabled
  | some r =>
    if !k.runs ∨ k.hold.isSome ∨ (k.stop.isSome ∧ !k.hmode) then .fault .notEnabled
    else if k.hmode then .next (s.contain c 2 r.cause)
    else
      let s := (s.traceStop c r).stopWaits c
      let wants := (List.range 3).any (fun x => (k.ctx x).wait == some .lease)
      let s := if wants ∧ k.em.st ≠ .parked then s.leaseDrop c else s
      let s := if k.lease then s.dropChunks (kilnOf c) else s
      .next (s.modCore c (fun k => { k with
        raises := [], hold := none, todo := [], miss := [], moved := none,
        bpskip := if r.hit && r.cause = 1 then k.bpskip ++ [r.detail] else k.bpskip,
        stop := some ⟨r, false, k.ck, k.vaBusy, k.vbBusy,
          k.raises.filter (fun q => q != r && (q.cause == 15 || (!r.late && q.late && !k.refaults q))), k.ageOrds⟩ }))

/-- What captured LDQ data does at a stop: pops that took their entries receive it, and an LDQ whose entry is gone has no
record (R194, R275). -/
def Core.captureQ (k : Core) : Core :=
  (k.flights.filter (fun f => f.phase == .captured && (match f.i with | .ldq .. => true | _ => false))).foldl (fun k f =>
    let k := { k with flights := k.flights.map (fun g => match g.i with
      | .qpop .. | .qpeek .. => if g.phase = .unsent ∧ g.dest = f.id then
          { g with phase := .captured, data := f.data, remain := f.remain + 1, live := true } else g
      | _ => g) }
    if k.queues.any (fun q => q.2.ents.any (fun e => e.val.isNone && e.src == f.id)) then k else k.dropFlight f) k

/-- Handler entry (R191 step 4, R196): K runs at TVEC with its x registers as they are; the rest of what the image holds
is set aside until RESUME. -/
def Core.enter (k : Core) : Core :=
  { k with
    ck := { k.ck with pc := k.sys.tvec, st := .running, delay := 0, loops := [], seq := none, tok := [], mcBusy := 0, wait := none,
                      waitFrom := 0, rel := none, arrived := false, halting := false },
    va := [], vb := [], vaBusy := 0, vbBusy := 0, flights := [], passes := [], hmode := true }

/-- A stop routed to TVEC; TVEC 0 contains the core (R204, R299). -/
def State.toTvec (s : State) (c cause : Nat) : State :=
  if (s.core c).sys.tvec = 0 then s.contain c 7 cause else s.modCore c Core.enter

/-- The page a PAGE stop asks for, and the flags of its fault entry (R206): an access that crosses into a page that is
not valid names that page. -/
def State.pageAsk (s : State) (c : Nat) (r : Raise) : Nat × Nat :=
  let k := s.core c
  let w := k.world.toNat
  let a := r.addr.toNat
  let leaf (x : Nat) : Bool := match s.walk w x with | .leaf _ => true | _ => false
  let va := if leaf a ∧ !leaf (a + 65536) then a + 65536 else a
  let op := k.flights.find? (fun f => f.phase == .faulted && f.fault == 7 && f.src == r.stream && f.slot == r.slot)
  let fst : Bool := match (s.kiln (kilnOf c)).drain with
    | some d => (match (d.prog[d.pc - 1]?).bind (fun x => decodeOpt .flue x.toNat) with | some (.fst ..) => true | _ => false)
    | none => false
  let sync : Bool := match k.em.cur with | some w => (match w.i with | .ksync _ => true | _ => false) | none => false
  let wr := match op with | some f => isWrite f.i || (match f.i with | .tgrow .. => true | _ => false) | none => (r.stream == 6 && fst) || (r.stream == 5 && sync)
  let x := op.any (fun f => match f.i with | .iclock .. => true | _ => false) || op.isNone && (r.stream ≤ 2 || (r.stream == 5 && k.em.cur.isNone))
  (va / 65536 * 65536, (if wr then 1 else 0) + (if x then 2 else 0)
    + (match s.walk w va with | .malformed => 4 | _ => 0) + (if 5 ≤ r.stream then 8 else 0))

/-- Where a captured stop goes (Table 10-1). A PREEMPT stop waits for the scheduler (PREEMPT_STOP). -/
def State.route (s : State) (c : Nat) (r : Raise) : State :=
  let halt (s : State) : State := s.modCore c (fun k => { k with halted := true })
  match r.cause with
  | 14 => s
  | 15 => halt s
  | 7 =>
    let (va, fl) := s.pageAsk c r
    s.soon [.attempt .faultEnqueue {
      core := BitVec.ofNat 9 c, idx := 0, world := (s.core c).world, addr := BitVec.ofNat 64 va, val := BitVec.ofNat 64 fl }]
  | 1 | 2 => if (s.core c).attached then halt s else s.toTvec c r.cause
  | _ => s.toTvec c r.cause

/-- Everything that has left a stopped core has come back or is done: requests, reads of its units, and accepted writes, but for those
behind a read that its record will send again (R191). -/
def Core.returned (k : Core) : Bool :=
  !k.flights.any Flight.outside && k.far.all (fun x => x.2.left == 0)
    && (match k.wq.head? with
        | some w => w.after.any (fun id => (k.flight id).any (fun f => f.phase == .unsent))
        | none => true)

/-- STOP_CAPTURE_COMPLETE (R191): of core `Inp.core`. -/
def execStopCaptureComplete (s : State) : Res :=
  let c := s.inp.core.toNat
  let k := s.core c
  match k.stop with
  | none => .fault .notEnabled
  | some st =>
    if st.written ∨ k.hmode ∨ !k.returned then .fault .notEnabled
    else
      let s := (s.modCore c Core.captureQ).writeBay c st.r
      let s := s.modCore c (fun k => { k with stop := some { st with written := true } })
      .next (s.route c st.r)

/-- RESUME of a core by its handler, a debugger or the hardware: a bay that fails validation contains the core (R197). -/
def State.resumeCore (s : State) (c : Nat) : State :=
  if (s.core c).bayOk then s.resume c else s.contain c 3 0

/-- RESUME (R197, R300). -/
def execResume (s : State) : Res :=
  issue .resume s (fun s =>
    if s.cur.src = 1 ∧ s.me.hmode then s.resumeCore s.cur.core else raiseAt s 5 0 0)

/-- JOB_WATCHDOG_EXPIRY (R119): of core `Inp.core`. -/
def execJobWatchdogExpiry (s : State) : Res :=
  let c := s.inp.core.toNat
  let k := s.core c
  match k.job with
  | some j =>
    if k.runs ∧ k.stop.isNone ∧ k.wdleft = 0 then
      .next ((raiseOn s c 16 7 0 0 0).modCore c (fun k => { k with wdleft := 2 ^ j.wdog }))
    else .fault .notEnabled
  | none => .fault .notEnabled

/-- BARRIER_WATCHDOG_EXPIRY (R293): of group-table entry `Inp.idx`. -/
def execBarrierWatchdogExpiry (s : State) : Res :=
  let g := s.grp s.inp.idx
  if g.left = some 0 ∧ g.arrived ≠ 0 then .next (s.barRelease s.inp.idx 3 0) else .fault .notEnabled

/-- ECC_UNCORRECTABLE_ERROR (R204): in core state of core `Inp.core`. -/
def execEccUncorrectableError (s : State) : Res := .next (s.contain s.inp.core.toNat 1 0)

/-- The unit of core c whose waiter number (R206) is `n` as its stops name it: stream and REQ. -/
def unitOf (c n : Nat) (k : Core) : Nat × Nat :=
  if n ≤ 2 then (2 + n, reqCode 2 (2 * c + (n - 1)))
  else if n = 3 then (5, reqCode 3 (kilnOf c))
  else if n ≤ 7 then ((match mfind k.ports (n - 4) with | some p => p.ctx | none => 0), reqCode 1 c)
  else if n ≤ 10 then (n - 8, reqCode 1 c)
  else if n ≤ 13 then (n - 11, reqCode 1 c)
  else if n ≤ 18 then (3 + (n - 17), reqCode 2 (2 * c + (n - 17)))
  else (5, reqCode 3 (kilnOf c))

/-- A read of core c that has waited 2,000,000 ns for an agent of a kind (R14, R16): `which` 0 names operation `Inp.idx`, another number
the unit with that waiter number (1 and 2 the engines, 3 the kiln, 4 to 7 the ports, 8 to 10 a context's FLUELD; 11 to 13 the fetch of
a context's parcels, 17 to 19 that of an engine's words). -/
def State.readTimeout (s : State) (c which : Nat) (far : Nat → Bool) : Bool :=
  let k := s.core c
  match which with
  | 0 => match k.flight s.inp.idx with
    | some f => f.phase == .sent && isRead f.i && f.parts.any (fun p => far p.1) && f.sentAt + 2000000 ≤ s.hub.podTime.toNat
    | none => false
  | n => match mfind k.far n with
    | some x => k.runs && k.stop.isNone && far x.pa && x.sent + 2000000 ≤ s.hub.podTime.toNat
    | none => false

/-- It completes as poisoned: the load stops with ACCESS, a unit's core with the unit's stream. An atomic is not performed. -/
def State.poisonRead (s : State) (c which : Nat) : State :=
  let w := (s.core c).world.toNat
  match which with
  | 0 => match (s.core c).flight s.inp.idx with
    | some f => ((s.logErr 5 (reqCode 1 c) f.ea 0 w 0).faultFlight c f 6).modCore c (fun k =>
      { k with wq := k.wq.filter (fun p => !(f.i.atom.isSome && p.flight == f.id)) })
    | none => s
  | n => match mfind (s.core c).far n with
    | some x =>
      let (stream, req) := unitOf c n (s.core c)
      raiseOn ((s.logErr 5 req (BitVec.ofNat 64 x.va) 0 w 0).modCore c (fun k => { k with far := mdel k.far n })) c 6 stream 0 0
        (BitVec.ofNat 64 x.va)
    | none => s

/-- MODULE_HOST_READ_TIMEOUT (R14, R39): of core `Inp.core`; `Inp.idx2` says which read. -/
def execModuleHostReadTimeout (s : State) : Res :=
  let c := s.inp.core.toNat
  if s.readTimeout c s.inp.idx2 (fun pa => pa / 2 ^ 54 == 2 || pa / 2 ^ 54 == 3) then .next (s.poisonRead c s.inp.idx2)
  else .fault .notEnabled

/-- A bundle context counts as arrived (R202). -/
def Ctx.atSafe (t : Ctx) : Bool :=
  !t.st.isRun || (match t.wait with
    | some (.safept _) | some (.queue ..) | some .port | some (.flag ..) | some (.bar _) | some .lease => true
    | _ => false)

/-- A copy engine counts as arrived (R202, R397). -/
def Core.engAtSafe (k : Core) (e : Nat) : Bool :=
  let x := k.eng e
  x.chan.all (fun b => b.2.isEmpty) && (!x.st.isRun || (match x.cur with
    | some w => (match w.i with
      | .csync .. => !w.begun
      | .cwait .. => w.begun
      | _ => false)
    | none => false))

/-- Every stream of the core has arrived. -/
def Core.allSafe (k : Core) : Bool :=
  k.cl.atSafe && k.ck.atSafe && k.cs.atSafe && k.engAtSafe 0 && k.engAtSafe 1 && !k.em.st.isRun

/-- The safe-mask index recorded: K's, or where K has ended S's, then L's. -/
def Core.safeIdx (k : Core) : Nat :=
  let ix (t : Ctx) : Nat := match t.wait with | some (.safept n) => n.toNat | _ => 0xFFFF
  if k.ck.st.isRun then ix k.ck else if k.cs.st.isRun then ix k.cs else ix k.cl

/-- The PREEMPT cause of a core whose streams have all arrived; a drain of its kiln ends first, and for a round's stop the stores in
flight leave the core first, since the boundary comes after them (R408; log 72). `late` is false on the edge at which a hold ends. -/
def State.preemptArrive (s : State) (c : Nat) (late : Bool) : State :=
  let k := s.core c
  match k.preempt with
  | some d =>
    if k.runs ∧ k.stop.isNone ∧ k.hold.isNone ∧ k.mute = 0 ∧ k.allSafe ∧ !(k.lease && (s.kiln (kilnOf c)).isDraining)
        ∧ (d = 0 ∨ k.flights.all (fun f => !(isWrite f.i && (f.phase == .unsent || f.phase == .held)))) then
      s.modCore c (fun k => { k with raises := k.raises ++ [⟨14, 7, 0, d, 0, k.safeIdx, late⟩] })
    else s
  | none => s

/-- A core that the scheduler may pre-empt. -/
def Core.canPreempt (k : Core) : Bool := (k.runs || k.starting) && k.preempt != some 0

/-- PREEMPT_REQUEST (R88, R96, R202): the scheduler pre-empts the job of core `Inp.core`; for a sibling every running sibling of
its group, for a rival every core of its scope, those too that have just been placed or that stand stopped for a round. -/
def execPreemptRequest (s : State) : Res :=
  let c := s.inp.core.toNat
  let k := s.core c
  let ask (s : State) (l : List Nat) : State := l.foldl (fun s d =>
    s.modCore d (fun k => if k.canPreempt ∧ !(k.stop.any (fun st => st.r.cause == 14 && st.r.detail == 0)) then
      { k with preempt := some 0 } else k)) s
  match k.job with
  | none => .fault .notEnabled
  | some j =>
    if !k.canPreempt then .fault .notEnabled
    else match j.kind with
      | .step => .next (ask s [c])
      | .sibling n _ =>
        let s := s.modSg n (fun g => { g with
          st := if g.st = 0 then 1 else g.st,
          sibs := g.sibs.map (fun e => (e.1, if e.2.st = 0 ∧ e.2.running then { e.2 with paused := true } else e.2)) })
        let s := s.modHub (fun h => { h with
          saved := h.saved.map (fun v => if v.keep.job.any (isSibIn n) then { v with placed := false } else v) })
        .next (ask s (s.coresWith (isSibIn n)))
      | .rival n _ => .next (ask (s.modTour n (fun t => { t with frozen := true })) (s.coresWith (isRivalIn n)))

/-- A safe-mask entry (R236): live x registers of L, K and S, live p and v. An index that is not defined is a zero entry; a stop
without a safe point keeps everything (log 24). -/
def State.safeMask (s : State) (j : Job) (ix : Nat) : List Nat × Nat × Nat :=
  let all := ([2 ^ 32 - 1, 2 ^ 32 - 1, 2 ^ 32 - 1], 2 ^ 16 - 1, 2 ^ 64 - 1)
  let r := imageOf ((s.hubRd j.world.toNat j.image.toNat 128).getD [])
  if ix = 0xFFFF then all
  else if r.nsafe ≤ ix then ([0, 0, 0], 0, 0)
  else match s.hubRd j.world.toNat (r.mask.toNat + 32 * ix) 32 with
    | some b => ([fld b 0 4, fld b 4 4, fld b 8 4], fld b 12 2, fld b 16 8)
    | none => all

/-- What the hub reads for it (R57). -/
def State.safeSees (s : State) (j : Job) (ix : Nat) : State :=
  let w := j.world.toNat
  if ix = 0xFFFF then s
  else
    let r := imageOf ((s.hubRd w j.image.toNat 128).getD [])
    let s := s.hubSees w j.image.toNat 128
    if r.nsafe ≤ ix then s else s.hubSees w (r.mask.toNat + 32 * ix) 32

/-- Locked line ranges, adjacent ones joined (R203). -/
def joinLocks (l : List (Nat × Nat)) : List (Nat × Nat) :=
  (l.foldl (fun (a : List (Nat × Nat)) e => match a with
    | (b, n) :: r => if b + n = e.1 then (b, n + e.2) :: r else e :: a
    | [] => [e]) []).reverse

/-- The save area (Table 10-4): its bytes, and n and c of its image. -/
def State.saveArea (s : State) (c : Nat) (j : Job) (ix : Nat) : List Byte × Nat × Nat :=
  let k := s.core c
  let (xs, ps, vs) := s.safeMask j ix
  let n := k.bayN 6 2
  let cap := k.bayN 8 1
  let img := (List.range 3).foldl (fun (m : Mem) x => (List.range 32).foldl (fun m r =>
    if tbit (nthN xs x) r then m else wrN m (0x80 + 256 * x + 8 * r) 8 0) m) k.bay
  let img := (List.range 15).foldl (fun m r => if tbit ps (r + 1) then m else wrN m (0x800 + 256 * r) 256 0) img
  let regs (e : Eng) : List Byte := (List.range 16).flatMap (fun r => leBytes 8 (e.rr r).toNat)
  let locks := (joinLocks k.ilock).take 128
  let body := (List.range 64).flatMap (fun f => leBytes 4 (k.flag f).toNat) ++ regs k.e0 ++ regs k.e1 ++ regs k.em
    ++ padTo 1024 (locks.flatMap (fun e => leBytes 6 e.1 ++ leBytes 2 e.2)) ++ rdBs img 0 0x1800 ++ rdBs k.bay 0x1800 (128 * n)
    ++ (List.range cap).flatMap (fun i => rdBs k.bay (0xF800 - 0x800 * i) 2048)
    ++ (List.range 64).flatMap (fun v => if tbit vs v then leBytes 2048 (k.rv v).toNat else []) ++ rdBs k.sp 0 (131072 * k.gran)
  (leBytes 4 0x53434C50 ++ leBytes 2 ix ++ leBytes 1 k.gran ++ leBytes 1 k.l1gen.toNat ++ leBytes 8 (16 + body.length) ++ body, n, cap)

/-- Switch a stopped core out (R203): the area is written to the world's memory, read ports give back what was not taken, locks are
released. The engines' current shapes are not saved (R378). A debugger stays attached, since no job has ended (R211). -/
def State.switchOut (s : State) (c : Nat) (j : Job) (ix pa : Nat) : State :=
  let (bytes, n, cap) := s.saveArea c j ix
  let w := j.world.toNat
  let s := (((s.safeSees j ix).rangeAccess 4 0 w pa bytes.length true).1).homeWr none w (s.world w).cur pa bytes
  let s := if (s.core c).lease then (s.discardOpen (kilnOf c)).leaseEnd (kilnOf c) false else s
  let s := s.leaseDrop c
  let k := s.core c
  let keep := { k with
    preempt := none, v := [], sp := [], bay := [], recs := [], far := [], e0 := { k.e0 with shape := none }, e1 := { k.e1 with shape := none }, l1 := k.l1.filter (fun e => k.lockedPa e.1), tlb := [], icache := [],
    ports := k.ports.map (fun e => (e.1, if e.2.wr then e.2 else { e.2 with tiles := [], part := [], moved := e.2.cons, fresh := 0 })) }
  let s := s.modHub (fun h => { h with saved := h.saved ++ [⟨c, pa, bytes.length, false, n, cap, keep⟩] })
  s.modCore c (fun k => { k.endStreams with job := none, ended := false, ports := [], ilock := [], lastWorld := some j.world, attached := k.attached, bps := k.bps })

/-- Where the scheduler may put a save area: in the memory of the job's world, apart from the other areas (R203), and where no watched range refuses it (R57). -/
def State.areaOk (s : State) (w pa n : Nat) : Bool :=
  s.owns w pa n && (s.rangesBad 4 pa n).isEmpty && s.hub.saved.all (fun v => pa + n ≤ v.pa || v.pa + v.len ≤ pa)

/-- A stopped core is switched out once its writes and ports have drained and the scheduler has a place for the area (R203). -/
def State.switchOutTry (s : State) (c : Nat) (j : Job) (ix : Nat) : Res :=
  let k := s.core c
  if !k.wq.isEmpty ∨ !k.portsDrained then .fault .notEnabled
  else if !s.areaOk j.world.toNat s.inp.addr.toNat (s.saveArea c j ix).1.length then .fault .notEnabled
  else .next (s.switchOut c j ix s.inp.addr.toNat)

/-- PREEMPT_STOP (R92, R202, R203): core `Inp.core` has stopped at its safe point. The scheduler's request switches it out once its
writes are done, to a save area at physical address `Inp.addr`; the stop of a tournament round (DETAIL 1) leaves it where it is. -/
def execPreemptStop (s : State) : Res :=
  let c := s.inp.core.toNat
  let k := s.core c
  match k.stop, k.job with
  | some st, some j =>
    if st.r.cause ≠ 14 ∨ !st.written then .fault .notEnabled
    else if st.r.detail = 1 then
      match j.kind with
      | .rival n r =>
        match (s.tour n).bind (fun t => t.riv r) with
        | some v =>
          if !v.stopped.contains c then
            .next ((s.modTour n (fun t => t.modRiv r (fun v => { v with stopped := v.stopped ++ [c] }))).modCore c (fun k =>
              { k with preempt := if k.preempt = some 0 then some 0 else none }))
          else if k.preempt = some 0 then s.switchOutTry c j st.r.idx
          else .fault .notEnabled
        | none => .fault .notEnabled
      | _ => .fault .notEnabled
    else s.switchOutTry c j st.r.idx
  | _, _ => .fault .notEnabled

/-- The saved jobs that come back together: all cores of a scope, else the job alone. -/
def State.backWith (s : State) (v : Saved) : List Saved :=
  match v.keep.kind with
  | some (.rival n _) => s.savedWith (isRivalIn n)
  | _ => [v]

/-- Whether every core of such a set can take its job back: a sibling has been placed (R88), and all of a scope's stops have been
made. -/
def State.canSwitchIn (s : State) (v : Saved) : Bool :=
  let all : Bool := match v.keep.kind with
    | some (.sibling ..) => v.placed
    | some (.rival n _) => (s.coresWith (isRivalIn n)).all (fun c => (s.core c).ended)
    | _ => true
  all && (s.backWith v).all (fun v =>
    let k := s.core v.core
    k.job.isNone && !k.clearing && k.prep == 0 && k.split.isNone && k.wq.isEmpty
      && (match k.lastWorld with | some w => w == v.keep.world | none => true))

/-- Put a saved job back on its core from its area (R203): vector registers that the safe mask does not name hold a free
value. A core that had stopped for a tournament's round stays stopped. -/
def State.switchIn (s : State) (v : Saved) : State :=
  let b := s.savedArea v
  let k0 := s.core v.core
  match v.keep.job, v.keep.stop with
  | some j, some st =>
    let (_, _, vs) := s.safeMask j st.r.idx
    let s := (s.areaSees v).safeSees j st.r.idx
    let vecs := b.drop (0x1E90 + 128 * v.ncore + 2048 * v.ncap)
    let live := (List.range 64).filter (fun i => tbit vs i)
    let sp := vecs.drop (2048 * live.length)
    let vm := (List.range 64).foldl (fun (m : Map Tile) i =>
      let t : Tile := match live.findIdx? (· == i) with
        | some p => BitVec.ofNat 16384 (leNat ((vecs.drop (2048 * p)).take 2048))
        | none => Config.freeTile (s.free + i)
      mput 0 m i t) []
    let regs (e : Eng) (o : Nat) : Eng := (List.range 16).foldl (fun e r => e.wr r (fldW b (o + 8 * r))) e
    let k := { v.keep with
      v := vm, sp := wrBs ([] : Mem) 0 sp, bay := savedBay b v.ncore v.ncap, gran := fld b 6 1, l1gen := BitVec.ofNat 8 (fld b 7 1),
      flags := (List.range 64).foldl (fun m f => mput 0 m f (BitVec.ofNat 32 (fld b (16 + 4 * f) 4))) [],
      e0 := regs v.keep.e0 0x110, e1 := regs v.keep.e1 0x190, em := regs v.keep.em 0x210,
      tlb := k0.tlb, recs := k0.recs, attached := k0.attached, bps := k0.bps, icache := [], ilock := [], sweep := k0.sweep, ctr := k0.ctr, cntovf := k0.cntovf, cntcfg := k0.cntcfg, cnew := k0.cnew,
      cclr := k0.cclr, cfgNext := k0.cfgNext,
      lastWorld := some j.world, wq := [], prep := 0 }
    let s := { s.setCore v.core k with free := s.free + 64 }
    let locks := (List.range 128).map (fun i => (fld b (0x290 + 8 * i) 6, fld b (0x296 + 8 * i) 2))
    let s := (locks.filter (fun e => e.2 != 0)).foldl (fun s e => (s.icLock v.core e.1 e.2).1) s
    if st.r.detail = 1 then s
    else
      let s := s.resumeCore v.core
      let s := if (s.core v.core).em.st = .parked then s.leaseAsk v.core else s
      match j.kind with
      | .rival n r =>
        let again := ((s.tour n).bind (fun t => t.riv r)).any (fun v => v.asked || v.yield)
        if again then s.modCore v.core (fun k => { k with preempt := some 1 }) else s
      | _ => s
  | _, _ => s

/-- CONTEXT_SWITCH_IN (R88, R203): saved job `Inp.idx`, with those that come back with it. -/
def execContextSwitchIn (s : State) : Res :=
  match s.hub.saved[s.inp.idx]? with
  | none => .fault .notEnabled
  | some v =>
    if s.canSwitchIn v then
      let l := s.backWith v
      let s := s.modHub (fun h => { h with saved := h.saved.filter (fun x => !l.any (fun y => y == x)) })
      .next (l.foldl State.switchIn s)
    else .fault .notEnabled

end Sys2Proof.Machine
end

