-- ==== Sys2Proof/Machine/Parcel.lean ====
section
/-! DEFINITION. A bundle context's parcel before it issues (13 R250-R252, R272; 06 R109, R110): its fetch, its syllables, the
checks of its control field, and the holds it meets (07 R128, R143, R144; 10 R187). -/

namespace Sys2Proof.Machine

/-- A syllable of a parcel: none for a word that is no legal encoding; `dead` when LOOPM squashes it (R286). -/
structure Syl where
  slot : Nat
  i    : Option Instr
  stg  : Nat
  dead : Bool
deriving DecidableEq, Repr

/-- The parcel at a context's PC (R250): the cause of the stop and whether a page is malformed, where it is not fetched. -/
def State.parcelBits (s : State) (c x : Nat) : State × Except (Nat × Bool) Nat :=
  let pc := ((s.core c).ctx x).pc.toNat
  match s.fetchLine c (pc / 128) (who := 11 + x) with
  | (s, .ok b) => (s, .ok (bits b.toNat (8 * (pc % 128)) (8 * parcelBytes x)))
  | (s, .error e) => (s, .error e)

def parcelOf (x w : Nat) : Parcel := if x = 1 then Parcel.of256 w else Parcel.of128 w

/-- The stage tag of a slot (R251). -/
def stageOf (t : Ctl) (slot : Nat) : Nat :=
  match slot with | 0 => t.stg0 | 1 => t.stg1 | 2 => t.stg2 | _ => t.stg3

/-- Under LOOPM a syllable of stage s runs as iteration j - s, or is squashed (R286). -/
def squashed (q : Option Seqr) (stg : Nat) : Bool :=
  match q with
  | some q => q.iter < stg || q.trip ≤ q.iter - stg
  | none => false

/-- The syllables of a parcel, in slot order. -/
def sylsOf (p : Parcel) (q : Option Seqr) : List Syl :=
  p.syls.zipIdx.map (fun e =>
    let stg := stageOf p.ctl e.2
    ⟨e.2, match decodeOpt e.1.1 e.1.2 with | some i => if i.wf then some i else none | none => none, stg, squashed q stg⟩)

/-- The syllables that take effect. -/
def liveOf (l : List Syl) : List (Nat × Instr) := l.filterMap (fun y => if y.dead then none else y.i.map (fun i => (y.slot, i)))

/-- What a parcel's encoding stops on (R110, R251, R252, R269, R287): cause, detail and slot. -/
def parcelFaults (p : Parcel) (l : List Syl) (q : Option Seqr) (inter : Bool) : List (Nat × Nat × Nat) :=
  let t := p.ctl
  let var := l.filter (fun y => match y.i with | some i => i.isVar | none => false)
  let safe := l.any (fun y => match y.i with | some (.safept _) => true | _ => false)
  let when' (b : Bool) (f : Nat × Nat × Nat) : List (Nat × Nat × Nat) := if b then [f] else []
  when' (t.rsvd != 0) (4, 0, 0) ++ when' (t.safe != safe) (4, 0, 0)
    ++ when' (!inter && t.tokid != 0 && !t.settok) (4, 0, 0)
    ++ when' (!inter && t.settok && var.isEmpty) (4, 0, 0)
    ++ (if inter || t.settok then [] else (var.take 1).map (fun y => (4, 5, y.slot)))
    ++ when' (!inter && q.isSome && t.stall != 0) (10, 0, 0)
    ++ (l.filter (fun y => y.i.isNone)).map (fun y => (4, 0, y.slot))
    ++ (l.filter (fun y => match q with | some q => q.stages ≤ y.stg | none => y.stg != 0)).map (fun y => (10, 0, y.slot))

/-- The own scratchpad offset that an MC syllable accesses at issue. -/
def Core.spUse (k : Core) (c x : Nat) (i : Instr) : Option Nat :=
  match i with
  | .bind .. => none
  | _ => match i.maddr with
    | none => none
    | some m =>
      let ea := (k.ctx x).ea m
      if ea.toNat % natAlign i ≠ 0 then none
      else match m.space with
        | .g => none
        | .sp => some ea.toNat
        | .nb => if ea.toNat < 2 ^ 24 ∧ (nbTarget c ea).1 = c then some (nbTarget c ea).2 else none

/-- Banks that an access of the own scratchpad occupies in its issue cycle (R143, R306). -/
def Core.sylBanks (k : Core) (c x : Nat) (i : Instr) : List Nat :=
  match k.spUse c x i with
  | none => []
  | some off =>
    let n := i.accSize k.sys.vsh
    if k.spCheck off n ≠ .ok then []
    else match i with
      | .ldv .. | .stv .. => banksOf off 256
      | _ => banksOf off n

/-- The pass of an LDV or STV of a context that is due in this SCYC: the operation and the pass (R306). -/
def Core.duePass (k : Core) (x : Nat) : Option (Flight × Nat) :=
  if k.banks.contains (x, 64 + x) then none
  else match k.passes.find? (fun p => p.1 == x) with
    | none => none
    | some (_, id, j) => match k.flight id with
      | some f => if j ≤ (k.scyc.toNat + 2 ^ 48 - f.issue) % 2 ^ 48 then some (f, j) else none
      | none => none
def Core.passBanks (k : Core) (c x : Nat) : List Nat :=
  match k.duePass x with
  | some (f, j) => if 0x400000 ≤ f.spOff c then [] else banksOf (f.spOff c + 256 * j) 256
  | none => []

/-- The due pass is made. -/
def Core.runPass (k : Core) (c x : Nat) : Core :=
  match k.duePass x with
  | none => k
  | some (f, j) =>
    let off := f.spOff c
    let bs := k.passBanks c x   -- an acquire's GENBUMP follows its last pass (R307)
    let last := passesOf (f.i.accSize f.vsh) ≤ j + 1
    let k := match f.i with
      | .ldv .. => (let k := k.ldvPass f off j; if last && isAcq f.os && bumps f.os.scope then k.genbump else k)
      | _ => k.stvPass f off j
    { k with
      banks := k.banks ++ (x, 64 + x) :: bs.map (fun b => (x, b)),
      passes := if last then k.passes.filter (fun p => !(p.1 == x && p.2.1 == f.id))
        else k.passes.map (fun p => if p.1 = x ∧ p.2.1 = f.id then (x, f.id, j + 1) else p) }

/-- Banks that an exposed access has taken in this SCYC. -/
def Core.taken (k : Core) (b : Nat) : Bool := k.banks.any (fun e => e.1 ≤ 2 && e.2 == b)

/-- A vector register of the bank that this SCYC refreshes is among a syllable's sources (R144). -/
def Core.refreshes (k : Core) (i : Instr) : Bool :=
  let n := k.scyc.toNat % 256
  n % 32 == 0 && !k.refr && !k.hmode && i.vSrc.any (fun v => k.vphys v % 8 == n / 32)

/-- The syllables that a context would issue now; none where it is not its turn or its parcel is not fetched. -/
def State.nextSyls (s : State) (c x : Nat) : State × List (Nat × Instr) :=
  let t := (s.core c).ctx x
  if t.st.isRun ∧ t.delay = 0 ∧ !t.halting then
    match s.parcelBits c x with
    | (s, .ok w) => (s, liveOf (sylsOf (parcelOf x w) t.seq))
    | (s, .error _) => (s, [])
  else (s, [])

/-- The core may issue in this cycle. -/
def Core.issues (k : Core) : Bool := k.runs && k.hold.isNone && (k.stop.isNone || k.hmode)

/-- The core holds before the parcel of a context; what is left of the cycle follows the hold. -/
def Core.holdAt (k : Core) (x : Nat) (h : Hold) : Core :=
  { k with hold := some h, todo := (List.range 3).filter (fun y => x ≤ y) }

/-- BANK_CONFLICT_HOLD (R143, R187): an access of context `Inp.idx` of core `Inp.core` meets a bank that an earlier one has
taken in this cycle. -/
def execBankConflictHold (s : State) : Res :=
  let c := s.inp.core.toNat
  let x := s.inp.idx
  let (s, l) := s.nextSyls c x
  let k := s.core c
  let bs := k.passBanks c x ++ (l.map (fun e => k.sylBanks c x e.2)).flatten
  if x ≤ 2 ∧ k.issues ∧ bs.any k.taken then .next (s.modCore c (fun k => k.holdAt x ⟨.bank, 1⟩)) else .fault .notEnabled

/-- REFRESH_HOLD (R144, R187): a syllable of context `Inp.idx` of core `Inp.core` reads the bank being refreshed; the
refresh completes in the held clock. -/
def execRefreshHold (s : State) : Res :=
  let c := s.inp.core.toNat
  let x := s.inp.idx
  let (s, l) := s.nextSyls c x
  let k := s.core c
  if x ≤ 2 ∧ k.issues ∧ l.any (fun e => k.refreshes e.2) then
    .next (s.modCore c (fun k => { k.holdAt x ⟨.refresh, 1⟩ with refr := true }))
  else .fault .notEnabled

/-- A SPLIT of the parcel takes effect before the parcel's access is checked against the new limit (R128, log 25). -/
def State.splitFirst (s : State) (c : Nat) (l : List (Nat × Instr)) : State :=
  l.foldl (fun s e => match e.2 with
    | .split n => if (s.core c).split.isNone then s.moveSplit c n.toNat else s
    | _ => s) s

/-- SPLIT_GRANULE_HOLD (R128, R187): an access of context `Inp.idx` of core `Inp.core` meets a granule that is becoming
scratchpad; the core holds until the drain ends. -/
def execSplitGranuleHold (s : State) : Res :=
  let c := s.inp.core.toNat
  let x := s.inp.idx
  let (s, l) := s.nextSyls c x
  let moves : Bool := (s.core c).split.isNone && l.any (fun e => match e.2 with | .split _ => true | _ => false)
  let s := s.splitFirst c l
  let k := s.core c
  let hit (i : Instr) : Bool := match k.spUse c x i with
    | some off => k.spCheck off (i.accSize k.sys.vsh) == .moving
    | none => false
  match k.split with
  | some (_, left) =>
    if x ≤ 2 ∧ k.issues ∧ l.any (fun e => hit e.2) then .next (s.modCore c (fun k => { k.holdAt x ⟨.split, left⟩ with moved := if moves then some x else k.moved }))
    else .fault .notEnabled
  | none => .fault .notEnabled

end Sys2Proof.Machine
end

