-- ==== Sys2Proof/Machine/MemEvents.lean ====
section
/-! DEFINITION. What happens to accesses after their syllable (07 R125-R135; 08 R152-R161; 03 R41, R51; 10 R187-R189): holds for
translation, drains and sweeps, reads and writes at their homes, replies, remote FINCs and requests at the hub. -/

namespace Sys2Proof.Machine

/-- TLB_MISS_HOLD (R125, R187, R188): core `Inp.core` has missing pages at this edge. Each batch of up to 32 pages is looked
up in the last-level TLB in 12 cycles; a walk takes a free time. -/
def execTlbMissHold (s : State) : Res :=
  let c := s.inp.core.toNat
  let k := s.core c
  if k.issues ∧ !k.miss.isEmpty then
    let pages := (k.miss.map (·.2 / 65536)).eraseDups
    let hit (p : Nat) : Bool := (tlbFind (mget [] s.ltlb (dieOf c)) k.world.toNat (65536 * p)).isSome
    let base := 12 * ((pages.length + 31) / 32)
    let (s, n) := if pages.all hit then (s, 0) else s.wait
    .next (s.modCore c (fun k => { k with hold := some ⟨.tlb, base + n⟩, todo := [] }))
  else .fault .notEnabled

/-- Order of the pages of a translation hold: L, K, S, kiln, and by ascending address within each (R188). -/
def missKey (p : Nat × Nat) : Nat := Nat.min p.1 3 * 2 ^ 64 + p.2
def insMiss (p : Nat × Nat) : List (Nat × Nat) → List (Nat × Nat)
  | [] => [p]
  | q :: l => if missKey p < missKey q then p :: q :: l else q :: insMiss p l
def missOrder (l : List (Nat × Nat)) : List (Nat × Nat) := l.foldl (fun a p => insMiss p a) []
/-- Misses to one page are merged, into the first (R188). -/
def mergeMiss (l : List (Nat × Nat)) : List (Nat × Nat) :=
  l.foldl (fun a p => if a.any (fun q => q.2 / 65536 == p.2 / 65536) then a else a ++ [p]) []

/-- The pages that the kiln misses: those that have no translation become stops of the M stream or of the flue (R188); a wrong world
tag is logged (R41). -/
def State.kilnPages (s : State) (c : Nat) (l : List (Nat × Nat)) : State :=
  l.foldl (fun s p =>
    if p.1 ≤ 2 then s
    else
      let va := p.2
      let need : Need := if p.1 % 2 = 1 then { r := true } else { w := true }
      let stream := if 5 ≤ p.1 then 6 else 5
      let r (s : State) (cause : Nat) : State := raiseOn s c cause stream 0 0 (BitVec.ofNat 64 va)
      let world := (s.core c).world.toNat
      match s.trL1 c va need with
      | .ok _ => s
      | .miss => (match s.walk world va with
        | .wrongWorld pa => r (s.logErr 1 (reqCode 3 (kilnOf c)) (BitVec.ofNat 64 pa) 0 world 0) 6
        | _ => r s 7)
      | _ => r s 6) s

/-- TRANSLATION_HOLD_END (R188, R189): of core `Inp.core`. The accesses that missed go on; one without a translation or
without permission stops the core at the same SCYC. -/
def execTranslationHoldEnd (s : State) : Res :=
  let c := s.inp.core.toNat
  let k := s.core c
  if k.hold = some ⟨.tlb, 0⟩ then
    let old := k.raises
    let miss := missOrder k.miss
    let s := (mergeMiss miss).foldl (fun s p => (s.trFill c p.2).1) s
    let s := (s.modCore c (fun k => { k with hold := none, miss := [], raises := [] })).kilnPages c miss
    let s := (s.present c true).presentL c true
    .next (s.modCore c (fun k => { k with
      raises := old ++ k.raises.map (fun r => if r.cause = 6 ∨ r.cause = 7 then { r with late := false } else r) }))
  else .fault .notEnabled

/-- SPLIT_DRAIN_END (R128): of core `Inp.core`. -/
def execSplitDrainEnd (s : State) : Res :=
  let c := s.inp.core.toNat
  match (s.core c).split with
  | some (_, 0) => .next ((s.modCore c (fun k => { k with split := none })).prepare c)
  | _ => .fault .notEnabled

/-- GENBUMP_SWEEP_END (R131, R132): of core `Inp.core`, in the last cycle of its sweep. -/
def execGenbumpSweepEnd (s : State) : Res :=
  let c := s.inp.core.toNat
  if (s.core c).sweep = 1 then
    .next (s.modCore c (fun k => { k with
      sweep := 0, l1 := k.l1.filter (fun e => k.lockedPa e.1 || e.2.gen.getLsbD 7 == k.l1gen.getLsbD 7) }))
  else .fault .notEnabled

/-- A read may be served: the acquires before it have their data, earlier reads of its stream that overlap it are bound, and no atomic
before it is on its way to the same bytes (R152). -/
def Core.readReady (k : Core) (f : Flight) : Bool :=
  let n := f.i.accSize f.vsh
  k.flights.all (fun g => !(g.src == f.src && g.id < f.id && g.unbound && g.space == f.space
      && g.ea.toNat < f.ea.toNat + n && f.ea.toNat < g.ea.toNat + g.i.accSize g.vsh))
    && !k.acqBefore f && (f.space != .g || f.parts.all (fun p => !k.atomPending f.id p.1 p.2))

/-- An operation's data, as its destination takes it. -/
def Flight.withData (f : Flight) (bs : List Byte) : Flight :=
  { f with
    data := leNat bs % 2 ^ 64,
    td := match f.i with
      | .ldv .. => some (tileOf bs (vshN f.vsh) (vshFmt f.vsh))
      | .ldp .. => some (BitVec.ofNat 16384 (leNat bs))
      | _ => none }

/-- A reply is on its way back to the core (log 5). -/
def State.reply (s : State) (c id gen : Nat) (g : Flight → Flight) : State :=
  let (s, n) := s.wait
  s.modCore c (fun k => k.modFlight id (fun f => g { f with phase := .served, remain := n, live := true, gen := gen }))

/-- A g read at its home (R41, R51, R57, R134, R135): L2 takes the lines, and so does L1, whose lines that hit are brought up to date
(R155, R307). A watched range counts the bytes of the access, not those of the line that fills L1 (log 66). -/
def State.serveG (s : State) (c : Nat) (f : Flight) : State :=
  let world := (s.core c).world.toNat
  let die := dieOf c
  let pol : BitVec 32 := (nthW f.ops 3).setWidth 32
  let (s, bs, ok, _) := f.parts.foldl (fun (a : State × List Byte × Bool × Nat) p =>
    let (s, bs, ok, va) := a
    match paKind s.hub.accid p.1, notifyReg p.1 with
    | _, some q => (s, bs ++ leBytes p.2 (s.notifyVal q), ok, va + p.2)
    | .hbm, none =>
      let (s, good) := s.homeCheck 1 c world p.1 p.2 false
      (if good then s.l2Touch c pol world va p.1 p.2 else s, bs ++ s.homeRd c f.id p.1 p.2, ok && good, va + p.2)
    | _, none => (s, bs ++ s.homeRd c f.id p.1 p.2, ok, va + p.2)) (s, [], true, f.ea.toNat)
  if !ok then s.faultFlight c f 6
  else
    let gen := s.genOf die world (f.parts.filter (fun p => (notifyReg p.1).isNone))
    let s := (s.reply c f.id gen (fun g => g.withData bs))
    let fill (s : State) (va pa : Nat) : State :=
      let k := s.core c
      let kd := paKind s.hub.accid pa
      if (kd = .hbm ∨ kd = .peer) ∧ !k.atomPending k.nextId (pa / 128 * 128) 128 then s.l1Fill c va pa pol else s
    let s := (f.parts.foldl (fun (a : State × Nat) p =>
      ((List.range ((p.1 % 128 + p.2 + 127) / 128)).foldl (fun s j => fill s (a.2 / 128 * 128 + 128 * j) (p.1 / 128 * 128 + 128 * j)) a.1,
        a.2 + p.2)) (s, f.ea.toNat)).1
    if isAcq f.os && bumps f.os.scope then s.modCore c Core.genbump else s

/-- An nb read in its target's scratchpad, behind that core's exposed accesses (R143, R161): none while it waits. The core's own earlier
writes there come first (R152), and the target's are applied before the value returns (R154). -/
def State.serveN (s : State) (c : Nat) (f : Flight) : Option State :=
  let (d, off) := nbTarget c f.ea
  let n := f.i.accSize f.vsh
  let t := s.core d
  if !t.runsIn (s.core c).world then some (s.faultFlight c f 6)
  else if (s.core c).nbAtom d off n then none
  else match t.spCheck off n with
    | .ok => match t.takeBanks 16 off n with
      | some t' =>
        let bs := (s.core c).nbOver f.id d off (t.spRd off n)
        let s := (s.setCore d t').reply c f.id t.nextId (fun g => g.withData bs)
        some (if isAcq f.os && bumps f.os.scope then s.modCore c Core.genbump else s)
      | none => none
    | .moving => none
    | _ => some (s.faultFlight c f 6)

/-- READ_SERVED_AT_HOME (R51, R155, R57, R134, R307): operation `Inp.idx` of core `Inp.core`. -/
def execReadServedAtHome (s : State) : Res :=
  let c := s.inp.core.toNat
  let k := s.core c
  match k.flight s.inp.idx with
  | none => .fault .notEnabled
  | some f =>
    if f.phase ≠ .sent ∨ !isRead f.i ∨ f.i.atom.isSome ∨ !k.readReady f ∨ (isAcq f.os ∧ bumps f.os.scope ∧ k.bumpWaits) then
      .fault .notEnabled
    else if f.space = .nb then (match s.serveN c f with | some s => .next s | none => .fault .notEnabled)
    else if f.parts.any (fun p => !s.routed p.1 || s.readWaits (dieOf c) p.1 p.2) then .fault .notEnabled
    else .next (s.serveG c f)

/-- The data is in the core; it lands in the next SCYC (R189). -/
def State.captured (s : State) (c id : Nat) (g : Flight → Flight) : State :=
  s.modCore c (fun k => k.modFlight id (fun f => g { f with phase := .captured, remain := 1, live := true }))

/-- The data of a read under a key generation that is no more is poisoned (R51); a neighbour's is held until that core's
earlier reads are bound and its earlier writes applied. -/
def State.replyArrives (s : State) (c : Nat) (f : Flight) : Option State :=
  if f.space = .nb then
    let t := s.core (nbTarget c f.ea).1
    if f.gen = 0 ∨ (t.observed f.gen ∧ t.bound f.gen) then some (s.captured c f.id id) else none
  else
    let w := (s.core c).world.toNat
    if f.gen ≠ 0 ∧ w ≠ 0 ∧ !(s.world w).genLive (f.gen - 1) then some (s.faultFlight c f 6)
    else some (s.captured c f.id id)

/-- What ICLOCK has locked of its range, in bytes (R301). -/
def Core.lockedBytes (k : Core) (lo n : Nat) : Nat :=
  128 * (k.ilock.map (fun e => Nat.min (e.1 + e.2) (lo + n) - Nat.max e.1 lo)).sum

/-- VARIABLE_LATENCY_COMPLETION (R110, R189): operation `Inp.idx` of core `Inp.core`. A request that the core serves itself is
performed here. -/
def execVariableLatencyCompletion (s : State) : Res :=
  let c := s.inp.core.toNat
  let k := s.core c
  match k.flight s.inp.idx with
  | none => .fault .notEnabled
  | some f =>
    match f.phase, f.i with
    | .served, _ => (match s.replyArrives c f with | some s => .next s | none => .fault .notEnabled)
    | .sent, .icinv _ scope => .next ((s.icInvalidate scope c k.world).captured c f.id (fun g => { g with data := 0 }))
    | .sent, .iclock _ =>
      let (lo, n) := lockRange (nthW f.ops 0) (nthW f.ops 1)
      (match s.icLock c lo n with
      | (s, none) => .next (s.captured c f.id (fun g => { g with data := (s.core c).lockedBytes lo n }))
      | (s, some (cause, _, va)) =>
        .next (raiseOn (s.modCore c (fun k => k.modFlight f.id (fun g => { g with phase := .faulted, fault := cause, live := false })))
          c cause f.src f.slot 0 (BitVec.ofNat 64 va)))
    | .sent, .estat _ n => .next (s.captured c f.id (fun g => { g with data := (k.eng n.toNat).estat.toNat }))
    | _, _ => .fault .notEnabled

/-- A value written to a notify register of queue q (R31): in READY and RUN only (R22). -/
def State.notifyWord (s : State) (q : Nat) (v : Word) (req : Nat) (addr : Word) (world : Nat) : State × Nat :=
  if s.hub.hif ≠ 2 ∧ s.hub.hif ≠ 3 then (s.logErr 1 req addr 0 world 5, 5)
  else if 2 ^ 32 ≤ v.toNat then (s.logErr 1 req addr 0 world 7, 7) else s.notify q (v.setWidth 32) req addr world

/-- REQ of a write. -/
def PWrite.req (w : PWrite) (c : Nat) : Nat × Nat :=
  if w.stream ≤ 2 then (1, c) else if w.stream = 5 then (3, kilnOf c) else (2, 2 * c + (w.stream - 3))

/-- A write that its home refuses (R41): an atomic stays as a record, another write is lost. -/
def State.refuseWrite (s : State) (c : Nat) (w : PWrite) : State :=
  if w.dead.isSome ∨ !(s.core c).runsIn w.world then s
  else match (if w.atom.isSome then (s.core c).flight w.flight else none) with
    | some f => s.faultFlight c f 6
    | none => raiseOn s c 6 (if w.flue then 6 else w.stream) 0 0 (BitVec.ofNat 64 w.va)

/-- A write may be applied at its homes (R155): their dies have applied what its clock names, and its own die keeps no older copy of its
lines. The value of an atomic comes to that die as a read's does, and an acquire's GENBUMP waits for a sweep (R131). -/
def State.applyReady (s : State) (c : Nat) (w : PWrite) : Bool :=
  let die := dieOf c
  let lines := (lineParts w.addr w.data.length).map (·.1)
  (w.no == 0 || (lines.all (fun l => s.clkMet (homeDie (128 * l)) w.clk && !s.invs.any (fun v => v.line == l && v.die == die))
      && (w.atom.isNone || !s.readWaits die w.addr w.data.length)))
    && !(w.atom.isSome && isAcq w.os && bumps w.os.scope && (s.core c).bumpWaits)

/-- An atomic that acquires at clu scope or wider carries a GENBUMP, whether or not it writes (R129, R319). -/
def State.atomBump (s : State) (c : Nat) (w : PWrite) : State :=
  if isAcq w.os && bumps w.os.scope then s.modCore c Core.genbump else s

/-- A write or atomic is applied to memory (R155, R321): the home fixes its place among the writes. -/
def State.applyMem (s : State) (c : Nat) (w : PWrite) : State :=
  let world := w.world.toNat
  let n := w.data.length
  match notifyReg w.addr with
  | some q => (s.notifyWord q (BitVec.ofNat 64 (leNat w.data)) (reqCode 1 c) (BitVec.ofNat 64 (w.addr % 2 ^ 24)) world).1
  | none =>
    let (s, ok) := if paKind s.hub.accid w.addr = .hbm then s.homeCheck (w.req c).1 (w.req c).2 world w.addr n true else (s, true)
    if !ok then s.refuseWrite c w
    else
      let s := if paKind s.hub.accid w.addr = .hbm then s.l2Touch c w.pol world w.va w.addr n else s
      let s := if (s.core c).ports.isEmpty then s
        else s.modCore c (fun k => k.shadow w.stream w.id (2 ^ 62 + w.addr) (s.plainRd world w.addr n))
      let by' : Option WrBy := if w.no = 0 then none else some ⟨dieOf c, w.no, w.clk, c, w.stream, w.id⟩
      let put (s : State) (bs : List Byte) : State := s.homeWr by' world w.gen w.addr bs
      match w.atom with
      | none => put s w.data
      | some op =>
        let old := leNat (s.plainRd world w.addr n)
        let gen := s.genOf (dieOf c) world [(w.addr, n)]
        let s := match atomNew op old (leNat w.data) w.cmp.toNat with
          | some v => put s (leBytes n v)
          | none => s
        let s := s.modCore c (fun k => k.l1Upd w.addr (s.homeRd c k.nextId w.addr n))   -- later loads see nothing older (R155)
        (s.reply c w.flight gen (fun f => { f with data := old })).atomBump c w

/-- A write or atomic is applied in a neighbour's scratchpad (R161): none while it waits. -/
def State.applyNb (s : State) (c : Nat) (w : PWrite) : Option State :=
  let t := s.core w.core
  let n := w.data.length
  if !t.runsIn w.world then some (s.refuseWrite c w)
  else match t.spCheck w.addr n with
    | .ok => match t.takeBanks 16 w.addr n with
      | none => none
      | some t' => some (match w.atom with
        | none => s.setCore w.core (t'.spWr w.addr w.data)
        | some op =>
          let old := leNat (t.spRd w.addr n)
          let t' := match atomNew op old (leNat w.data) w.cmp.toNat with
            | some v => t'.spWr w.addr (leBytes n v)
            | none => t'
          ((s.setCore w.core t').reply c w.flight t.nextId (fun f => { f with data := old })).atomBump c w)
    | .moving => none
    | _ => some (s.refuseWrite c w)

/-- The writes that a core's write path has accepted are performed at once, as its containment does (R10, R205); what does not reach its
home is lost. -/
def State.performWq (s : State) (c : Nat) : State :=
  (s.core c).wq.foldl (fun s w =>
    if w.kind = 0 then (if s.routed w.addr then s.applyMem c w else s)
    else if w.kind = 1 then (s.modCore w.core (fun t => { t with banks := [] })).applyNb c w |>.getD s
    else s) (s.modCore c (fun k => { k with wq := [] }))

/-- STORE_APPLY_AT_HOME (R155, R158, R161): the oldest write of the write path of core `Inp.core`. A remote FINC leaves for its
target; a later write of its stream comes after its arrival (R152). -/
def execStoreApplyAtHome (s : State) : Res :=
  let c := s.inp.core.toNat
  let k := s.core c
  match k.wq with
  | [] => .fault .notEnabled
  | w :: rest =>
    if w.after.any (fun id => (k.flight id).any Flight.unbound) ∨ (w.stream ≤ 2 ∧ !s.fincsGone c w.stream) ∨ (w.kind = 0 ∧ !s.routed w.addr) ∨ !s.applyReady c w then .fault .notEnabled
    else
      let gone := s.setCore c { k with wq := rest }
      match w.kind with
      | 0 => .next (gone.applyMem c w)
      | 1 => (match gone.applyNb c w with | some s => .next s | none => .fault .notEnabled)
      | _ =>
        let (s, n) := gone.wait
        .next (s.modHub (fun h => { h with fincs := h.fincs ++
          [⟨4 * c + w.stream, w.core, w.addr, BitVec.ofNat 32 (leNat w.data), w.world, w.cmp.toNat, w.clk, n⟩] }))

/-- REMOTE_FINC_ARRIVAL (R107, R155, R217): FINC `Inp.idx` of those in transit, once its target's die has applied what its clock names. -/
def execRemoteFincArrival (s : State) : Res :=
  match s.hub.fincs[s.inp.idx]? with
  | none => .fault .notEnabled
  | some f =>
    let s' := s
    let s := s.modHub (fun h => { h with fincs := h.fincs.eraseIdx s.inp.idx })
    if !s'.clkMet (dieOf f.core) f.clk then .fault .notEnabled
    else if (s.core f.core).runsIn f.world then
      .next (s.modCore f.core (fun k => { k with incs := incInsert ⟨fincKey (f.src / 4) (f.src % 4), f.flag, f.val, f.wide⟩ k.incs }))
    else .next (s.count f.core 5 1)

/-- Every write of the cores of a sibling has been performed (R85). A core stopped for a page performs its stores once the page is there;
the unsent stores of one that nothing resumes are performed with its end. -/
def State.sibQuiet (s : State) (n i : Nat) : Bool :=
  (s.coresWith (isSibOf n i)).all (fun c =>
    let k := s.core c
    k.wq.isEmpty && (k.stop.any (fun t => t.r.cause != 7)
      || k.flights.all (fun f => !(isWrite f.i && (f.phase == .unsent || f.phase == .held || f.phase == .faulted)))))

/-- TGROW's buffer (R296): written for the issuing core before the reply. -/
def State.growWrite (s : State) (c : Nat) (f : Flight) (va n : Nat) (mask : List Byte) : State :=
  let f := { f with ea := BitVec.ofNat 64 va }
  let s := s.modCore c (fun k => k.modFlight f.id (fun g => { g with ea := f.ea }))
  let world := (s.core c).world.toNat
  if 2 ^ 56 ≤ va then s.faultFlight c f 6
  else match s.trFull c va { w := true } with
    | (s, .page _) => s.faultFlight c f 7
    | (s, .ok pa) =>
      let far := paKind s.hub.accid pa = .peer ∨ paKind s.hub.accid pa = .host
      let (s, ok) := if paKind s.hub.accid pa = .hbm then s.homeCheck 1 c world pa 64 true
        else if far ∧ !s.routed pa then (s.logErr 5 (reqCode 1 c) f.ea 0 world 0, false) else (s.mmioLog (reqCode 1 c) world pa, decide far)
      if ok then
        ((s.homeWr none world (s.world world).cur pa mask).modCore c (fun k => k.l1Upd pa mask)).reply
          c f.id 0 (fun g => { g with data := n })
      else s.faultFlight c f 6
    | (s, _) => s.faultFlight c f 6

/-- HUB_REQUEST_ARRIVAL (R78, R83, R85, R91, R295, R296, R403-R405): request `Inp.idx`; those of one context come in issue
order. -/
def execHubRequestArrival (s : State) : Res :=
  match s.hub.reqs[s.inp.idx]? with
  | none => .fault .notEnabled
  | some r =>
    let c := r.core
    let k := s.core c
    let first := (s.hub.reqs.take s.inp.idx).all (fun q => !(q.core == c && q.ctx == r.ctx))
    let gone := s.modHub (fun h => { h with reqs := h.reqs.eraseIdx s.inp.idx })
    let say (a : State × Nat) : Res := .next (a.1.reply c r.flight 0 (fun f => { f with data := a.2 }))
    if !first then .fault .notEnabled
    else match r.i with
      | .launch _ =>
        if !k.observed r.flight ∨ k.draining r.ctx ∨ !s.seenAll c ∨ s.hub.fincs.any (fun f => f.src / 4 == c) then .fault .notEnabled
        else say (if 4096 ≤ r.a.toNat then (gone, 2) else gone.launchAt r.a.toNat r.world.toNat r.b)
      | .fork _ g _ => if !k.observed r.flight ∨ k.draining r.ctx ∨ !s.seenAll c ∨ s.hub.fincs.any (fun f => f.src / 4 == c) then .fault .notEnabled else say (gone.fork c g.toNat r.a)
      | .sreward _ => (match r.kind with
        | some (.sibling n i) => if s.sibQuiet n i then .next (gone.sibReward n i (r.a.setWidth 32)) else .fault .notEnabled
        | _ => say (gone, 1))
      | .sgcancel _ g _ => (match r.kind with
        | some (.sibling n i) => if s.sibQuiet n i then .next (gone.sibEnd n i 2 2) else .fault .notEnabled
        | _ => say (gone.sgCancel c g.toNat r.a))
      | .sginfo _ g n => say (gone, (s.sgInfo c g.toNat n.toNat).toNat)
      | .tscore _ => let (s, v) := gone.tscore r.kind r.a; say (s, v.toNat)
      | .tinfo _ n => say (gone, (s.tinfo c n.toNat).toNat)
      | .tgrow _ => (match s.tgrow c, k.flight r.flight with
        | some (n, mask), some f => .next (gone.growWrite c f r.a.toNat n mask)
        | _, _ => say (gone, 0))
      | _ => .fault .notEnabled

end Sys2Proof.Machine
end

