-- ==== Sys2Proof/Machine/Mmio.lean ====
section
/-! DEFINITION. The hub's MMIO aperture (02 R24-R26, R38): the registers of its blocks, what each reads as, and the gate
that every request passes. The checks are made in one order: state, function, register, lock, value (log 26). -/

namespace Sys2Proof.Machine

/-- The registers of the aperture. -/
inductive Reg
  | blkctl (b : Nat) | hifstat | errpos | errlog (n : Nat)
  | qtbase | qctl | qstat | notify (q : Nat)
  | wcmd | wstat | wbuf | wfunc (f : Nat) | wkeypub
  | rlsel | rlbase | rllen | rlctl | rlcnt | rlhead | rlring
  | ptstat | ptcount | accid | ptsrcid
  | ltab (k i : Nat) | lnsctl (k : Nat)
  | dbgsel | dbgcmd | dbgstat | dbgbuf | bpctl (i : Nat) | bpval (i : Nat)
  | trbase | trsize | trwr | trrd | trctl | trdrop | fwthr | cntsel | cntval | cntovf | cntcfg | rpdesc | rpstat | trmask
  | fmbase (i : Nat) | fmlen (i : Nat) | fmscale (i : Nat) | fmctl (i : Nat) | fmzero (i : Nat)
  | fqbase | fqhead | fqopen | fqdone | fqstat
deriving DecidableEq, Repr

/-- The registers of the small blocks: offset in the aperture, bytes, register. -/
def regTable : List (Nat × Nat × Reg) :=
  [(0x00004, 4, .hifstat), (0x00008, 4, .errpos),
   (0x10008, 8, .qtbase), (0x10010, 4, .qctl), (0x10014, 4, .qstat),
   (0x30010, 8, .wcmd), (0x30018, 4, .wstat), (0x30020, 8, .wbuf),
   (0x40010, 4, .rlsel), (0x40020, 8, .rlbase), (0x40028, 8, .rllen), (0x40030, 4, .rlctl), (0x40060, 4, .rlhead), (0x40068, 8, .rlring),
   (0x50010, 4, .ptstat), (0x50018, 8, .ptcount), (0x50020, 4, .accid), (0x50024, 4, .ptsrcid)] ++
  [(0x70010, 4, .dbgsel), (0x70018, 4, .dbgcmd), (0x7001C, 4, .dbgstat), (0x70020, 8, .dbgbuf),
   (0x70100, 8, .trbase), (0x70108, 8, .trsize), (0x70110, 8, .trwr), (0x70118, 8, .trrd), (0x70120, 4, .trctl), (0x70124, 4, .trdrop),
   (0x70128, 4, .fwthr), (0x70130, 4, .cntsel), (0x70138, 8, .cntval), (0x70140, 4, .cntovf), (0x70144, 4, .cntcfg),
   (0x70180, 8, .rpdesc), (0x70188, 4, .rpstat)] ++
  [(0xA0010, 8, .fqbase), (0xA0018, 4, .fqhead), (0xA001C, 4, .fqopen), (0xA0020, 8, .fqdone), (0xA0028, 4, .fqstat)]

/-- Whether n bytes at an offset are an aligned piece of a register of `size` bytes at `base`: the whole of it, or 4 or 8
bytes of a wider one (log 26). -/
def pieceOf (base size off n : Nat) : Bool :=
  base ≤ off && off + n ≤ base + size && ((off == base && n == size) || (8 < size && (n == 4 || n == 8) && off % n == 0))

/-- The register at an offset, reached by an access of n bytes. -/
def regAt (off n : Nat) : Option Reg :=
  let b := off / 65536
  let o := off % 65536
  if 11 ≤ b then none
  else if b = 2 then (if o % 8 = 0 ∧ n = 8 ∧ o < 32768 then some (.notify (o / 8)) else none)
  else if o = 0 ∧ n = 4 then some (.blkctl b)
  else match regTable.find? (fun e => e.1 == off && e.2.1 == n) with
  | some e => some e.2.2
  | none =>
    if b = 0 ∧ 0x1000 ≤ o ∧ o < 0x9000 then
      (if pieceOf (o / 32 * 32) 32 o n then some (.errlog ((o - 0x1000) / 32)) else none)
    else if b = 3 ∧ 0x100 ≤ o ∧ o < 0x1FC then (if o % 4 = 0 ∧ n = 4 then some (.wfunc ((o - 0x100) / 4 + 1)) else none)
    else if b = 3 ∧ pieceOf 0x200 136 o n then some .wkeypub
    else if b = 4 ∧ pieceOf 0x40 32 o n then some .rlcnt
    else if b = 6 ∧ 0x100 ≤ o ∧ o < 0x1100 ∧ n = 4 ∧ o % 4 = 0 then
      (if o % 32 < 16 then some (.ltab ((o - 0x100) / 32) (o % 32 / 4)) else if o % 32 = 16 then some (.lnsctl ((o - 0x100) / 32)) else none)
    else if b = 7 ∧ 0x40 ≤ o ∧ o < 0x80 then
      (if o % 16 = 0 ∧ n = 4 then some (.bpctl ((o - 0x40) / 16)) else if o % 16 = 8 ∧ n = 8 then some (.bpval ((o - 0x40) / 16)) else none)
    else if b = 7 ∧ pieceOf 0x200 64 o n then some .trmask
    else if b = 9 ∧ 0x100 ≤ o ∧ o < 0x500 then
      (let i := (o - 0x100) / 32
       if o % 32 = 0 ∧ n = 8 then some (.fmbase i) else if o % 32 = 8 ∧ n = 8 then some (.fmlen i)
       else if o % 32 = 16 ∧ n = 8 then some (.fmscale i) else if o % 32 = 24 ∧ n = 4 then some (.fmctl i)
       else if o % 32 = 28 ∧ n = 4 then some (.fmzero i) else none)
    else none

def Hub.blk (h : Hub) (b : Nat) : Blk := mget {} h.blks b
/-- HIFSTAT (Table 2-3). -/
def Hub.hifstat (h : Hub) : BitVec 32 := BitVec.ofNat 32 (h.badstep * 2 ^ 16 + h.cause * 2 ^ 8 + h.hif)
/-- PTSTAT (Table 1-4); OFFS of a source reads 0 (R19). -/
def Hub.ptstat (h : Hub) : Nat :=
  (if h.ptRun then 1 else 0) + (if h.ptSync then 2 else 0) + (if h.ptSrc then 4 else 0) + (if h.ptLost then 8 else 0)
    + (if h.ptSrc then 0 else h.ptOffs.toNat * 16)
/-- An error-log entry's bytes (Table 2-8). -/
def ErrEnt.bytes (e : ErrEnt) (seq : Nat) : List Byte :=
  leBytes 4 seq ++ leBytes 2 e.cls ++ leBytes 2 e.req ++ leBytes 8 e.time ++ leBytes 8 e.addr.toNat ++ leBytes 2 e.world
    ++ leBytes 2 e.status ++ leBytes 4 e.detail.toNat
/-- What the n-th place of the log window holds: the newest entry written there, zeros before the first. -/
def Hub.logPlace (h : Hub) (n : Nat) : List Byte :=
  match (h.log.filter (fun e => (e.1 + 2 ^ 32 - 1) % 1024 == n)).getLast? with
  | some e => e.2.bytes e.1
  | none => List.replicate 32 0

/-- The selected range and its counters (Table 3-4). -/
def Hub.rsel (h : Hub) : RRange := mget {} h.rranges (bits h.rlsel.toNat 3 12)
def cntBytes (c : Nat × Nat × Nat × Nat) : List Byte := leBytes 8 c.1 ++ leBytes 8 c.2.1 ++ leBytes 8 c.2.2.1 ++ leBytes 8 c.2.2.2

/-- The core of DBGSEL, and the core and index of CNTSEL. -/
def State.dbgCore (s : State) : Nat := bits s.hub.trc.sel.toNat 0 9
def State.cntCore (s : State) : Nat := bits s.hub.trc.cntsel.toNat 16 9
def State.cntIdx (s : State) : Nat := bits s.hub.trc.cntsel.toNat 0 4
/-- A counter (R217): index 8 is the hub's, 9-15 read 0. -/
def State.counter (s : State) (c i : Nat) : Nat :=
  if i = 8 then s.hub.fqfull else if i < 8 then mget 0 (s.core c).ctr i else 0
def State.cntOvf (s : State) (c : Nat) : BitVec 32 := (s.core c).cntovf ||| (if s.hub.fqovf then 0x100#32 else 0)

/-- Entries of the fault ring enqueued and not completed (R210). -/
def Hub.fqopen (h : Hub) : Nat := h.faults.length

/-- What a register reads as (R38): a write-only one reads zero. -/
def State.regBytes (s : State) (r : Reg) : List Byte :=
  let h := s.hub
  match r with
  | .blkctl b => leBytes 4 (b * 256 + 16 + (if (h.blk b).lock then 2 else 0) + (if (h.blk b).expert then 1 else 0))
  | .hifstat => leBytes 4 h.hifstat.toNat
  | .errpos => leBytes 4 h.errpos.toNat
  | .errlog n => h.logPlace n
  | .qtbase => leBytes 8 h.qtbase.toNat
  | .qstat => leBytes 4 (h.qid + (if h.qbusy then 4096 else 0))
  | .notify q => leBytes 8 (s.notifyVal q)
  | .wstat => leBytes 4 h.wstat.toNat
  | .wbuf => leBytes 8 h.wbuf.toNat
  | .wfunc f => leBytes 4 (mget 0 h.wfunc f).toNat
  | .wkeypub => padTo 136 Config.wrapKey
  | .rlsel => leBytes 4 h.rlsel.toNat
  | .rlbase => leBytes 8 h.rsel.base
  | .rllen => leBytes 8 h.rsel.len
  | .rlctl => leBytes 4 h.rsel.ctl.toNat
  | .rlcnt => cntBytes (mget (0, 0, 0, 0) h.rsel.cnt (bits h.rlsel.toNat 0 3))
  | .rlhead => leBytes 4 h.rlhead.toNat
  | .rlring => leBytes 8 h.rlring.toNat
  | .ptstat => leBytes 4 h.ptstat
  | .ptcount => leBytes 8 h.podTime.toNat
  | .accid => leBytes 4 h.accid.toNat
  | .ptsrcid => leBytes 4 h.ptsrcid.toNat
  | .ltab k i => leBytes 4 (mget 0 (s.kiln k).ltab i).toNat
  | .lnsctl k => leBytes 4 (if (s.kiln k).ovr then 1 else 0)
  | .dbgsel => leBytes 4 h.trc.sel.toNat
  | .dbgstat =>
    let k := s.core s.dbgCore
    leBytes 4 ((if k.attached then 4 else 0) + (if k.halted then 2 else 0) + (if mget 0 h.dbgBusy s.dbgCore = 0 then 0 else 1))
  | .dbgbuf => leBytes 8 h.trc.buf.toNat
  | .bpctl i => leBytes 4 (mget {} (s.core s.dbgCore).bps i).ctl.toNat
  | .bpval i => leBytes 8 (mget {} (s.core s.dbgCore).bps i).val.toNat
  | .trbase => leBytes 8 h.trc.base.toNat
  | .trsize => leBytes 8 h.trc.size.toNat
  | .trwr => leBytes 8 h.trc.wr
  | .trrd => leBytes 8 h.trc.rd.toNat
  | .trctl => leBytes 4 h.trc.ctl.toNat
  | .trdrop => leBytes 4 h.trc.drop.toNat
  | .fwthr => leBytes 4 h.trc.fwthr.toNat
  | .cntsel => leBytes 4 h.trc.cntsel.toNat
  | .cntval => leBytes 8 (s.counter s.cntCore s.cntIdx)
  | .cntovf => leBytes 4 (s.cntOvf s.cntCore).toNat
  | .cntcfg => leBytes 4 (s.core s.cntCore).cntcfg.toNat
  | .rpstat => leBytes 4 h.trc.rpstat.toNat
  | .trmask => leBytes 64 h.trc.mask.toNat
  | .fmbase i => leBytes 8 (mget {} s.fmts i).base.toNat
  | .fmlen i => leBytes 8 (mget {} s.fmts i).len.toNat
  | .fmscale i => leBytes 8 (mget {} s.fmts i).scale.toNat
  | .fmctl i => leBytes 4 (mget {} s.fmts i).ctl.toNat
  | .fmzero _ => leBytes 4 0
  | .fqbase => leBytes 8 h.fqbase.toNat
  | .fqhead => leBytes 4 h.fqhead.toNat
  | .fqopen => leBytes 4 h.fqopen
  | .fqstat => leBytes 4 (if h.fwait.isEmpty then 0 else 2)
  | .qctl => leBytes 4 0
  | .dbgcmd => leBytes 4 0
  | .wcmd => leBytes 8 0
  | .rpdesc => leBytes 8 0
  | .fqdone => leBytes 8 0

/-- Offset of a piece within its register. -/
def pieceOff (r : Reg) (off : Nat) : Nat :=
  match r with
  | .errlog _ => off % 32
  | .wkeypub => off % 65536 - 0x200
  | .rlcnt => off % 65536 - 0x40
  | .trmask => off % 65536 - 0x200
  | _ => 0

/-- The world a function is bound to; function 0 is the privileged driver, in world 0 (R26, R40). -/
def State.fnWorld (s : State) (fn : BitVec 6) : Nat := if fn = 0 then 0 else (mget 0 s.hub.wfunc fn.toNat).toNat

/-- The gate of an MMIO request (Table 2-2, R26, R210): `Inp.ok` marks a hub general core, which may reach the PAGING
block. A notify register is reached by functions of its queue's world; its own row checks that. An offset
of the block NOTIFY that is no register answers NOREG to every function (log 26). -/
def State.mmioGate (s : State) (rd : Bool) (off : Nat) : Nat :=
  let b := off / 65536
  let h := s.hub.hif
  if !(h == 2 || h == 3 || (b == 0 && (h == 4 || (rd && h == 1)))) then 5
  else if s.inp.fn = 0 ∨ b = 2 ∨ (s.inp.ok ∧ b = 10) then 0
  else 3

/-- Complete an MMIO request with its status; every other than OK writes one class 1 entry (R38). -/
def State.mmioDone (s : State) (off st : Nat) (data : Word) : State :=
  let req := if s.inp.ok ∧ off / 65536 = 10 then reqCode 4 0 else reqCode 0 s.inp.fn.toNat
  let s := if st = 0 then s else s.logErr 1 req (BitVec.ofNat 64 off) 0 (s.fnWorld s.inp.fn) st
  s.send (.status s.inp.fn st (if st = 0 then data else 0))

/-- An MMIO write at an offset: the gate, then what the register does and the status it answers. -/
def State.mmioWr (s : State) (off : Nat) (f : State → State × Nat) : State :=
  match s.mmioGate false off with
  | 0 => let (s', st) := f s; s'.mmioDone off st 0
  | st => s.mmioDone off st 0

/-- An MMIO read of n bytes (R38): up to 8 bytes in the completion, longer ones as data. -/
def State.mmioRd (s : State) (off n : Nat) : State :=
  match s.mmioGate true off with
  | 0 => match regAt off n with
    | none => s.mmioDone off 1 0
    | some r =>
      if off / 65536 = 2 ∧ s.inp.fn ≠ 0 ∧ s.qWorld (off % 65536 / 8) ≠ s.fnWorld s.inp.fn then s.mmioDone off 3 0
      else
        let bs := ((s.regBytes r).drop (pieceOff r off)).take n
        if n ≤ 8 then s.mmioDone off 0 (BitVec.ofNat 64 (leNat bs)) else s.send (.hostRead s.inp.fn (some bs))
  | st => s.mmioDone off st 0

/-- The LK registers of a block and their offsets, the expert ones left out (R25, R61). -/
def lkRegs (b : Nat) : List (Nat × Reg) :=
  match b with
  | 1 => [(8, .qtbase)]
  | 3 => (List.range 63).map (fun i => (0x100 + 4 * i, .wfunc (i + 1)))
  | 4 => [(0x68, .rlring)]
  | 5 => [(0x10, .ptstat), (0x20, .accid), (0x24, .ptsrcid)]
  | 9 => (List.range 32).flatMap (fun i =>
      [(0x100 + 32 * i, .fmbase i), (0x108 + 32 * i, .fmlen i), (0x110 + 32 * i, .fmscale i), (0x118 + 32 * i, .fmctl i)])
  | 10 => [(0x10, .fqbase)]
  | _ => []

/-- The LK fields of a register: all of it, but of PTSTAT only SRC. -/
def State.lkBytes (s : State) (r : Reg) : List Byte :=
  match r with
  | .ptstat => leBytes 4 (if s.hub.ptSrc then 4 else 0)
  | r => s.regBytes r

/-- A measurement register is extended (R58). -/
def State.measure (s : State) (i : Nat) (d : BitVec 512) : State :=
  s.modHub (fun h => { h with meas := mset h.meas i (sha512N (beBytes 64 (mget 0 h.meas i).toNat ++ beBytes 64 d.toNat)) })

/-- Entry into ERROR (Tables 2-1 and 2-3), logged with HIFSTAT. A trip's cause replaces an earlier one, because only a cold reset
ends it. -/
def State.hifEnter (s : State) (cause step : Nat) : State :=
  let first : Bool := s.hub.hif != 4
  let s := s.modHub (fun h => { h with
    hif := 4, cause := if first ∨ cause = 2 then cause else h.cause, badstep := if first then step else h.badstep })
  if first then s.logErr 6 (reqCode 4 0) 0 s.hub.hifstat 0 0 else s

/-- ERROR is entered: queues stop fetching, running jobs are contained (R22). -/
def State.hifError (s : State) (cause step reason : Nat) : State :=
  let s := s.hifEnter cause step
  s.cores.foldl (fun s e => if e.2.job.isSome ∧ !e.2.ended then s.contain e.1 reason 0 else s) s

end Sys2Proof.Machine
end

