-- ==== Sys2Proof/Machine/Module.lean ====
section
/-! DEFINITION. The module as a whole (01 R5-R20): resets and the reset sequence, trip and throttle, pod time, UALink. -/

namespace Sys2Proof.Machine

/-- HBM as it stands once L2 is clear: a line that L2 holds written is what HBM still holds of it (R11, R133). -/
def State.hbmOnly (s : State) : Mem :=
  s.l2.foldl (fun m e => match e.2.hbm with
    | some h => if e.1 % 9 = 0 then wrBs m (128 * (e.1 / 9)) (leBytes 128 h.toNat) else m
    | none => m) s.mem

/-- The module after a reset: what lies outside it stays (host memory, peer modules, the outside events still to come), and so
do the numbers of free values already drawn. -/
def State.cleared (s : State) (warm : Bool) : State :=
  { State.reset with
    hostMem := s.hostMem, peerMem := s.peerMem, mem := if warm then s.hbmOnly else [], free := s.free, out := s.out,
    script := s.script.filter (fun a => match a with | .event .. => true | _ => false),
    hub := { State.reset.hub with warm := warm } }

/-- COLD_RESET (R11). -/
def execColdReset (s : State) : Res := .next (s.cleared false)

/-- Whether a sealed world is live. -/
def State.sealedLive (s : State) : Bool := s.hub.worlds.any (fun e => e.1 != 0 && e.2.st != 0)

/-- WARM_RESET (R11, Table 2-2): a request with tag `Inp.tag`; a refused one answers NOTREADY. -/
def execWarmReset (s : State) : Res :=
  let h := s.hub
  let no : Bool := h.hif == 0 || (h.hif == 4 && h.cause == 2) || s.sealedLive
  if no then .next ((s.logErr 1 (reqCode 0 0) 0 0 0 5).send (.mgmt s.inp.tag (.refused 5) []))
  else .next ((s.cleared true).send (.mgmt s.inp.tag .ok []))

/-- Units of `Hub.wall` in a nanosecond. -/
abbrev wallNs : Nat := 1020000
/-- The bounds of Table 1-2: reference-clock cycles of 10 ns since the release of reset (R6, R12). -/
def resetBound (step : Nat) : Nat := nthN [0, 4096, 200000, 60000000, 1200000000, 1500000000] step * 10 * wallNs

/-- The registers that a step of the measurement chain extends, one for each image it runs (R58). -/
def measRegs (step : Nat) : List Nat := if step = 3 then [0, 1, 2] else if step = 4 then [3] else []
/-- An image's signature verifies against the fused key digest (R58; log 38). -/
def bootImageOk (b : List Byte) : Bool := Config.verifies Config.imageKey (sha512N b) b
/-- Images are hashed and verified in turn, and each extends its measurement register; the first one that does not verify halts the
chain (R58). -/
def State.measureAll (s : State) (step : Nat) (images : List (List Byte)) : State :=
  (List.zip (measRegs step) (images.takeWhile bootImageOk)).foldl (fun s x => s.measure x.1 (sha512N x.2)) s

/-- RESET_STEP_COMPLETE (R12, R18, R58): the step in progress completes within its bound. `Inp.images` are the images that the step
runs, all of which verify; at step 5 `Inp.val` is the source's count and `Inp.ok` that there is one. -/
def execResetStepComplete (s : State) : Res :=
  let h := s.hub
  let next (s : State) : Res := .next (s.modHub (fun h => { h with rstep := h.rstep + 1 }))
  if 1 < h.hif ∨ h.rails = .off ∨ resetBound h.rstep < h.wall then .fault .notEnabled
  else match h.rstep with
  | 1 => next (s.modHub (fun h => { h with hif := 1 }))
  | 2 => next s
  | 3 => if s.inp.images.length = 3 ∧ s.inp.images.all bootImageOk then next (s.measureAll 3 s.inp.images) else .fault .notEnabled
  | 4 => if s.inp.images.length = 1 ∧ s.inp.images.all bootImageOk then next (s.measureAll 4 s.inp.images) else .fault .notEnabled
  | 5 => next (s.modHub (fun h => { h with
      hif := 2, ptRun := true, ptSync := s.inp.ok, podTime := if s.inp.ok then s.inp.val else h.podTime,
      phase := if s.inp.ok then 0 else h.phase }))
  | _ => .fault .notEnabled

/-- RESET_STEP_TIMEOUT (R12): the step in progress has missed its bound. What it measured before it halted stays measured (R58):
`Inp.images` are the images it had come to. -/
def execResetStepTimeout (s : State) : Res :=
  if 1 < s.hub.hif ∨ 5 < s.hub.rstep ∨ s.hub.wall ≤ resetBound s.hub.rstep then .fault .notEnabled
  else .next ((s.measureAll s.hub.rstep s.inp.images).hifError 1 s.hub.rstep 0)

/-- MODULE_TRIP (R10): every core is contained, its accepted stores performed first (R205), every key slot zeroised, ERROR entered, and
the rails switched off. -/
def execModuleTrip (s : State) : Res :=
  let s := (s.cores.map (·.1)).foldl (fun s c => s.performWq c) s
  let s := (List.range 512).foldl (fun s c => s.contain c 6 0) s
  let s := s.modHub (fun h => { h with
    worlds := h.worlds.map (fun e => (e.1, { e.2 with k0 := 0, k1 := 0, live0 := false, live1 := false })) })
  .next ((s.hifEnter 2 0).modHub (fun h => { h with rails := .off }))

/-- A step of the arithmetic clock, counted and logged (R9). The steps are numbered 0 for 1.7 GHz to 3 for 0.85 GHz, in DETAIL too
(log 64). -/
def State.clockStep (s : State) (n : Nat) : State :=
  (s.modHub (fun h => { h with clkstep := n, thrott := h.thrott + 1 })).logErr 4 (reqCode 4 0) 0 (BitVec.ofNat 32 n) 0 0

/-- THROTTLE_DOWN (R9): a condition holds, and there is a lower step; at the lowest one the condition is only noted (log 64). -/
def execThrottleDown (s : State) : Res :=
  let s := s.modHub (fun h => { h with hot := h.wall })
  .next (if s.hub.clkstep < 3 then s.clockStep (s.hub.clkstep + 1) else s)

/-- THROTTLE_UP (R9): both conditions have stayed clear for 50 ms, and there is a higher step. The spec does not say that a second step
up waits another 50 ms: it may follow (log 64). -/
def execThrottleUp (s : State) : Res :=
  if s.hub.clkstep = 0 ∨ s.hub.wall < s.hub.hot + 50000000 * wallNs then .fault .notEnabled else .next (s.clockStep (s.hub.clkstep - 1))

/-- Units of the phase of pod time in a cycle at a clock step: 1,020,000 to the nanosecond (R7). -/
def cyclePhase (step : Nat) : Nat := if step = 0 then 600000 else if step = 1 then 680000 else if step = 2 then 850000 else 1200000

/-- Time passes: pod time advances by a cycle, slewed towards its source by no more than 100 ppm (R18). -/
def State.podTick (s : State) : State :=
  let a := cyclePhase s.hub.clkstep
  let s := s.modHub (fun h => { h with wall := h.wall + a })
  let h := s.hub
  if !h.ptRun then s
  else
    let lim := Nat.min (Config.slew s.clock % (a / 10000 + 1)) h.ptSlew.natAbs
    let adj : Int := if h.ptSlew < 0 then -(lim : Int) else lim
    let p := (((h.phase + a : Nat) : Int) + adj).toNat
    s.modHub (fun h => { h with podTime := h.podTime + BitVec.ofNat 64 (p / 1020000), phase := p % 1020000, ptSlew := h.ptSlew - adj })

/-- POD_TIME_OFFSET_MEASURE (R18, R19): `Inp.val` is the signed offset measured from the source, in ns, over a port that is up. An
offset that does not fit OFFS is not measured (log 64). -/
def execPodTimeOffsetMeasure (s : State) : Res :=
  let h := s.hub
  let z := s.inp.val.toInt
  if h.ptRun ∧ !h.ptSrc ∧ h.ports ≠ 0 ∧ -32768 ≤ z ∧ z < 32768 then
    let ok : Bool := z.natAbs ≤ 20
    .next (s.modHub (fun h => { h with
      ptOffs := BitVec.ofInt 16 z, ptSync := ok, ptLost := h.ptLost || !ok, ptSlew := -(z * 1020000) }))
  else .fault .notEnabled

/-- PTSTAT_WRITE (R19, R25): `Inp.val` is written to PTSTAT. A source reads SYNC 1 and OFFS 0; the last offset measured is kept. -/
def execPtstatWrite (s : State) : Res :=
  .next (s.mmioWr 0x50010 (fun s =>
    let h := s.hub
    let src := tbit s.inp.val.toNat 2
    if (h.blk 5).lock ∧ src ≠ h.ptSrc then (s, 2)
    else
      let lost := h.ptLost && !tbit s.inp.val.toNat 3
      (s.modHub (fun h =>
        if src then { h with ptSrc := true, ptSync := true, ptLost := false, ptSlew := 0 }
        else { h with ptSrc := false, ptSync := h.ptSync && !h.ptSrc, ptLost := lost }), 0)))

/-- UALINK_PORT_FAIL (R16): port `Inp.idx` goes down; its requests are retried on the ports that remain. With the last one every
route to the source is lost, and the count runs freely (R19). -/
def execUalinkPortFail (s : State) : Res :=
  let p := s.inp.idx
  if p < 16 ∧ s.hub.ports.getLsbD p then
    .next ((s.modHub (fun h =>
      let up := h.ports &&& ~~~(1#16 <<< p)
      let lost := up = 0 ∧ !h.ptSrc
      { h with ports := up, ptSync := if lost then false else h.ptSync, ptSlew := if lost then 0 else h.ptSlew })).logErr 3 (reqCode 4 0) 0 (BitVec.ofNat 32 p) 0 0)
  else .fault .notEnabled

/-- UALINK_DELIVERY_TIMEOUT (R16): `Inp.idx2` 0 names a read or atomic, operation `Inp.idx` of core `Inp.core`, 16 the oldest write of
its write path, 20 the link unit `Inp.idx` of those in transit, another number the read of a unit as for MODULE_HOST_READ_TIMEOUT. None
of them is performed. -/
def execUalinkDeliveryTimeout (s : State) : Res :=
  let c := s.inp.core.toNat
  let k := s.core c
  match s.inp.idx2 with
  | 16 => match k.wq with
    | w :: rest =>
      if w.kind = 0 ∧ w.atom.isNone ∧ paKind s.hub.accid w.addr = .peer ∧ w.sentAt + 2000000 ≤ s.hub.podTime.toNat then
        .next (((s.logErr 5 (reqCode (w.req c).1 (w.req c).2) (BitVec.ofNat 64 w.va) 0 w.world.toNat 0).refuseWrite c w).modCore c (fun k =>
          { k with wq := rest }))
      else .fault .notEnabled
    | [] => .fault .notEnabled
  | 20 => match s.hub.units[s.inp.idx]? with
    | some u =>
      if u.accel ≠ s.hub.accid ∧ u.sentAt + 2000000 ≤ s.hub.podTime.toNat then
        .next ((s.logErr 5 (reqCode 2 (2 * u.src + u.eng)) u.target 0 u.world.toNat 0).unitLost u)
      else .fault .notEnabled
    | none => .fault .notEnabled
  | n => if s.readTimeout c n (fun pa => paKind s.hub.accid pa == .peer) then .next (s.poisonRead c n) else .fault .notEnabled

/-- Bytes of a peer's write laid over what is there: `Inp.wide` holds the byte enables, all ones for a whole
write (Table 1-3). -/
def enabled (mask : Nat) (old new : List Byte) : List Byte :=
  (List.range new.length).map (fun i => if tbit mask i then new.getD i 0 else old.getD i 0)

/-- What a peer's write of a sealed world says: whole units are ciphertext, and the bytes of a unit that is not enabled as a whole are
taken as they are, for the home's crypto unit to merge (R43; log 39). -/
def State.unseal (s : State) (world : Nat) (gen : Bool) (pa mask : Nat) (bs : List Byte) : List Byte :=
  if world = 0 then bs
  else (List.range ((bs.length + 15) / 16)).flatMap (fun i =>
    let u := (bs.drop (16 * i)).take 16
    if bits mask (16 * i) 16 = 65535 then xtsUnit false ((s.world world).key gen) (s.tweak (pa + 16 * i)) u else u)

/-- PEER_MODULE_REQUEST (R15, R41): module `Inp.accel` reads, writes or does an atomic at local address `Inp.addr` with world tag
`Inp.world`, over a port that is up. A read of a sealed world returns ciphertext, and a write of one carries ciphertext under the
generation whose parity `Inp.ok` is (R43); the home keeps the line under one generation (R51). -/
def execPeerModuleRequest (s : State) : Res :=
  let w := s.inp.world.toNat
  let pa := s.inp.addr.toNat
  let id := s.inp.accel.toNat
  let refuse (s : State) : Res := .next (s.send (.peer none))
  let size (n : Nat) : Bool := (n == 64 || n == 128 || n == 256) && pa % n == 0
  let gen : Bool := if (s.world w).live s.inp.ok then s.inp.ok else (s.world w).cur
  if s.hub.ports = 0 then .fault .notEnabled
  else if !(s.hub.hif = 2 ∨ s.hub.hif = 3) then refuse (s.logErr 1 (reqCode 5 id) s.inp.addr 0 w 5)
  else match s.inp.peer with
  | .read n =>
    let (s, ok) := s.homeCheck 5 id w pa n false
    if !(size n) then .fault .notEnabled
    else if ok then .next ((s.l2Served w pa n).send (.peer (some (s.rawRd pa n)))) else refuse s
  | .write bs =>
    let n := bs.length
    let (s, ok) := s.homeCheck 5 id w pa n true
    if !(size n) then .fault .notEnabled
    else if ok then
      let s := s.homeWr none w gen pa (enabled s.inp.wide.toNat (s.plainRd w pa n) (s.unseal w gen pa s.inp.wide.toNat bs))
      .next (s.send (.peer (some [])))
    else refuse s
  | .atomic op arg cmp =>
    let n := AtomK.size op
    let (s, ok) := s.homeCheck 5 id w pa n true
    if pa % n ≠ 0 then .fault .notEnabled
    else if ok then
      let old := leNat (s.plainRd w pa n)
      let s := match atomNew op old arg.toNat cmp.toNat with
        | some v => s.homeWr none w gen pa (leBytes n v)
        | none => s
      .next (s.send (.peer (some (leBytes n old))))
    else refuse s

/-- HUB_STATE_UNCORRECTABLE_ERROR (R23). -/
def execHubStateUncorrectableError (s : State) : Res :=
  .next (s.draw.hifError 4 0 (Config.freeByte s.free).toNat)

/-- MANAGEMENT_CORE_WATCHDOG_EXPIRY (R23). -/
def execManagementCoreWatchdogExpiry (s : State) : Res :=
  .next (s.draw.hifError 5 0 (Config.freeByte s.free).toNat)

end Sys2Proof.Machine
end

