-- ==== Sys2Proof/Machine/HostIf.lean ====
section
/-! DEFINITION. The host's requests (02 R21-R38; 03 R411): queue control, notifies, module memory, and the registers that
have no row of their own. -/

namespace Sys2Proof.Machine

/-- The largest power of two, up to 256, that divides a length. -/
def natural (n : Nat) : Nat := ((List.range 9).reverse.map (2 ^ ·)).find? (fun p => n % p == 0) |>.getD 1
/-- A request that the link carries (R13): 1 to 256 bytes, naturally aligned, within a 256-byte block. The natural alignment of a
length that is no power of two is the largest one that divides it (log 33). -/
def linkReq (a n : Nat) : Bool := 1 ≤ n && n ≤ 256 && a % natural n == 0 && a % 256 + n ≤ 256

/-- A request of the host that reaches the module: one that the link carries, or one from a function bound to a sealed world that is not
of whole 16-byte units at a multiple of 16: R411 refuses it (log 33). -/
def State.linkTakes (s : State) (w a n : Nat) : Bool :=
  linkReq a n || (w != 0 && paKind s.hub.accid a != .mmio && 1 ≤ n && a % 256 + n ≤ 256 && (a % 16 != 0 || n % 16 != 0))

/-- QCTL (R30): a write while BUSY is refused, then a bad operation or reserved bit. -/
def State.qctl (s : State) (op : Nat) (f : State → Nat → State × Nat) : Res :=
  let v := s.inp.val.toNat
  if bits v 28 4 = op then
    .next (s.mmioWr 0x10010 (fun s =>
      if s.hub.qbusy then (s, 5) else if bits v 12 16 ≠ 0 ∨ 2 ^ 32 ≤ v then (s, 7) else f s (bits v 0 12)))
  else .fault .notEnabled

/-- QUEUE_ENABLE (R30, R65): `Inp.val` is written to QCTL. Entries that completed beyond CIDX stay completed (R34). -/
def execQueueEnable (s : State) : Res :=
  s.qctl 1 (fun s q =>
    let b := s.qdRaw q
    if (s.uq q).en then (s, 5)
    else if !s.qDescOk b then (s, 7)
    else
      let (ri, ci) := (BitVec.ofNat 32 (fld b 0x14 4), BitVec.ofNat 32 (fld b 0x18 4))
      let s := (s.qdWr q 0x1C 0).modUq q (fun u => { u with
        en := true, ready := false, slot := none, d := qDescOf b,
        doneIx := u.doneIx.filter (fun i => (BitVec.ofNat 32 i - ci).toNat < (ri - ci).toNat) })
      let s := if s.qPending q = 0 then s else s.qReady q
      (s.modHub (fun h => { h with hif := if h.hif = 2 then 3 else h.hif }), 0))

/-- QUEUE_DISABLE (R30): `Inp.val` is written to QCTL. -/
def execQueueDisable (s : State) : Res := s.qctl 2 (fun s q => (s.qDisable q, 0))

/-- QUEUE_DRAIN (R30): `Inp.val` is written to QCTL. -/
def execQueueDrain (s : State) : Res :=
  s.qctl 3 (fun s q =>
    let s := s.qDisable q
    (s.modHub (fun h => { h with qid := q, qbusy := !(mget {} h.queues q).opbs.isEmpty }), 0))

/-- NOTIFY_WRITE (R31, R32, R26): the host writes `Inp.val` to the notify register of queue `Inp.idx`. -/
def execNotifyWrite (s : State) : Res :=
  let q := s.inp.idx
  let off := 0x20000 + 8 * q
  let fn := s.inp.fn
  if 4096 ≤ q then .fault .notEnabled
  else if s.mmioGate false off ≠ 0 then .next (s.mmioDone off 5 0)
  else if fn ≠ 0 ∧ s.qWorld q ≠ s.fnWorld fn then .next (s.mmioDone off 3 0)
  else
    let (s, st) := s.notifyWord q s.inp.val (reqCode 0 fn.toNat) (BitVec.ofNat 64 off) (s.fnWorld fn)
    .next (s.send (.status fn st 0))

/-- The checks of a host access to module memory (R26, R41, R57, R411): the state, whole units for a sealed world, the world, and
the watched ranges. A posted write is sent no status, and its entry says so (Table 2-8). -/
def State.hostCheck (s : State) (pa n : Nat) (wr : Bool) : State × Nat :=
  let fn := s.inp.fn
  let w := s.fnWorld fn
  let sent (st : Nat) : Nat := if wr then 0 else st
  let refuse (st : Nat) : State × Nat := (s.logErr 1 (reqCode 0 fn.toNat) (BitVec.ofNat 64 pa) 0 w (sent st), st)
  if !(s.hub.hif = 2 ∨ s.hub.hif = 3) then refuse 5
  else if w ≠ 0 ∧ (pa % 16 ≠ 0 ∨ n % 16 ≠ 0) then refuse 4
  else
    let (s, ok) := s.homeCheckS 0 fn.toNat w pa n wr (sent 4)
    (s, if ok then 0 else 4)

/-- Sealed lines are brought under the current generation (R411). -/
def State.hostLines (s : State) (w pa n : Nat) : State :=
  if w = 0 then s else (lineParts pa n).foldl (fun s p => s.renew w (128 * p.1) (s.world w).cur) s

/-- HOST_MEMORY_WRITE (R38, R411): function `Inp.fn` writes `Inp.data` at address `Inp.addr`, as ciphertext for a sealed world. -/
def execHostMemoryWrite (s : State) : Res :=
  let pa := s.normPa s.inp.addr.toNat
  let n := s.inp.data.length
  let w := s.fnWorld s.inp.fn
  if !s.linkTakes w pa n then .fault .notEnabled
  else match s.hostCheck pa n true with
    | (s, 0) =>
      .next (((s.hostLines w pa n).rawWr pa s.inp.data).stored s none pa n)
    | (s, _) => .next (s.send (.irq 0 0))

/-- HOST_MEMORY_READ (R38, R411): function `Inp.fn` reads `Inp.len` bytes at address `Inp.addr`; an address of kind 3 is an MMIO
read. -/
def execHostMemoryRead (s : State) : Res :=
  let pa := s.normPa s.inp.addr.toNat
  let n := s.inp.len
  let w := s.fnWorld s.inp.fn
  if !s.linkTakes w pa n then .fault .notEnabled
  else if paKind s.hub.accid pa = .mmio then .next (s.mmioRd (pa % 2 ^ 24) n)
  else match s.hostCheck pa n false with
    | (s, 0) =>
      let s := (s.hostLines w pa n).l2Served w pa n
      .next (s.send (.hostRead s.inp.fn (some (s.rawRd pa n))))
    | (s, st) => .next ((s.send (.hostRead s.inp.fn none)).send (.status s.inp.fn st 0))

/-- A write to an LK register: locked and an LK field changed, reserved bits, or done (R25). -/
def lkWrite (s : State) (b : Nat) (changed bad : Bool) (f : Hub → Hub) : State × Nat :=
  if (s.hub.blk b).lock && changed then (s, 2) else if bad then (s, 7) else if changed then (s.modHub f, 0) else (s, 0)

def State.modTrc (s : State) (f : Trc → Trc) : State := s.modHub (fun h => { h with trc := f h.trc })
/-- A checked write to a TRACE register. -/
def trcWrite (s : State) (bad : Bool) (f : Trc → Trc) : State × Nat := if bad then (s, 7) else (s.modTrc f, 0)

def State.modRsel (s : State) (f : RRange → RRange) : State :=
  s.modHub (fun h => { h with rranges := mset h.rranges (bits h.rlsel.toNat 3 12) (f h.rsel) })

/-- Command registers take only what their own rows do not: undefined operations (R30, R46, R211). -/
def cmdWrite (s : State) (busy : Bool) : State × Nat := (s, if busy then 5 else 7)

/-- A register write and the status it answers (R38): `v` is the value of n bytes written at an offset. -/
def State.regWrite (s : State) (r : Reg) (off n : Nat) (w : Word) : Option (State × Nat) :=
  let h := s.hub
  let v := w.toNat
  let v32 := BitVec.ofNat 32 v
  match r with
  | .hifstat | .errpos | .errlog _ | .qstat | .wstat | .wkeypub | .rlcnt | .rlhead | .ptcount | .dbgstat | .trwr | .trdrop | .rpstat
  | .fqhead | .fqopen | .fqstat => some (s, 7)
  | .qtbase => some (lkWrite s 1 (bits h.qtbase.toNat 18 38 != bits v 18 38) (v % 2 ^ 18 != 0 || 2 ^ 56 ≤ v) (fun h => { h with qtbase := w }))
  | .qctl => if (bits v 28 4 = 0 ∨ 3 < bits v 28 4) then some (cmdWrite s h.qbusy) else none
  | .wcmd => if (bits v 60 4 = 0 ∨ 5 < bits v 60 4) then some (cmdWrite s (h.wstat.getLsbD 0)) else none
  | .dbgcmd => if (bits v 28 4 = 0 ∨ 6 < bits v 28 4) then some (cmdWrite s (mget 0 h.dbgBusy s.dbgCore != 0)) else none
  | .wbuf => some (if v % 256 ≠ 0 then (s, 7) else (s.modHub (fun h => { h with wbuf := w }), 0))
  | .wfunc f => some (lkWrite s 3 ((mget 0 h.wfunc f).toNat != v % 1024) (1024 ≤ v) (fun h => { h with wfunc := mset h.wfunc f (BitVec.ofNat 10 v) }))
  | .rlsel => some (if 2 ^ 15 ≤ v ∨ v % 8 = 7 then (s, 7) else (s.modHub (fun h => { h with rlsel := v32 }), 0))
  | .rlbase => some (if tbit h.rsel.ctl.toNat 31 ∨ v % 65536 ≠ 0 then (s, 7) else (s.modRsel (fun r => { r with base := v }), 0))
  | .rllen => some (if tbit h.rsel.ctl.toNat 31 ∨ v % 65536 ≠ 0 ∨ v = 0 then (s, 7) else (s.modRsel (fun r => { r with len := v }), 0))
  | .rlring => some (lkWrite s 4 (bits h.rlring.toNat 21 43 != bits v 21 43) (v % 2 ^ 21 != 0) (fun h => { h with rlring := w }))
  | .accid => some (lkWrite s 5 (h.accid.toNat != v % 1024) (1024 ≤ v) (fun h => { h with accid := BitVec.ofNat 10 v }))
  | .ptsrcid => some (lkWrite s 5 (h.ptsrcid.toNat != v % 1024) (1024 ≤ v) (fun h => { h with ptsrcid := BitVec.ofNat 10 v }))
  | .dbgsel => some (trcWrite s (512 ≤ v) (fun t => { t with sel := v32 }))
  | .dbgbuf => some (trcWrite s (v % 4096 != 0) (fun t => { t with buf := w }))
  | .trbase => some (if tbit h.trc.ctl.toNat 31 then (s, 5) else trcWrite s (v % 4096 != 0) (fun t => { t with base := w }))
  | .trsize => some (if tbit h.trc.ctl.toNat 31 then (s, 5)
      else trcWrite s (v % 4096 != 0 || v == 0 || 2 ^ 32 < v) (fun t => { t with size := w }))
  | .trrd => some (trcWrite s (v % 16 != 0 || h.trc.size.toNat ≤ v) (fun t => { t with rd := w }))
  | .fwthr => some (trcWrite s false (fun t => { t with fwthr := v32 }))
  | .cntsel => some (trcWrite s (2 ^ 25 ≤ v || bits v 4 12 != 0) (fun t => { t with cntsel := v32 }))
  | .cntovf => some (if 65536 ≤ v then (s, 7) else
      ((s.modCore s.cntCore (fun k => { k with cntovf := k.cntovf &&& ~~~v32 })).modHub (fun h => { h with fqovf := h.fqovf && !tbit v 8 }), 0))
  | .cntcfg => some (if 512 ≤ v then (s, 7) else (s.modCore s.cntCore (fun k => { k with cfgNext := some w }), 0))
  | .trmask => some (trcWrite s false (fun t => { t with
      mask := BitVec.ofNat 512 (setBits t.mask.toNat (8 * pieceOff r off) (8 * n) v) }))
  | .fqbase => some (
      let (s, st) := lkWrite s 10 (bits h.fqbase.toNat 17 39 != bits v 17 39) (v % 2 ^ 17 != 0 || 2 ^ 56 ≤ v) (fun h => { h with fqbase := w })
      (if st = 0 then s.modHub (fun h => { h with fqset := true }) else s, st))
  | .blkctl _ | .notify _ | .rlctl | .ptstat | .ltab _ _ | .lnsctl _ | .bpctl _ | .bpval _ | .trctl | .cntval | .rpdesc
  | .fmbase _ | .fmlen _ | .fmscale _ | .fmctl _ | .fmzero _ | .fqdone => none

/-- REGISTER_WRITE (R38): `Inp.val` of `Inp.len` bytes is written at aperture offset `Inp.addr`; a register that has a row of its
own is not written by this one. -/
def execRegisterWrite (s : State) : Res :=
  let off := s.inp.addr.toNat
  let n := s.inp.len
  match regAt off n with
  | none => .next (s.mmioWr off (fun s => (s, 1)))
  | some r =>
    match s.regWrite r off n s.inp.val with
    | none => .fault .notEnabled
    | some _ => .next (s.mmioWr off (fun s => (s.regWrite r off n s.inp.val).getD (s, 0)))

/-- BLKCTL_WRITE (R25, R58, R61): `Inp.val` is written to BLKCTL of block `Inp.idx`. A lock takes the digests of the block's LK
registers and extends MEAS 4 with that of all of them, in ascending offset (log 27). -/
def execBlkctlWrite (s : State) : Res :=
  let b := s.inp.idx
  if b = 2 ∨ 11 ≤ b then .fault .notEnabled
  else .next (s.mmioWr (65536 * b) (fun s =>
    let x := s.hub.blk b
    let ex := tbit s.inp.val.toNat 0
    if x.lock then (s, if ex = x.expert then 0 else 2)
    else if !tbit s.inp.val.toNat 1 then (s.modHub (fun h => { h with blks := mset h.blks b { x with expert := ex } }), 0)
    else
      let l := lkRegs b
      let y : Blk := { lock := true, expert := ex, since := s.hub.podTime.toNat,
                       digs := l.map (fun e => (e.1, sha512N (s.lkBytes e.2))) ++ x.digs }
      ((s.measure 4 (sha512N (l.flatMap (fun e => s.lkBytes e.2)))).modHub (fun h => { h with blks := mset h.blks b y }), 0)))

end Sys2Proof.Machine
end

