-- ==== Sys2Proof/Machine/Worlds.lean ====
section
/-! DEFINITION. World commands, teardown and scrub receipts, watched ranges, the locked-register walker (03 R46-R62), format
range entries (07 R139) and the LNS6 table override (09 R172). -/

namespace Sys2Proof.Machine

/-- A WCMD write (R46, R47): refused while BUSY, then by its reserved bits; an accepted command ends with ERR in WSTAT, and BUSY
stays for one that goes on. -/
def State.wcmd (s : State) (op : Nat) (argOk : Bool) (f : State → Nat → State × Nat × Bool) : Res :=
  let v := s.inp.val.toNat
  if bits v 60 4 ≠ op then .fault .notEnabled
  else .next (s.mmioWr 0x30010 (fun s =>
    let w := bits v 32 10
    if s.hub.wstat.getLsbD 0 then (s, 5)
    else if bits v 42 18 ≠ 0 ∨ w = 0 ∨ (!argOk ∧ bits v 0 32 ≠ 0) then (s, 7)
    else
      let (s', err, busy) := f s w
      let s := if err = 0 then s' else s
      (s.modHub (fun h => { h with wstat := BitVec.ofNat 32 (w * 1024 + err * 4 + (if busy then 1 else 2)) }), 0)))

/-- The key pair of a key blob for a world (R49): none for a blob that does not unwrap. -/
def unwrapBlob (b : List Byte) (w : Nat) : Option (BitVec 512) :=
  if fld b 0 4 ≠ 0x424B4C50 ∨ fld b 4 2 ≠ w then none
  else
    let x := Config.ecdh ((b.drop 8).take 136)
    let key := (sha512 (beBytes 66 x.toNat ++ beBytes 2 w)).take 32
    (aesUnwrap key ((b.drop 0x90).take 72)).map (fun k => BitVec.ofNat 512 (leNat k))

/-- The ranges of a world descriptor (R48): none where the table is malformed. -/
def descRanges (d : List Byte) : Option (List (Nat × Nat)) :=
  let n := fld d 0x100 2
  let e (i : Nat) : Nat × Nat := (fld d (0x108 + 16 * i) 8, fld d (0x110 + 16 * i) 8)
  if n < 1 ∨ 64 < n ∨ fld d 0x102 6 ≠ 0 ∨ !((List.range 64).all (fun i => i < n || e i == (0, 0))) then none
  else some ((List.range n).map e)

/-- Ranges aligned, inside memory and owned by no other world (R48, ERR 3). -/
def State.rangesFree (s : State) (l : List (Nat × Nat)) : Bool :=
  l.all (fun r => r.1 % 2 ^ 21 == 0 && r.2 % 2 ^ 21 == 0 && r.1 + r.2 ≤ hbmSize
    && s.hub.worlds.all (fun e => e.1 == 0 || e.2.st == 0 || e.2.ranges.all (fun q => q.1 + q.2 ≤ r.1 || r.1 + r.2 ≤ q.1)))

def inRanges (l : List (Nat × Nat)) (a : Nat) : Bool := l.any (fun r => r.1 ≤ a && a < r.1 + r.2)

/-- CREATE (R48-R50, R58): `Inp.val` is written to WCMD; the paging service gives the root `Inp.addr` (R123). -/
def execCreate (s : State) : Res :=
  let root := s.inp.addr
  s.wcmd 1 false (fun s w =>
    let d := s.rawRd s.hub.wbuf.toNat 0x508
    if (s.world w).st ≠ 0 then (s, 1, false)
    else match unwrapBlob (d.take 256) w, descRanges d with
      | none, _ => (s, 2, false)
      | _, none => (s, 3, false)
      | some key, some l =>
        if !s.rangesFree l then (s, 3, false)
        else
          let s := { s with gens := s.gens.filter (fun e => !inRanges l (128 * e.1)) }
          let s := s.measure 5 (sha512N (leBytes 2 w ++ (d.drop 0x108).take 1024))
          (s.modWorld w (fun _ => { st := 1, root := root, live0 := true, k0 := key, ranges := l, born := s.hub.podTime.toNat }), 0, false))

/-- ROTATE (R50, R51): `Inp.val` is written to WCMD. -/
def execRotate (s : State) : Res :=
  s.wcmd 2 false (fun s w =>
    let x := s.world w
    if x.st ≠ 2 then (s, 1, false)
    else if x.live0 ∧ x.live1 then (s, 5, false)
    else match unwrapBlob (s.rawRd s.hub.wbuf.toNat 256) w with
      | none => (s, 2, false)
      | some key =>
        (s.modWorld w (fun x => if x.cur then { x with st := 3, count := x.count + 1, live0 := true, k0 := key, walk := false }
          else { x with st := 3, count := x.count + 1, live1 := true, k1 := key, walk := false }), 0, false))

/-- RETIRE (R50, R52): `Inp.val` is written to WCMD; ARG names the generation count to destroy. -/
def execRetire (s : State) : Res :=
  s.wcmd 3 true (fun s w =>
    let x := s.world w
    let g := bits s.inp.val.toNat 0 32
    if x.st = 3 then (s, 7, false)
    else if x.st = 2 ∧ g ≠ x.count ∧ x.genLive g then
      (s.modWorld w (fun x => if g % 2 = 1 then { x with live1 := false, k1 := 0 } else { x with live0 := false, k0 := 0 }), 0, false)
    else (s, 6, false))

/-- The range table of a world, as the walker checks it (R61). -/
def World.rangeBytes (w : World) : List Byte := w.ranges.flatMap (fun r => leBytes 8 r.1 ++ leBytes 8 r.2)

/-- LOCKCFG (R50): `Inp.val` is written to WCMD; from now on the walker checks the world's ranges (R61). -/
def execLockcfg (s : State) : Res :=
  s.wcmd 4 false (fun s w =>
    if (s.world w).st ≠ 1 then (s, 1, false)
    else
      let d := sha512N (s.world w).rangeBytes
      let s := s.modHub (fun h => { h with blks := mset h.blks 3 { h.blk 3 with digs := mset (h.blk 3).digs (65536 + w) d } })
      (s.modWorld w (fun x => { x with st := 2, lockAt := s.hub.podTime.toNat }), 0, false))

/-- Watched ranges of a world are closed and their final counters hashed (R54, R55). -/
def State.closeRanges (s : State) (w : Nat) : State :=
  let mine := s.hub.rranges.filter (fun e => tbit e.2.ctl.toNat 31 && bits e.2.ctl.toNat 0 10 == w)
  let recs := mine.flatMap (fun e => (List.range 7).flatMap (fun k => cntBytes (mget (0, 0, 0, 0) e.2.cnt k)))
  let s := mine.foldl (fun s e => s.modHub (fun h => { h with
    rranges := mset h.rranges e.1 { e.2 with ctl := e.2.ctl &&& 0x7FFFFFFF } })) s
  s.modWorld w (fun x => { x with rhash := sha512 recs })

/-- The clears of a teardown, steps 2 to 6 of R54. A core and a kiln keep their last world (R53). -/
def State.scrub (s : State) (w : Nat) : State :=
  let x := s.world w
  let s := s.cores.foldl (fun s e => if e.2.lastWorld == some (BitVec.ofNat 10 w) then
    (s.coreClear e.1).modCore e.1 (fun k => { k with lastWorld := if e.2.clearing then none else e.2.lastWorld }) else s) s
  let s := s.kilns.foldl (fun s e =>
    if e.2.holder.isNone ∧ e.2.lastWorld == some (BitVec.ofNat 10 w) then
      (s.kilnClear e.1).modKiln e.1 (fun k => { k with lastWorld := if e.2.clearDue then none else e.2.lastWorld }) else s) s
  let lines := s.l2.filter (fun e => e.2.world.toNat == w)
  let s := s.scrubAdd w 3 lines.length
  let s := s.scrubAdd w 6 (s.ltlb.map (fun e => (e.2.filter (fun t => t.world.toNat == w)).length)).sum
  let s := { s with
    l2 := s.l2.filter (fun e => e.2.world.toNat != w), ltlb := s.ltlb.map (fun (e : Nat × List TlbEnt) => (e.1, e.2.filter (fun t => t.world.toNat != w))),
    invs := s.invs.filter (fun v => !inRanges x.ranges (128 * v.line)),
    mem := s.mem.filter (fun e => !inRanges x.ranges e.1), gens := s.gens.filter (fun e => !inRanges x.ranges (128 * e.1)) }
  let s := (s.closeRanges w).scrubAdd w 8 ((if x.live0 then 1 else 0) + (if x.live1 then 1 else 0))
  s.modWorld w (fun x => { x with k0 := 0, k1 := 0, live0 := false, live1 := false, walk := false })

/-- TEARDOWN (R50, R54): `Inp.val` is written to WCMD; BUSY stays until the receipt is written. -/
def execTeardown (s : State) : Res :=
  s.wcmd 5 false (fun s w =>
    let x := s.world w
    if x.st = 0 ∨ x.st = 4 then (s, 1, false)
    else if s.hub.opbs.any (fun o => o.2.world.toNat == w) then (s, 4, false)
    else
      let s := s.modHub (fun h => { h with blks := mset h.blks 3 { h.blk 3 with digs := mdel (h.blk 3).digs (65536 + w) } })
      let s := s.modWorld w (fun x => { x with st := 4, tdown := s.hub.podTime.toNat, wbuf := s.hub.wbuf })
      (s.scrub w, 0, true))

/-- The scrub receipt (Table 3-3), with an entry for every class (log 28). -/
def State.receipt (s : State) (w : Nat) : List Byte :=
  let x := s.world w
  let h := x.ranges.length
  let cls := (List.range 8).flatMap (fun i =>
    let (n, b) := match x.cleared.find? (fun e => e.1 == i + 1) with | some (_, n, b) => (n, b) | none => (0, 0)
    leBytes 2 (i + 1) ++ leBytes 2 0 ++ leBytes 4 n ++ leBytes 8 b)
  let len := 0x40 + 128 + 16 * h + 64 + 132
  let total := (len + 15) / 16 * 16
  let body := leBytes 4 0x52534C50 ++ leBytes 2 1 ++ leBytes 2 w ++ leBytes 4 x.count ++ leBytes 2 s.hub.accid.toNat ++ leBytes 2 8
    ++ leBytes 8 x.tdown ++ leBytes 8 s.hub.podTime.toNat ++ leBytes 16 Config.deviceSerial.toNat ++ leBytes 4 h ++ leBytes 4 total
    ++ leBytes 8 0 ++ cls ++ x.rangeBytes ++ padTo 64 x.rhash
  body ++ padTo 132 (Config.sign body) ++ List.replicate (total - len) 0

/-- SCRUB_COMPLETE (R54, R55): of world `Inp.world`, whose clears have ended. -/
def execScrubComplete (s : State) : Res :=
  let w := s.inp.world.toNat
  if (s.world w).st ≠ 4 ∨ w = 0 then .fault .notEnabled
  else
    let s := s.rawWr (s.world w).wbuf.toNat (s.receipt w)
    .next (s.modHub (fun h => { h with worlds := mdel h.worlds w, wstat := BitVec.ofNat 32 (w * 1024 + 2) }))

/-- A write that captured a generation other than the current one is still on its way (R52). -/
def State.oldWrites (s : State) (w : Nat) : Bool :=
  let x := s.world w
  s.cores.any (fun e =>
    e.2.wq.any (fun p => p.world.toNat == w && p.gen != x.cur)
      || (e.2.world.toNat == w && e.2.flights.any (fun f => isWrite f.i && f.phase == .unsent && f.gen != 0 && f.gen != x.count + 1)))

/-- REENCRYPT_WALKER_START (R52): of world `Inp.world`. -/
def execReencryptWalkerStart (s : State) : Res :=
  let w := s.inp.world.toNat
  let x := s.world w
  if x.st = 3 ∧ !x.walk ∧ !s.oldWrites w then .next (s.modWorld w (fun x => { x with walk := true, wpos := 0 })) else .fault .notEnabled

/-- Line `i` of some ranges. -/
def rangeLine : List (Nat × Nat) → Nat → Option Nat
  | [], _ => none
  | r :: l, i => if i < r.2 / 128 then some (r.1 + 128 * i) else rangeLine l (i - r.2 / 128)

/-- The walker takes the next line of a world (R52). Stores come before this step or after it; a line with an invalidation under way
waits. -/
def State.walkStep (s : State) (w : Nat) : State :=
  let x := s.world w
  if x.st ≠ 3 ∨ !x.walk then s
  else match rangeLine x.ranges x.wpos with
    | some pa =>
      if s.invs.any (fun v => v.line == pa / 128) then s
      else (s.renew w pa x.cur).modWorld w (fun x => { x with wpos := x.wpos + 1 })
    | none => s

/-- REENCRYPT_WALKER_COMPLETE (R52): every line of the ranges of world `Inp.world` is under the current generation, and the world
returns to LOCKED. -/
def execReencryptWalkerComplete (s : State) : Res :=
  let w := s.inp.world.toNat
  let x := s.world w
  if x.st = 3 ∧ x.walk ∧ (rangeLine x.ranges x.wpos).isNone then .next (s.modWorld w (fun x => { x with st := 2, walk := false }))
  else .fault .notEnabled

/-- RLCTL_WRITE (R56): `Inp.val` is written to RLCTL of the selected range. -/
def execRlctlWrite (s : State) : Res :=
  .next (s.mmioWr 0x40030 (fun s =>
    let v := s.inp.val.toNat
    let r := s.hub.rsel
    let w := bits v 0 10
    let on (e : Nat × RRange) : Bool := tbit e.2.ctl.toNat 31
    let here := bits s.hub.rlsel.toNat 3 12
    let others := s.hub.rranges.filter (fun e => e.1 != here && on e)
    if bits v 23 8 ≠ 0 ∨ bits v 10 5 ≠ 0 ∨ 2 ^ 32 ≤ v then (s, 7)
    else if !tbit v 31 then (s.modRsel (fun r => { r with ctl := BitVec.ofNat 32 v }), 0)
    else if tbit r.ctl.toNat 31 ∨ r.len = 0 ∨ hbmSize < r.base + r.len
        ∨ !((List.range ((r.base + r.len - 1) / 2 ^ 21 - r.base / 2 ^ 21 + 1)).all (fun j => s.owner ((r.base / 2 ^ 21 + j) * 2 ^ 21) == w))
        ∨ others.any (fun e => r.base < e.2.base + e.2.len && e.2.base < r.base + r.len)
        ∨ 64 ≤ (others.filter (fun e => bits e.2.ctl.toNat 0 10 == w)).length then (s, 7)
    else (s.modRsel (fun r => { r with ctl := BitVec.ofNat 32 v, cnt := [] }), 0)))

/-- The offsets of the locked registers whose digests do not match, among those locked before this pass began (R61, R62). The
ranges of a world have no register: their offset is that of the block WORLD (log 66). -/
def State.walkMismatch (s : State) : List Nat :=
  let regs := s.hub.blks.flatMap (fun e =>
    if e.2.lock ∧ e.2.since ≤ s.hub.walkAt then
      ((lkRegs e.1).filter (fun r => mfind e.2.digs r.1 != some (sha512N (s.lkBytes r.2)))).map (fun r => 65536 * e.1 + r.1)
    else [])
  let worlds := (s.hub.blk 3).digs.filterMap (fun d =>
    if 65536 ≤ d.1 ∧ (s.world (d.1 - 65536)).lockAt ≤ s.hub.walkAt ∧ d.2 ≠ sha512N (s.world (d.1 - 65536)).rangeBytes then some 0x30000 else none)
  regs ++ worlds

/-- LOCKED_REGISTER_WALK_PASS (R61): a pass takes 1,000,000 ns of pod time, give or take a tenth; each mismatch gets its entry. -/
def execLockedRegisterWalkPass (s : State) : Res :=
  let now := s.hub.podTime.toNat
  if now < s.hub.walkAt + 900000 then .fault .notEnabled
  else
    let bad := s.walkMismatch
    let s := s.modHub (fun h => { h with walkAt := now })
    if bad.isEmpty then .next s
    else .next ((bad.foldl (fun s off => s.logErr 7 (reqCode 4 0) (BitVec.ofNat 64 off) 0 0 0) s).draw.hifError 3 0 (Config.freeByte s.free).toNat)

/-- The end of a format range and of its scales (R139, R140). -/
def FmtRange.stop (r : FmtRange) : Nat := r.base.toNat + r.len.toNat
def FmtRange.scaleEnd (r : FmtRange) : Nat := r.scale.toNat + r.len.toNat / 256 * 16

/-- Whether a format range may be enabled with a control word (R139). -/
def State.fmtOk (s : State) (i : Nat) (r : FmtRange) (v : Nat) : Bool :=
  let code := bits v 4 4
  let bps := bits v 0 2
  r.len != 0 && r.stop ≤ hbmSize
    && s.fmts.all (fun e => e.1 == i || !tbit e.2.ctl.toNat 31 || e.2.stop ≤ r.base.toNat || r.stop ≤ e.2.base.toNat)
    && !(bps == 0 && (code == Fmt.lns6.code || code == Fmt.e2m1.code || code == Fmt.e8m0.code))
    && (bps == 0 || r.scaleEnd ≤ hbmSize)

/-- FORMAT_RANGE_WRITE (R139): `Inp.val` of `Inp.len` bytes is written at offset `Inp.addr` of an entry. -/
def execFormatRangeWrite (s : State) : Res :=
  let off := s.inp.addr.toNat
  let go (i : Nat) (changed : FmtRange → Bool) (bad : FmtRange → Bool) (ctl : Bool) (f : FmtRange → FmtRange) : Res :=
    .next (s.mmioWr off (fun s =>
      let r : FmtRange := mget {} s.fmts i
      let en := tbit r.ctl.toNat 31
      if (s.hub.blk 9).lock then (s, if changed r then 2 else if bad r then 7 else 0)
      else if (en && !(ctl && !tbit s.inp.val.toNat 31)) || bad r then (s, 7)
      else ({ s with fmts := mset s.fmts i (f r) }, 0)))
  let w := s.inp.val
  let v := w.toNat
  match regAt off s.inp.len with
  | some (.fmbase i) => go i (fun r => r.base != w) (fun _ => v % 2 ^ 21 != 0) false (fun r => { r with base := w })
  | some (.fmlen i) => go i (fun r => r.len != w) (fun _ => v % 2 ^ 21 != 0 || v == 0) false (fun r => { r with len := w })
  | some (.fmscale i) => go i (fun r => r.scale != w) (fun _ => v % 4096 != 0) false (fun r => { r with scale := w })
  | some (.fmzero i) => go i (fun _ => false) (fun _ => v != 0) false id
  | some (.fmctl i) =>
    go i (fun r => tbit r.ctl.toNat 31 != tbit v 31 || bits r.ctl.toNat 4 4 != bits v 4 4 || bits r.ctl.toNat 0 2 != bits v 0 2) (fun r =>
      bits v 8 23 != 0 || bits v 2 2 != 0 || 2 ^ 32 ≤ v || 14 ≤ bits v 4 4 || bits v 0 2 == 3
        || (tbit v 31 && !tbit r.ctl.toNat 31 && !s.fmtOk i r v)) true (fun r => { r with ctl := BitVec.ofNat 32 v })
  | _ => .fault .notEnabled

/-- A write to an expert field of the KILNX block (R25). -/
def State.expertWrite (s : State) (off : Nat) (changed bad : Bool) (f : State → State) : Res :=
  .next (s.mmioWr off (fun s =>
    let b := s.hub.blk 6
    if b.lock then (s, if changed then 2 else if bad then 7 else 0)
    else if !b.expert then (s, 6)
    else if bad then (s, 7)
    else (f s, 0)))

/-- KILN_LTAB_WRITE (R172): `Inp.val` is written at offset `Inp.addr`. -/
def execKilnLtabWrite (s : State) : Res :=
  let off := s.inp.addr.toNat
  let v := s.inp.val.toNat
  match regAt off s.inp.len with
  | some (.ltab k i) =>
    s.expertWrite off ((mget 0 (s.kiln k).ltab i).toNat != v) (bits v 23 8 == 255 || v % 2 ^ 31 == 0)
      (fun s => s.modKiln k (fun x => { x with ltab := mset x.ltab i (BitVec.ofNat 32 v) }))
  | some (.lnsctl k) =>
    s.expertWrite off ((s.kiln k).ovr != tbit v 0) (2 ≤ v) (fun s => s.modKiln k (fun x => { x with ovr := tbit v 0 }))
  | _ => .fault .notEnabled

end Sys2Proof.Machine
end

