-- ==== Sys2Proof/Machine/Evidence.lean ====
section
/-! DEFINITION. The management channel (02 R36, R37; 03 R59, R60; 12 R248, R249): SUMMARY, SPDM, certificates, image tags. -/

namespace Sys2Proof.Machine

/-- Send a management reply to the message being served. -/
def State.reply' (s : State) (st : MgmtSt) (data : List Byte) : State := s.send (.mgmt s.inp.tag st data)

/-- A message refused in this state or for this function (Table 2-2, R249): the status, and an error-log entry. -/
def State.mgmtRefuse (s : State) (st : Nat) : State :=
  (s.logErr 1 (reqCode 0 s.inp.fn.toNat) 0 0 0 st).reply' (.refused st) []

/-- The sections of a summary: type, record size, records (Table 2-7). Queues are those enabled, those that stopped with a QERR and
those with OPBs in flight, worlds world 0 and those not FREE (log 29). A sample group's state is 0 running, 1 paused, 2 collected, and
the allowance left is what the live rival with most parcels has left (log 65). -/
def State.sections (s : State) : List (Nat × Nat × List (List Byte)) :=
  let h := s.hub
  let queues := (h.queues.filter (fun e => e.2.en || !e.2.opbs.isEmpty || fld (s.qdRaw e.1) 0x1C 4 != 0)).map (fun e =>
    let (w, r, c) := s.qIdx e.1
    leBytes 2 e.1 ++ leBytes 1 (e.2.slot.getD 255) ++ leBytes 1 e.2.d.prio ++ leBytes 2 e.2.d.world.toNat ++ leBytes 2 0
      ++ leBytes 4 w.toNat ++ leBytes 4 r.toNat ++ leBytes 4 c.toNat ++ leBytes 4 (fld (s.qdRaw e.1) 0x1C 4) ++ leBytes 8 0)
  let watched (w : Nat) : Nat := (h.rranges.filter (fun e => tbit e.2.ctl.toNat 31 && bits e.2.ctl.toNat 0 10 == w)).length
  let world (w st live born : Nat) : List Byte :=
    leBytes 2 w ++ leBytes 1 st ++ leBytes 1 live ++ leBytes 2 (watched w) ++ leBytes 2 0 ++ leBytes 8 born
  let worlds := world 0 2 0 0 :: (h.worlds.filter (fun e => e.1 != 0 && e.2.st != 0)).map (fun e =>
    world e.1 e.2.st ((if e.2.live0 then 1 else 0) + (if e.2.live1 then 2 else 0)) e.2.born)
  let opbs := h.opbs.map (fun e =>
    leBytes 8 e.2.addr.toNat ++ leBytes 2 e.2.q ++ leBytes 2 0 ++ leBytes 4 e.2.n ++ leBytes 4 e.2.done ++ leBytes 4 0
      ++ leBytes 8 e.2.progress.toNat)
  let sgs := h.sgrps.map (fun e =>
    leBytes 1 e.1 ++ leBytes 1 e.2.st ++ leBytes 1 e.2.n ++ leBytes 1 (e.2.n - e.2.open'.length) ++ leBytes 4 0
      ++ leBytes 8 (if e.2.deadline = 0 then 0 else e.2.deadline - e.2.run))
  let tours := h.tours.map (fun e =>
    let live := e.2.rivals.filter (fun r => r.2.live)
    let used := (live.map (fun r => s.rivParcels e.1 r.1)).foldl Nat.max 0
    leBytes 1 e.1 ++ leBytes 1 e.2.round ++ leBytes 1 live.length ++ leBytes 5 0 ++ leBytes 8 (e.2.allow - used))
  let logs := [leBytes 4 h.errpos.toNat ++ leBytes 4 h.rlhead.toNat ++ leBytes 8 h.trc.wr]
  let ctrs := (List.range 9).map (fun i =>
    leBytes 8 (if i = 8 then h.fqfull else (s.cores.map (fun e => mget 0 e.2.ctr i)).sum % 2 ^ 48))
  [(1, 32, queues), (2, 16, worlds), (3, 32, opbs), (4, 16, sgs), (5, 16, tours), (6, 16, logs), (7, 8, ctrs)]

/-- The SUMMARY buffer (R37). -/
def State.summary (s : State) : List Byte :=
  let secs := s.sections
  let dir := secs.foldl (fun (a : List Byte × Nat) e =>
    (a.1 ++ leBytes 2 e.1 ++ leBytes 2 e.2.2.length ++ leBytes 4 a.2, a.2 + e.2.1 * e.2.2.length)) ([], 0x60)
  leBytes 4 0x4D534C50 ++ leBytes 2 1 ++ leBytes 1 s.hub.hif ++ leBytes 1 s.hub.cause ++ leBytes 8 s.hub.podTime.toNat
    ++ leBytes 4 dir.2 ++ leBytes 12 0 ++ padTo 64 dir.1 ++ secs.flatMap (fun e => e.2.2.flatten)

/-- SUMMARY (R36, R37): request `Inp.tag` for the buffer of `Inp.len` bytes at host address `Inp.addr`. The buffer is written before
the reply is sent, also at an address that is not aligned (log 65). -/
def execSummary (s : State) : Res :=
  let buf := s.summary
  if s.hub.hif = 0 then .next (s.mgmtRefuse 5)
  else if s.hub.sumRep.isSome then .next (s.reply' .busy [])
  else if s.inp.len < buf.length then .next (s.reply' .short (leBytes 4 buf.length))
  else
    let (s, n) := s.wait
    let s := { s with hostMem := wrBs s.hostMem s.inp.addr.toNat buf }
    .next (s.modHub (fun h => { h with sumRep := some ⟨s.inp.tag, 0, leBytes 4 buf.length, n⟩ }))

/-- What the hub owes is sent when its time has come. -/
def State.payOwed (s : State) (o : Owed) : State :=
  s.send (.mgmt o.tag (if o.kind = 3 then .mismatch else .ok) o.data)

/-- An SPDM request: refused in RESET (Table 2-2). -/
def State.spdmReq (s : State) (f : State → State) : Res := if s.hub.hif = 0 then .next (s.mgmtRefuse 5) else .next (f s)

/-- ERROR codes of SPDM 1.3: InvalidRequest and UnsupportedRequest (log 8). -/
abbrev spdmInvalid : MgmtSt := .spdmError 1
abbrev spdmUnsupported : MgmtSt := .spdmError 7

/-- GET_VERSION (R59): 1.3 only. -/
def execGetVersion (s : State) : Res := s.spdmReq (fun s => s.reply' .ok [0x13])

/-- GET_CAPABILITIES (R59): certificates, challenge, signed measurements; the flag bits are the standard's (log 8). -/
def execGetCapabilities (s : State) : Res := s.spdmReq (fun s => s.reply' .ok (leBytes 4 0x16))

/-- NEGOTIATE_ALGORITHMS (R59): `Inp.idx` and `Inp.idx2` are the masks of signature and hash algorithms offered, in the standard's
numbering (log 8): ECDSA P-521 is bit 8 and SHA-512 bit 2. -/
def execNegotiateAlgorithms (s : State) : Res :=
  s.spdmReq (fun s =>
    if tbit s.inp.idx 8 ∧ tbit s.inp.idx2 2 then s.reply' .ok (leBytes 4 0x100 ++ leBytes 4 4) else s.reply' spdmInvalid [])

/-- The contents of a certificate slot (R60): slot 0 is the device's chain. -/
def Spdm.slot (p : Spdm) (n : Nat) : Option (List Byte) := if n = 0 then some Config.deviceChain else if n < 8 then mfind p.slots n else none

/-- GET_DIGESTS (R59): the mask of the populated slots and their digests. -/
def execGetDigests (s : State) : Res :=
  s.spdmReq (fun s =>
    let l := (List.range 8).filterMap (fun n => (s.hub.spdm.slot n).map (fun b => (n, b)))
    s.reply' .ok (leBytes 1 (l.map (fun e => 2 ^ e.1)).sum ++ l.flatMap (fun e => sha512 e.2)))

/-- GET_CERTIFICATE (R59): `Inp.len` bytes from offset `Inp.idx2` of slot `Inp.idx`; an empty slot is an invalid request (log 66). -/
def execGetCertificate (s : State) : Res :=
  s.spdmReq (fun s => match s.hub.spdm.slot s.inp.idx with
    | some b => s.reply' .ok ((b.drop s.inp.idx2).take s.inp.len)
    | none => s.reply' spdmInvalid [])

/-- CHALLENGE (R59, R60): of slot `Inp.idx` with nonce `Inp.wide`. Its response follows, over the slot's contents as they are now; an empty
slot is an invalid request (log 66). -/
def execChallenge (s : State) : Res :=
  s.spdmReq (fun s => match s.hub.spdm.slot s.inp.idx with
    | some b =>
      let (s, n) := s.wait
      let x : Chal := ⟨s.inp.tag, s.inp.idx, s.hub.podTime.toNat, b, s.inp.wide, n⟩
      s.modHub (fun h => { h with spdm := { h.spdm with chal := h.spdm.chal ++ [x] } })
    | none => s.reply' spdmInvalid [])

/-- A held certificate write is applied. -/
def Spdm.apply (p : Spdm) (slot : Nat) : Spdm :=
  match mfind p.held slot with
  | some b => { p with slots := mset p.slots slot b, held := mdel p.held slot }
  | none => p

/-- The response to a challenge is sent: the SHA-512 of the slot's contents and the nonce, signed (log 66). A write held for its slot is applied when no other challenge names it. -/
def State.answer (s : State) (x : Chal) : State :=
  let body := sha512 x.cert ++ leBytes 32 x.nonce.toNat
  let s := s.send (.mgmt x.tag .ok (body ++ Config.slotSign x.slot body))
  s.modHub (fun h =>
    let p : Spdm := { h.spdm with chal := h.spdm.chal.filter (fun y => y != x) }
    { h with spdm := if p.chal.any (fun y => y.slot == x.slot) then p else p.apply x.slot })

/-- The values of the measurement registers named by an index (R59). -/
def Hub.measOf (h : Hub) (i : Nat) : Option (List Byte) :=
  let m (j : Nat) : List Byte := beBytes 64 (mget 0 h.meas j).toNat
  if i = 0xFF then some ((List.range 16).flatMap m) else if 1 ≤ i ∧ i ≤ 16 then some (m (i - 1)) else none

/-- GET_MEASUREMENTS (R59): index `Inp.idx`; signed with nonce `Inp.wide` when `Inp.ok`. -/
def execGetMeasurements (s : State) : Res :=
  s.spdmReq (fun s => match s.hub.measOf s.inp.idx with
    | some b => s.reply' .ok (if s.inp.ok then b ++ Config.sign (b ++ leBytes 32 s.inp.wide.toNat) else b)
    | none => s.reply' spdmInvalid [])

/-- SPDM_UNSUPPORTED_REQUEST (R59). -/
def execSpdmUnsupportedRequest (s : State) : Res := s.spdmReq (fun s => s.reply' spdmUnsupported [])

/-- CERTIFICATE_SLOT_WRITE (R60): function 0 writes `Inp.data` to slot `Inp.idx`. -/
def execCertificateSlotWrite (s : State) : Res :=
  let n := s.inp.idx
  if s.hub.hif = 0 then .next (s.mgmtRefuse 5)
  else if s.inp.fn ≠ 0 then .next (s.mgmtRefuse 3)
  else if n = 0 ∨ 7 < n then .next (s.reply' spdmInvalid [])
  else
    let p := s.hub.spdm
    let p := if p.chal.any (fun x => x.slot == n) then { p with held := mset p.held n s.inp.data } else { p with slots := mset p.slots n s.inp.data }
    .next ((s.modHub (fun h => { h with spdm := p })).reply' .ok [])

/-- CERTIFICATE_WRITE_DEFERRAL_EXPIRY (R60): of slot `Inp.idx`. -/
def execCertificateWriteDeferralExpiry (s : State) : Res :=
  let n := s.inp.idx
  let p := s.hub.spdm
  let has := (mfind p.held n).isSome
  if has ∧ p.chal.any (fun x => x.slot == n && x.time + 100000000 ≤ s.hub.podTime.toNat) then
    .next (s.modHub (fun h => { h with spdm := h.spdm.apply n }))
  else .fault .notEnabled

/-- HMAC-SHA-512 with the image key (R248; the standard's construction, log 8). -/
def imgTag (b : List Byte) : List Byte :=
  let key := padTo 128 (leBytes 64 Config.sealKey.toNat)
  sha512 (key.map (· ^^^ 0x5C) ++ sha512 (key.map (· ^^^ 0x36) ++ b ++ leBytes 16 Config.deviceSerial.toNat))

/-- The gate of the messages of R249: function 0, in READY or RUN, one at a time. -/
def State.imgMsg (s : State) (f : State → State × Nat × List Byte) : Res :=
  if s.hub.hif ≠ 2 ∧ s.hub.hif ≠ 3 then .next (s.mgmtRefuse 5)
  else if s.inp.fn ≠ 0 then .next (s.mgmtRefuse 3)
  else if s.hub.imgRep.isSome then .next (s.reply' .busy [])
  else
    let (s', k, d) := f s
    let (s', n) := s'.wait
    .next (s'.modHub (fun h => { h with imgRep := some ⟨s.inp.tag, k, d, n⟩ }))

def State.imgEntry (s : State) : List Byte := rdBs s.hostMem s.inp.addr.toNat s.inp.len

/-- IMGSEAL (R249): the entry without TAG is `Inp.len` bytes at host address `Inp.addr`. -/
def execImgseal (s : State) : Res := s.imgMsg (fun s => (s, 1, imgTag s.imgEntry))

/-- IMGCHECK (R249): the whole entry is `Inp.len` bytes at host address `Inp.addr`. -/
def execImgcheck (s : State) : Res :=
  s.imgMsg (fun s =>
    let b := s.imgEntry
    let n := b.length - 64
    (s, if 64 ≤ b.length ∧ b.drop n = imgTag (b.take n) then 2 else 3, []))

/-- The instruction caches of a world's cores are invalidated: unlocked lines go, locked ones are refetched (R146, R249). -/
def State.icInvalidateW (s : State) (w : BitVec 10) : State :=
  let hit := s.cores.filter (fun e => e.2.runsIn w || e.2.lastWorld == some w)
  hit.foldl (fun s e =>
    let lines := (e.2.icache.map (·.1)).filter (fun l => e.2.ilocked l)
    let s := s.modCore e.1 (fun k => { k with icache := [] })
    lines.foldl (fun s l => (s.fetchLine e.1 l w.toNat).1) s) s

/-- ICINVW (R249): of the world `Inp.idx`. -/
def execIcinvw (s : State) : Res :=
  if s.hub.imgRep.isNone ∧ s.inp.fn = 0 ∧ (s.hub.hif = 2 ∨ s.hub.hif = 3) ∧ 1023 < s.inp.idx then .next (s.reply' .badWorld [])
  else s.imgMsg (fun s => (s.icInvalidateW (BitVec.ofNat 10 s.inp.idx), 4, []))

end Sys2Proof.Machine
end

