-- ==== Sys2Proof/Machine/Paging.lean ====
section
/-! DEFINITION. The fault ring and the paging service's completions (10 R206-R210), and its TLB invalidation (07 R126). -/

namespace Sys2Proof.Machine

/-- The bytes of a fault entry (R206); the waiter count is that of all its waiters (log 30). -/
def FaultEnt.bytes (e : FaultEnt) : List Byte :=
  leBytes 4 e.seq.toNat ++ leBytes 2 e.world.toNat ++ leBytes 2 e.flags ++ leBytes 8 e.va.toNat ++ leBytes 8 e.time
    ++ leBytes 2 e.waiters.length ++ leBytes 6 0

/-- An entry's place in the ring, written whole. -/
def State.faultWr (s : State) (e : FaultEnt) : State :=
  s.rawWr (s.normPa s.hub.fqbase.toNat + 32 * ((e.seq.toNat + 2 ^ 32 - 1) % 4096)) e.bytes

/-- Whether the next entry can be written (R210). -/
def Hub.fqRoom (h : Hub) : Bool := h.fqset && h.faults.all (fun e => e.seq + 4096 != h.fqhead + 1)

/-- An entry is written, then FQHEAD raised and the hub general cores signalled (R210). -/
def State.fqPut (s : State) (e : FaultEnt) : State :=
  let e := { e with seq := s.hub.fqhead + 1 }
  ((s.faultWr e).modHub (fun h => { h with faults := h.faults ++ [e], fqhead := e.seq })).send .hubIrq

/-- Faults that wait at the hub take entries as they come free (R207); `fuel` bounds them. -/
def State.fqPump (s : State) : Nat → State
  | 0 => s
  | fuel + 1 => match s.hub.fwait with
    | e :: rest => if s.hub.fqRoom then ((s.modHub (fun h => { h with fwait := rest })).fqPut e).fqPump fuel else s
    | [] => s

/-- Whether a waiter of a fault entry does wait: a core in a captured PAGE stop, an engine, a port's unit, a hub write. -/
def State.waits (s : State) (w : Nat × Nat) : Bool :=
  let k := s.core w.1
  if w.2 = 0 then !k.hmode && (match k.stop with | some st => st.written && st.r.cause == 7 | none => false)
  else if w.2 < 3 then (k.eng (w.2 - 1)).page
  else if w.2 = 8 then (match s.opb w.1 with | some o => o.page.isSome | none => false)
  else (match mfind k.ports (w.2 - 4) with | some p => p.wait | none => false)

/-- FAULT_ENQUEUE (R206, R207): of a page of a world; `Inp.idx` is the waiter's kind, `Inp.core` or `Inp.idx2` its number, `Inp.addr` the
address, `Inp.val` the flags. A fault on a page that has an entry is merged with it. -/
def execFaultEnqueue (s : State) : Res :=
  let i := s.inp
  let w : Nat × Nat := (if i.idx = 8 then i.idx2 else i.core.toNat, i.idx)
  let world := if i.idx = 8 then i.world else (s.core i.core.toNat).world
  let va : Word := BitVec.ofNat 64 (i.addr.toNat / 65536 * 65536)
  let same (e : FaultEnt) : Bool := e.world == world && e.va == va
  if !s.waits w ∨ (s.hub.faults ++ s.hub.fwait).any (fun e => e.waiters.contains w) then .fault .notEnabled
  else match s.hub.faults.find? same with
  | some e =>
    let e' := { e with waiters := e.waiters ++ [w] }
    .next ((s.modHub (fun h => { h with faults := h.faults.map (fun x => if x == e then e' else x) })).faultWr e')
  | none =>
    if s.hub.fwait.any same then
      .next (s.modHub (fun h => { h with fwait := h.fwait.map (fun e => if same e then { e with waiters := e.waiters ++ [w] } else e) }))
    else
      let e : FaultEnt := ⟨0, world, i.val.toNat, va, s.hub.podTime.toNat, [w]⟩
      .next ((s.modHub (fun h => { h with fwait := h.fwait ++ [e] })).fqPump 1)

/-- A write to FQDONE (R208, R210): it frees the entry, then acts on each waiter. -/
def State.fqdone (s : State) (fail : Bool) (f : State → Nat × Nat → State) : Res :=
  let v := s.inp.val.toNat
  if tbit v 32 ≠ fail then .fault .notEnabled
  else .next (s.mmioWr 0xA0020 (fun s =>
    match (if 2 ^ 33 ≤ v then none else s.hub.faults.find? (fun e => e.seq.toNat == v % 2 ^ 32)) with
    | none => (s, 7)
    | some e =>
      let s := s.modHub (fun h => { h with faults := h.faults.filter (fun x => x.seq != e.seq) })
      let s := (e.waiters.filter s.waits).foldl f s
      (s.fqPump 4096, 0)))

/-- FQDONE_OK (R208): every waiter goes on: a core by a hardware RESUME of its bay, an engine or unit by trying again. -/
def execFqdoneOk (s : State) : Res :=
  s.fqdone false (fun s w =>
    if w.2 = 0 then s.resumeCore w.1
    else if w.2 < 3 then s.modCore w.1 (fun k => k.modEng (w.2 - 1) (fun e => { e with page := false }))
    else if w.2 = 8 then s.modOpb w.1 (fun o => { o with page := none })
    else s.modCore w.1 (fun k => match mfind k.ports (w.2 - 4) with
      | some p => { k with ports := mset k.ports (w.2 - 4) { p with wait := false } }
      | none => k))

/-- FQDONE_FAIL (R209, R409): every waiting core is contained, and every core whose engine or unit waits; a hub write is refused. -/
def execFqdoneFail (s : State) : Res :=
  s.fqdone true (fun s w =>
    if w.2 = 8 then
      match s.opb w.1 with
      | some o => s.opbRefused w.1 o (match o.page with | some a => a.toNat | none => 0) true
      | none => s
    else s.contain w.1 4 (if w.2 = 0 then 7 else 0))

/-- An access of a core that used a translation of these bytes and has not been performed. -/
def Core.usesPage (k : Core) (world : BitVec 10) (lo n : Nat) : Bool :=
  let hit (a m : Nat) : Bool := a < lo + n && lo < a + m
  (k.world == world && k.flights.any (fun f => f.space == .g && f.phase == .sent && hit f.ea.toNat (f.i.accSize f.vsh)))
    || k.wq.any (fun w => w.world == world && w.kind == 0 && hit w.va w.data.length)

/-- PAGING_TLB_INVALIDATION (R126): of `Inp.len` bytes from `Inp.addr` of world `Inp.world`; it completes once every access that used the old
entries has been performed. -/
def execPagingTlbInvalidation (s : State) : Res :=
  let lo := s.inp.addr.toNat
  let w := s.inp.world
  if s.cores.any (fun e => e.2.usesPage w lo s.inp.len) then .fault .notEnabled
  else
    let keep (e : TlbEnt) : Bool := !(e.world == w && e.va < lo + s.inp.len && lo < e.va + e.size)
    .next { s with
      cores := s.cores.map (fun e => (e.1, { e.2 with tlb := e.2.tlb.filter keep })),
      ltlb := s.ltlb.map (fun (e : Nat × List TlbEnt) => (e.1, e.2.filter keep)) }

end Sys2Proof.Machine
end

