-- ==== Sys2Proof/Machine/Debug.lean ====
section
/-! DEFINITION. Debug commands, breakpoints, the trace and the counters' registers (11 R211-R218). -/

namespace Sys2Proof.Machine

/-- A write of a debug command to DBGCMD (R211), for the core in DBGSEL. -/
def State.dbgCmd (s : State) (op : Nat) (f : State → Nat → State × Nat) : Res :=
  let v := s.inp.val.toNat
  if bits v 28 4 ≠ op then .fault .notEnabled
  else .next (s.mmioWr 0x70018 (fun s =>
    if mget 0 s.hub.dbgBusy s.dbgCore ≠ 0 then (s, 5)
    else if v % 2 ^ 28 ≠ 0 ∨ 2 ^ 32 ≤ v then (s, 7)
    else match f s s.dbgCore with
      | (t, 0) => (t.draw.modHub (fun h => { h with dbgBusy := mset h.dbgBusy s.dbgCore (Config.latency t.free) }), 0)
      | r => r))

/-- ATTACH (R211): refused for a sealed world's job. -/
def execAttach (s : State) : Res :=
  s.dbgCmd 1 (fun s c =>
    if (s.core c).runs ∧ (s.core c).world ≠ 0 then (s, 4) else (s.modCore c (fun k => { k with attached := true }), 0))

/-- RPSTAT (R222). -/
def rpstat (done err : Nat) (ovf busy : Bool) : BitVec 32 :=
  BitVec.ofNat 32 (done * 256 + err * 4 + (if ovf then 2 else 0) + (if busy then 1 else 0))

/-- The writes of a failing word are undone (R222). -/
def State.undo (s : State) (l : List (Nat × Byte)) : State := l.foldl (fun s e => s.rawWr e.1 [e.2]) s

/-- A replay ends with an ERR: its engine, and the kiln's banks, slots and registers, hold again what they held before; what links have
brought meanwhile stays (R221, R222). -/
def State.replayBack (s : State) (r : Replay) (err : Nat) : State :=
  let s := if err = 0 then s else s.undo r.undo
  let e := if r.kiln then 2 else r.eng
  let s := if !(s.core r.core).halted then s else s.modCore r.core (fun k =>
    { k.setEng e { r.saveE with chan := (k.eng e).chan, chFrom := (k.eng e).chFrom } with
      sys := { k.sys with srseed := r.seed, srcnt := r.cnt } })
  let s := if r.kiln then s.setKiln r.eng r.saveK else s
  (s.modHub (fun h => { h with replay := none })).modTrc (fun t => { t with rpstat := rpstat r.done err true false })

/-- A debugger's RESUME (R197, R211): a replay on the core, or on its cluster's kiln, ends first, since its cores are no longer
halted. -/
def State.dbgResume (s : State) (c : Nat) : State :=
  if !(s.core c).halted then s
  else match s.hub.replay with
    | some r => (if (if r.kiln then kilnOf c = r.eng else c = r.core) then s.replayBack r 1 else s).resumeCore c
    | none => s.resumeCore c

/-- DETACH (R211): the breakpoints go, and a halted core goes on. -/
def execDetach (s : State) : Res :=
  s.dbgCmd 2 (fun s c =>
    if !(s.core c).attached then (s, 5)
    else ((s.modCore c (fun k => { k with attached := false, bps := [], bpskip := [], hreq := false })).dbgResume c, 0))

/-- DEBUG_HALT (R211): HALTREQ is raised on the next edge, or when the core's hold ends. -/
def execDebugHalt (s : State) : Res :=
  s.dbgCmd 3 (fun s c =>
    if !(s.core c).attached ∨ (s.core c).halted then (s, 5) else (s.modCore c (fun k => { k with hreq := true }), 0))

/-- DEBUG_RESUME (R211): an altered bay that fails validation contains the core. -/
def execDebugResume (s : State) : Res :=
  s.dbgCmd 4 (fun s c => if !(s.core c).halted then (s, 5) else (s.dbgResume c, 0))

/-- What COPYOUT writes: the bay, v0-v63 by physical index, f0-f63 (R211). -/
def Core.copyBytes (k : Core) : List Byte :=
  rdBs k.bay 0 65536 ++ (List.range 64).flatMap (fun v => leBytes 2048 (k.rv v).toNat)
    ++ (List.range 64).flatMap (fun f => leBytes 4 (k.flag f).toNat)

/-- Such bytes back into the core. -/
def Core.copyIn (k : Core) (b : List Byte) : Core :=
  let vb := b.drop 65536
  let fb := vb.drop 131072
  { k with
    bay := wrBs k.bay 0 (b.take 65536),
    v := (List.range 64).foldl (fun m v => mput 0 m v (BitVec.ofNat 16384 (leNat ((vb.drop (2048 * v)).take 2048)))) k.v,
    flags := (List.range 64).foldl (fun m f => mput 0 m f (BitVec.ofNat 32 (leNat ((fb.drop (4 * f)).take 4)))) k.flags }

/-- COPYOUT (R211). -/
def execCopyout (s : State) : Res :=
  s.dbgCmd 5 (fun s c =>
    if !(s.core c).halted then (s, 5) else (s.rawWr (s.normPa s.hub.trc.buf.toNat) (s.core c).copyBytes, 0))

/-- COPYIN (R211). -/
def execCopyin (s : State) : Res :=
  s.dbgCmd 6 (fun s c =>
    if !(s.core c).halted then (s, 5)
    else
      let b := s.rawRd (s.normPa s.hub.trc.buf.toNat) 196864
      (s.modCore c (fun k => k.copyIn b), 0))

/-- BREAKPOINT_WRITE (R212): `Inp.val` is written at offset `Inp.addr`, to a breakpoint of the core in DBGSEL. -/
def execBreakpointWrite (s : State) : Res :=
  let off := s.inp.addr.toNat
  let v := s.inp.val.toNat
  let put (i : Nat) (bad : Bool) (f : Bp → Bp) : Res :=
    .next (s.mmioWr off (fun s =>
      let c := s.dbgCore
      if !(s.core c).attached then (s, 5) else if bad then (s, 7)
      else (s.modCore c (fun k => { k with bps := mset k.bps i (f (mget {} k.bps i)), bpskip := k.bpskip.filter (· != i) }), 0)))
  match regAt off s.inp.len with
  | some (.bpctl i) =>
    put i (bits v 0 25 != 0 || 5 ≤ bits v 28 3 || (bits v 28 3 == 0 && 6 ≤ bits v 25 3) || 2 ^ 32 ≤ v)
      (fun b => { b with ctl := BitVec.ofNat 32 v })
  | some (.bpval i) => put i false (fun b => { b with val := s.inp.val })
  | _ => .fault .notEnabled

/-- TRCTL_WRITE (R214): `Inp.val` is written to TRCTL; setting EN starts the buffer afresh. -/
def execTrctlWrite (s : State) : Res :=
  .next (s.mmioWr 0x70120 (fun s =>
    let v := s.inp.val.toNat
    let t := s.hub.trc
    if bits v 24 5 ≠ 0 ∨ bits v 16 4 ≠ 0 ∨ 2 ^ 32 ≤ v then (s, 7)
    else
      let full := tbit t.ctl.toNat 29 && !tbit v 29
      let ctl := BitVec.ofNat 32 (setBits v 29 1 (if full then 1 else 0))
      let start := tbit v 31 && !tbit t.ctl.toNat 31
      (s.modTrc (fun t => if start then { t with ctl := ctl, wr := 0, rd := 0, seq := 0 } else { t with ctl := ctl }), 0)))

/-- CNTVAL_WRITE (R217, R218): a write of any value clears the selected counter. -/
def execCntvalWrite (s : State) : Res :=
  .next (s.mmioWr 0x70138 (fun s =>
    let i := s.cntIdx
    (if i = 8 then s.modHub (fun h => { h with fqfull := 0, fqclr := true })
      else s.modCore s.cntCore (fun k => { k with ctr := mdel k.ctr i, cclr := i :: k.cclr }), 0)))

/-- Stream states of Table 10-2, L to M. -/
def Core.streamStates (k : Core) : List Byte :=
  leBytes 1 k.cl.stCode ++ leBytes 1 k.ck.stCode ++ leBytes 1 k.cs.stCode ++ leBytes 1 k.e0.st.code ++ leBytes 1 k.e1.st.code
    ++ leBytes 1 k.em.st.code

/-- A SAMPLE record of a core is due in its SCYC (R214). -/
def State.sampleDue (s : State) (c : Nat) : Bool :=
  let t := s.hub.trc
  let p := bits t.ctl.toNat 0 16
  t.mask.getLsbD c && p != 0 && (s.core c).scyc.toNat % (256 * p) == 0

/-- TRACE_SAMPLE (R213, R214): of core `Inp.core`; a sealed world's PCs are zero. -/
def execTraceSample (s : State) : Res :=
  let c := s.inp.core.toNat
  let k := s.core c
  if s.sampleDue c ∧ k.runs then
    let pc (w : Word) : List Byte := leBytes 8 (if k.world = 0 then w.toNat else 0)
    .next (s.trace 21 3 c k.scyc.toNat 0 0 (pc k.cl.pc ++ pc k.ck.pc ++ pc k.cs.pc ++ k.streamStates ++ leBytes 2 0))
  else .fault .notEnabled

end Sys2Proof.Machine
end

