-- ==== Sys2Proof/Machine/ReplayRun.lean ====
section
/-! DEFINITION. Single-engine replay (11 R220-R222): its start, and its end. The words in between run one cycle at a time from
Issue. -/

namespace Sys2Proof.Machine

/-- A window of the table (R220). -/
def winOf (b : List Byte) : Win :=
  { va := fld b 0 8, buf := fld b 8 8, scale := fld b 0x10 8, len := fld b 0x18 6, tag := fld b 0x1E 1, bps := fld b 0x1F 1 }
def Win.ok (w : Win) : Bool := (w.tag ≤ 13 || w.tag == 15) && w.bps ≤ 2

/-- A replay descriptor is valid (R220). -/
def rpDescOk (d : List Byte) : Bool :=
  let kind := fld d 5 1
  fld d 0 4 == 0x50524C50 && fld d 4 1 == 1 && kind ≤ 1 && fld d 6 2 < (if kind = 0 then 1024 else 128) && fld d 8 8 % 8 == 0
    && 1 ≤ fld d 0x10 4 && fld d 0x10 4 ≤ 2 ^ 20 && 1 ≤ fld d 0x14 1 && fld d 0x14 1 ≤ 16 && fld d 0x15 1 < 2 && fld d 0x16 2 == 0
    && fld d 0x48 8 == 0 && (kind == 1 || fld d 0x28 8 == 0)

/-- The core is halted on a world-0 job (R221). -/
def Core.replayable (k : Core) : Bool := k.halted && k.job.isSome && k.world == 0

/-- REPLAY_START (R220, R221): `Inp.val` is written to RPDESC. -/
def execReplayStart (s : State) : Res :=
  .next (s.mmioWr 0x70180 (fun s =>
    let rd (a n : Nat) : List Byte := s.rawRd (s.normPa a) n
    let a := s.inp.val.toNat
    let d := rd a 80
    let fail (e : Nat) : State × Nat := (s.modTrc (fun t => { t with rpstat := rpstat 0 e true false }), 0)
    let wins := (List.range (fld d 0x14 1)).map (fun j => winOf (rd (fld d 0x20 8 + 32 * j) 32))
    if s.hub.replay.isSome then (s, 5)
    else if a % 16 ≠ 0 ∨ !rpDescOk d ∨ !wins.all Win.ok then fail 2
    else
      let kiln := fld d 5 1 == 1
      let id := fld d 6 2
      let c := if kiln then 4 * id else id / 2
      let e := if kiln then 2 else id % 2
      let able : Bool :=
        if kiln then (List.range 4).all (fun j => (s.core (4 * id + j)).replayable) && (s.kiln id).holder.isNone
        else (s.core c).replayable && !((s.core c).eng e).st.isRun
      if !able then fail 1
      else
        let k := s.core c
        let kl := s.kiln id
        let r : Replay := {
          kiln := kiln, core := c, eng := if kiln then id else e, words := fld d 8 8, nwords := fld d 0x10 4, wins := wins,
          saveE := k.eng e, saveK := if kiln then kl else {}, cnt := k.sys.srcnt, seed := k.sys.srseed }
        let regs := (List.range 16).foldl (fun m j => mput 0 m j (BitVec.ofNat 64 (leNat (rd (fld d 0x18 8 + 8 * j) 8)))) ([] : Map Word)
        let eng : Eng := { pc := BitVec.ofNat 64 r.words, st := .running, r := regs }
        let s := s.modCore c (fun k => { k.setEng e eng with
          sys := { k.sys with srseed := BitVec.ofNat 32 (fld d 0x40 4), srcnt := BitVec.ofNat 32 (fld d 0x44 4) } })
        let s := if !kiln then s else s.setKiln id { kl with
          b0 := {}, b1 := {}, ptr := 0, drain := none, status := 0, opens := 0, rets := 0, reg := [], tf := [], tfNew := {}, ending := 0,
          checked := [], ovr := tbit (fld d 0x15 1) 0,
          ltab := (List.range 4).map (fun j => (j, BitVec.ofNat 32 (fld d (0x30 + 4 * j) 4))),
          slots := (List.range 8).map (fun j => (j, slotWords (rd (fld d 0x28 8 + 128 * j) 128))) }
        ((s.modHub (fun h => { h with replay := some r })).modTrc (fun t => { t with rpstat := rpstat 0 0 false true }), 0)))

/-- REPLAY_END (R221, R222): the replay has run its course; what it used holds again what it held before. -/
def execReplayEnd (s : State) : Res :=
  match s.hub.replay with
  | none => .fault .notEnabled
  | some r => match r.fin with
    | none => .fault .notEnabled
    | some err => .next (s.replayBack r err)

end Sys2Proof.Machine
end

