-- ==== Sys2Proof/Machine/Dispatch.lean ====
section
/-! DEFINITION. One arm per constructor of Instr: the call of its meaning. -/

namespace Sys2Proof.Machine

def exec (i : Instr) (s : State) : Host.Outcome State Fault Refusal :=
  match i with
  | .add o => Sys2Proof.Machine.execAdd o s
  | .sub o => Sys2Proof.Machine.execSub o s
  | .and o => Sys2Proof.Machine.execAnd o s
  | .or o => Sys2Proof.Machine.execOr o s
  | .xor o => Sys2Proof.Machine.execXor o s
  | .andn o => Sys2Proof.Machine.execAndn o s
  | .shl o => Sys2Proof.Machine.execShl o s
  | .shr o => Sys2Proof.Machine.execShr o s
  | .sra o => Sys2Proof.Machine.execSra o s
  | .rotr o => Sys2Proof.Machine.execRotr o s
  | .mul o => Sys2Proof.Machine.execMul o s
  | .mulh o => Sys2Proof.Machine.execMulh o s
  | .mulhu o => Sys2Proof.Machine.execMulhu o s
  | .div o => Sys2Proof.Machine.execDiv o s
  | .divu o => Sys2Proof.Machine.execDivu o s
  | .rem o => Sys2Proof.Machine.execRem o s
  | .remu o => Sys2Proof.Machine.execRemu o s
  | .min o => Sys2Proof.Machine.execMin o s
  | .max o => Sys2Proof.Machine.execMax o s
  | .minu o => Sys2Proof.Machine.execMinu o s
  | .maxu o => Sys2Proof.Machine.execMaxu o s
  | .seq o => Sys2Proof.Machine.execSeq o s
  | .sne o => Sys2Proof.Machine.execSne o s
  | .slt o => Sys2Proof.Machine.execSlt o s
  | .sltu o => Sys2Proof.Machine.execSltu o s
  | .sel o xc => Sys2Proof.Machine.execSel o xc s
  | .clz o => Sys2Proof.Machine.execClz o s
  | .ctz o => Sys2Proof.Machine.execCtz o s
  | .popc o => Sys2Proof.Machine.execPopc o s
  | .bfx o sx pos len1 => Sys2Proof.Machine.execBfx o sx pos len1 s
  | .bfi o pos len1 => Sys2Proof.Machine.execBfi o pos len1 s
  | .addi o => Sys2Proof.Machine.execAddi o s
  | .andi o => Sys2Proof.Machine.execAndi o s
  | .ori o => Sys2Proof.Machine.execOri o s
  | .xori o => Sys2Proof.Machine.execXori o s
  | .shli o => Sys2Proof.Machine.execShli o s
  | .shri o => Sys2Proof.Machine.execShri o s
  | .srai o => Sys2Proof.Machine.execSrai o s
  | .muli o => Sys2Proof.Machine.execMuli o s
  | .slti o => Sys2Proof.Machine.execSlti o s
  | .sltui o => Sys2Proof.Machine.execSltui o s
  | .seqi o => Sys2Proof.Machine.execSeqi o s
  | .li xd imm => Sys2Proof.Machine.execLi xd imm s
  | .lic o => Sys2Proof.Machine.execLic o s
  | .addpc xd imm => Sys2Proof.Machine.execAddpc xd imm s
  | .lea o n d => Sys2Proof.Machine.execLea o n d s
  | .br off => Sys2Proof.Machine.execBr off s
  | .brz xa off => Sys2Proof.Machine.execBrz xa off s
  | .brnz xa off => Sys2Proof.Machine.execBrnz xa off s
  | .brlt xa xb off => Sys2Proof.Machine.execBrlt xa xb off s
  | .brge xa xb off => Sys2Proof.Machine.execBrge xa xb off s
  | .brltu xa xb off => Sys2Proof.Machine.execBrltu xa xb off s
  | .brgeu xa xb off => Sys2Proof.Machine.execBrgeu xa xb off s
  | .jr xa => Sys2Proof.Machine.execJr xa s
  | .call off => Sys2Proof.Machine.execCall off s
  | .brlc o => Sys2Proof.Machine.execBrlc o s
  | .loop xa len => Sys2Proof.Machine.execLoop xa len s
  | .loopm xa ns1 ii1 => Sys2Proof.Machine.execLoopm xa ns1 ii1 s
  | .qpush q xa => Sys2Proof.Machine.execQpush q xa s
  | .qpop xd q => Sys2Proof.Machine.execQpop xd q s
  | .qpeek xd q => Sys2Proof.Machine.execQpeek xd q s
  | .fset os f xa => Sys2Proof.Machine.execFset os f xa s
  | .finc os f xa xb => Sys2Proof.Machine.execFinc os f xa xb s
  | .fwait xd f xb => Sys2Proof.Machine.execFwait xd f xb s
  | .safept idx => Sys2Proof.Machine.execSafept idx s
  | .gbar xd g => Sys2Proof.Machine.execGbar xd g s
  | .gred op xd g xb xc => Sys2Proof.Machine.execGred op xd g xb xc s
  | .gstep xd g => Sys2Proof.Machine.execGstep xd g s
  | .launch o => Sys2Proof.Machine.execLaunch o s
  | .mwait xd => Sys2Proof.Machine.execMwait xd s
  | .fork xd g xb => Sys2Proof.Machine.execFork xd g xb s
  | .sreward o => Sys2Proof.Machine.execSreward o s
  | .sgwait xd g => Sys2Proof.Machine.execSgwait xd g s
  | .sgcancel xd g xb => Sys2Proof.Machine.execSgcancel xd g xb s
  | .sginfo xd g sel => Sys2Proof.Machine.execSginfo xd g sel s
  | .tscore o => Sys2Proof.Machine.execTscore o s
  | .tgrow o => Sys2Proof.Machine.execTgrow o s
  | .tinfo xd sel => Sys2Proof.Machine.execTinfo xd sel s
  | .klease xd => Sys2Proof.Machine.execKlease xd s
  | .krel xd => Sys2Proof.Machine.execKrel xd s
  | .kstart o => Sys2Proof.Machine.execKstart o s
  | .cstart o e => Sys2Proof.Machine.execCstart o e s
  | .estop xd sel => Sys2Proof.Machine.execEstop xd sel s
  | .estat xd sel => Sys2Proof.Machine.execEstat xd sel s
  | .flueld o slot => Sys2Proof.Machine.execFlueld o slot s
  | .rds xd n => Sys2Proof.Machine.execRds xd n s
  | .wrs n xa => Sys2Proof.Machine.execWrs n xa s
  | .trap imm => Sys2Proof.Machine.execTrap imm s
  | .icinv xd scope => Sys2Proof.Machine.execIcinv xd scope s
  | .iclock o => Sys2Proof.Machine.execIclock o s
  | .icunlk xa xb => Sys2Proof.Machine.execIcunlk xa xb s
  | .split n => Sys2Proof.Machine.execSplit n s
  | .bkpt imm => Sys2Proof.Machine.execBkpt imm s
  | .ldb o => Sys2Proof.Machine.execLdb o s
  | .ldbu o => Sys2Proof.Machine.execLdbu o s
  | .ldh o => Sys2Proof.Machine.execLdh o s
  | .ldhu o => Sys2Proof.Machine.execLdhu o s
  | .ldw o => Sys2Proof.Machine.execLdw o s
  | .ldwu o => Sys2Proof.Machine.execLdwu o s
  | .ldd o => Sys2Proof.Machine.execLdd o s
  | .stb o => Sys2Proof.Machine.execStb o s
  | .sth o => Sys2Proof.Machine.execSth o s
  | .stw o => Sys2Proof.Machine.execStw o s
  | .std o => Sys2Proof.Machine.execStd o s
  | .ldq q m => Sys2Proof.Machine.execLdq q m s
  | .pref l2 xbase xpol disp => Sys2Proof.Machine.execPref l2 xbase xpol disp s
  | .ldv v m => Sys2Proof.Machine.execLdv v m s
  | .stv v m => Sys2Proof.Machine.execStv v m s
  | .ldp p m => Sys2Proof.Machine.execLdp p m s
  | .stp p m => Sys2Proof.Machine.execStp p m s
  | .bind wr n m => Sys2Proof.Machine.execBind wr n m s
  | .unbind n => Sys2Proof.Machine.execUnbind n s
  | .spstat xd n => Sys2Proof.Machine.execSpstat xd n s
  | .aadd o => Sys2Proof.Machine.execAadd o s
  | .aand o => Sys2Proof.Machine.execAand o s
  | .aor o => Sys2Proof.Machine.execAor o s
  | .axor o => Sys2Proof.Machine.execAxor o s
  | .amin o => Sys2Proof.Machine.execAmin o s
  | .amax o => Sys2Proof.Machine.execAmax o s
  | .aminu o => Sys2Proof.Machine.execAminu o s
  | .amaxu o => Sys2Proof.Machine.execAmaxu o s
  | .aswap o => Sys2Proof.Machine.execAswap o s
  | .acas o => Sys2Proof.Machine.execAcas o s
  | .afadd o => Sys2Proof.Machine.execAfadd o s
  | .afmax o => Sys2Proof.Machine.execAfmax o s
  | .fence os => Sys2Proof.Machine.execFence os s
  | .syncg scope => Sys2Proof.Machine.execSyncg scope s
  | .cinv scope xbase xlen disp => Sys2Proof.Machine.execCinv scope xbase xlen disp s
  | .vadd o => Sys2Proof.Machine.execVadd o s
  | .vsub o => Sys2Proof.Machine.execVsub o s
  | .vmul o => Sys2Proof.Machine.execVmul o s
  | .vfma o => Sys2Proof.Machine.execVfma o s
  | .vfms o => Sys2Proof.Machine.execVfms o s
  | .vfnma o => Sys2Proof.Machine.execVfnma o s
  | .vmin o => Sys2Proof.Machine.execVmin o s
  | .vmax o => Sys2Proof.Machine.execVmax o s
  | .vabs o => Sys2Proof.Machine.execVabs o s
  | .vneg o => Sys2Proof.Machine.execVneg o s
  | .vdiv o => Sys2Proof.Machine.execVdiv o s
  | .vsqrt o => Sys2Proof.Machine.execVsqrt o s
  | .vrcp o => Sys2Proof.Machine.execVrcp o s
  | .vrsq o => Sys2Proof.Machine.execVrsq o s
  | .vexp2 o => Sys2Proof.Machine.execVexp2 o s
  | .vlog2 o => Sys2Proof.Machine.execVlog2 o s
  | .vtanh o => Sys2Proof.Machine.execVtanh o s
  | .vsigm o => Sys2Proof.Machine.execVsigm o s
  | .vrnd o => Sys2Proof.Machine.execVrnd o s
  | .vclass o => Sys2Proof.Machine.execVclass o s
  | .viadd o => Sys2Proof.Machine.execViadd o s
  | .visub o => Sys2Proof.Machine.execVisub o s
  | .vimul24 o => Sys2Proof.Machine.execVimul24 o s
  | .vimulh24 o => Sys2Proof.Machine.execVimulh24 o s
  | .vimul32 o => Sys2Proof.Machine.execVimul32 o s
  | .vimulh32 o => Sys2Proof.Machine.execVimulh32 o s
  | .vimac24 o => Sys2Proof.Machine.execVimac24 o s
  | .vimin o => Sys2Proof.Machine.execVimin o s
  | .vimax o => Sys2Proof.Machine.execVimax o s
  | .viabs o => Sys2Proof.Machine.execViabs o s
  | .vand o => Sys2Proof.Machine.execVand o s
  | .vor o => Sys2Proof.Machine.execVor o s
  | .vxor o => Sys2Proof.Machine.execVxor o s
  | .vshl o => Sys2Proof.Machine.execVshl o s
  | .vshr o => Sys2Proof.Machine.execVshr o s
  | .vsra o => Sys2Proof.Machine.execVsra o s
  | .vrshr o => Sys2Proof.Machine.execVrshr o s
  | .vsat o tfmt => Sys2Proof.Machine.execVsat o tfmt s
  | .viadds o => Sys2Proof.Machine.execViadds o s
  | .vcmp pd cond o => Sys2Proof.Machine.execVcmp pd cond o s
  | .vsel o => Sys2Proof.Machine.execVsel o s
  | .pand pd pa pb => Sys2Proof.Machine.execPand pd pa pb s
  | .por pd pa pb => Sys2Proof.Machine.execPor pd pa pb s
  | .pxor pd pa pb => Sys2Proof.Machine.execPxor pd pa pb s
  | .pnot pd pa => Sys2Proof.Machine.execPnot pd pa s
  | .vcvt o dfmt => Sys2Proof.Machine.execVcvt o dfmt s
  | .vpack o dfmt => Sys2Proof.Machine.execVpack o dfmt s
  | .vunpk o hi dfmt => Sys2Proof.Machine.execVunpk o hi dfmt s
  | .vqmx o dfmt => Sys2Proof.Machine.execVqmx o dfmt s
  | .vdqmx o dfmt => Sys2Proof.Machine.execVdqmx o dfmt s
  | .vmov o => Sys2Proof.Machine.execVmov o s
  | .vbrd o col k => Sys2Proof.Machine.execVbrd o col k s
  | .vredr o op => Sys2Proof.Machine.execVredr o op s
  | .vredc o op => Sys2Proof.Machine.execVredc o op s
  | .vtrn o => Sys2Proof.Machine.execVtrn o s
  | .vrotc o k => Sys2Proof.Machine.execVrotc o k s
  | .vshc o k => Sys2Proof.Machine.execVshc o k s
  | .vgath o => Sys2Proof.Machine.execVgath o s
  | .vsetsh x => Sys2Proof.Machine.execVsetsh x s
  | .viota o => Sys2Proof.Machine.execViota o s
  | .cnop n => Sys2Proof.Machine.execCnop n s
  | .csetl w => Sys2Proof.Machine.execCsetl w s
  | .cseth w => Sys2Proof.Machine.execCseth w s
  | .cadv w => Sys2Proof.Machine.execCadv w s
  | .cshape w => Sys2Proof.Machine.execCshape w s
  | .cmove w => Sys2Proof.Machine.execCmove w s
  | .cbox w => Sys2Proof.Machine.execCbox w s
  | .cgath w => Sys2Proof.Machine.execCgath w s
  | .cscat w => Sys2Proof.Machine.execCscat w s
  | .cfill w => Sys2Proof.Machine.execCfill w s
  | .cred w => Sys2Proof.Machine.execCred w s
  | .csend w => Sys2Proof.Machine.execCsend w s
  | .crecv w => Sys2Proof.Machine.execCrecv w s
  | .csig os f n => Sys2Proof.Machine.execCsig os f n s
  | .cwait os r f n => Sys2Proof.Machine.execCwait os r f n s
  | .csync os rdv n => Sys2Proof.Machine.execCsync os rdv n s
  | .cloop w => Sys2Proof.Machine.execCloop w s
  | .cend n => Sys2Proof.Machine.execCend n s
  | .knop n => Sys2Proof.Machine.execKnop n s
  | .ksetl w => Sys2Proof.Machine.execKsetl w s
  | .kseth w => Sys2Proof.Machine.execKseth w s
  | .kfmt f n => Sys2Proof.Machine.execKfmt f n s
  | .ktile r n => Sys2Proof.Machine.execKtile r n s
  | .kzero n => Sys2Proof.Machine.execKzero n s
  | .kldc w => Sys2Proof.Machine.execKldc w s
  | .kmma w => Sys2Proof.Machine.execKmma w s
  | .kdrain w => Sys2Proof.Machine.execKdrain w s
  | .kswap n => Sys2Proof.Machine.execKswap n s
  | .ksig os f n => Sys2Proof.Machine.execKsig os f n s
  | .kwait os r f n => Sys2Proof.Machine.execKwait os r f n s
  | .ksync w => Sys2Proof.Machine.execKsync w s
  | .kloop w => Sys2Proof.Machine.execKloop w s
  | .kend n => Sys2Proof.Machine.execKend n s
  | .fld d f j => Sys2Proof.Machine.execFld d f j s
  | .fadd o => Sys2Proof.Machine.execFadd o s
  | .fmul o => Sys2Proof.Machine.execFmul o s
  | .ffma o => Sys2Proof.Machine.execFfma o s
  | .fmax o => Sys2Proof.Machine.execFmax o s
  | .fmin o => Sys2Proof.Machine.execFmin o s
  | .fbias o => Sys2Proof.Machine.execFbias o s
  | .fscale o n => Sys2Proof.Machine.execFscale o n s
  | .fact o t => Sys2Proof.Machine.execFact o t s
  | .fclamp o => Sys2Proof.Machine.execFclamp o s
  | .fq d a r f => Sys2Proof.Machine.execFq d a r f s
  | .fst a k j r f => Sys2Proof.Machine.execFst a k j r f s
  | .fstat d a op => Sys2Proof.Machine.execFstat d a op s
  | .scNop => Sys2Proof.Machine.execScNop s
  | .lexit => Sys2Proof.Machine.execLexit s
  | .rdv => Sys2Proof.Machine.execRdv s
  | .tyield => Sys2Proof.Machine.execTyield s
  | .resume => Sys2Proof.Machine.execResume s
  | .halt => Sys2Proof.Machine.execHalt s
  | .genbump => Sys2Proof.Machine.execGenbump s
  | .mcNop => Sys2Proof.Machine.execMcNop s
  | .rcfence => Sys2Proof.Machine.execRcfence s
  | .vnop => Sys2Proof.Machine.execVnop s
  | .fnop => Sys2Proof.Machine.execFnop s
  | .fend => Sys2Proof.Machine.execFend s
  | .coldReset => Sys2Proof.Machine.execColdReset s
  | .warmReset => Sys2Proof.Machine.execWarmReset s
  | .resetStepComplete => Sys2Proof.Machine.execResetStepComplete s
  | .resetStepTimeout => Sys2Proof.Machine.execResetStepTimeout s
  | .moduleTrip => Sys2Proof.Machine.execModuleTrip s
  | .throttleDown => Sys2Proof.Machine.execThrottleDown s
  | .throttleUp => Sys2Proof.Machine.execThrottleUp s
  | .eccUncorrectableError => Sys2Proof.Machine.execEccUncorrectableError s
  | .podTimeOffsetMeasure => Sys2Proof.Machine.execPodTimeOffsetMeasure s
  | .hostMemoryWrite => Sys2Proof.Machine.execHostMemoryWrite s
  | .hostMemoryRead => Sys2Proof.Machine.execHostMemoryRead s
  | .registerWrite => Sys2Proof.Machine.execRegisterWrite s
  | .blkctlWrite => Sys2Proof.Machine.execBlkctlWrite s
  | .ptstatWrite => Sys2Proof.Machine.execPtstatWrite s
  | .moduleHostReadTimeout => Sys2Proof.Machine.execModuleHostReadTimeout s
  | .ualinkPortFail => Sys2Proof.Machine.execUalinkPortFail s
  | .ualinkDeliveryTimeout => Sys2Proof.Machine.execUalinkDeliveryTimeout s
  | .peerModuleRequest => Sys2Proof.Machine.execPeerModuleRequest s
  | .summary => Sys2Proof.Machine.execSummary s
  | .getVersion => Sys2Proof.Machine.execGetVersion s
  | .getCapabilities => Sys2Proof.Machine.execGetCapabilities s
  | .negotiateAlgorithms => Sys2Proof.Machine.execNegotiateAlgorithms s
  | .getDigests => Sys2Proof.Machine.execGetDigests s
  | .getCertificate => Sys2Proof.Machine.execGetCertificate s
  | .challenge => Sys2Proof.Machine.execChallenge s
  | .getMeasurements => Sys2Proof.Machine.execGetMeasurements s
  | .spdmUnsupportedRequest => Sys2Proof.Machine.execSpdmUnsupportedRequest s
  | .certificateSlotWrite => Sys2Proof.Machine.execCertificateSlotWrite s
  | .certificateWriteDeferralExpiry => Sys2Proof.Machine.execCertificateWriteDeferralExpiry s
  | .imgseal => Sys2Proof.Machine.execImgseal s
  | .imgcheck => Sys2Proof.Machine.execImgcheck s
  | .icinvw => Sys2Proof.Machine.execIcinvw s
  | .queueEnable => Sys2Proof.Machine.execQueueEnable s
  | .queueDisable => Sys2Proof.Machine.execQueueDisable s
  | .queueDrain => Sys2Proof.Machine.execQueueDrain s
  | .notifyWrite => Sys2Proof.Machine.execNotifyWrite s
  | .queueMap => Sys2Proof.Machine.execQueueMap s
  | .opbFetch => Sys2Proof.Machine.execOpbFetch s
  | .waitCounterReread => Sys2Proof.Machine.execWaitCounterReread s
  | .dispatchOpportunity => Sys2Proof.Machine.execDispatchOpportunity s
  | .stepClaim => Sys2Proof.Machine.execStepClaim s
  | .coreWorldClear => Sys2Proof.Machine.execCoreWorldClear s
  | .jobStart => Sys2Proof.Machine.execJobStart s
  | .jobCompletionRelease => Sys2Proof.Machine.execJobCompletionRelease s
  | .stepComplete => Sys2Proof.Machine.execStepComplete s
  | .opbComplete => Sys2Proof.Machine.execOpbComplete s
  | .launchPacket => Sys2Proof.Machine.execLaunchPacket s
  | .reservationExpiry => Sys2Proof.Machine.execReservationExpiry s
  | .create => Sys2Proof.Machine.execCreate s
  | .rotate => Sys2Proof.Machine.execRotate s
  | .retire => Sys2Proof.Machine.execRetire s
  | .lockcfg => Sys2Proof.Machine.execLockcfg s
  | .teardown => Sys2Proof.Machine.execTeardown s
  | .scrubComplete => Sys2Proof.Machine.execScrubComplete s
  | .reencryptWalkerStart => Sys2Proof.Machine.execReencryptWalkerStart s
  | .reencryptWalkerComplete => Sys2Proof.Machine.execReencryptWalkerComplete s
  | .rlctlWrite => Sys2Proof.Machine.execRlctlWrite s
  | .lockedRegisterWalkPass => Sys2Proof.Machine.execLockedRegisterWalkPass s
  | .formatRangeWrite => Sys2Proof.Machine.execFormatRangeWrite s
  | .kilnLtabWrite => Sys2Proof.Machine.execKilnLtabWrite s
  | .fqdoneOk => Sys2Proof.Machine.execFqdoneOk s
  | .fqdoneFail => Sys2Proof.Machine.execFqdoneFail s
  | .faultEnqueue => Sys2Proof.Machine.execFaultEnqueue s
  | .attach => Sys2Proof.Machine.execAttach s
  | .detach => Sys2Proof.Machine.execDetach s
  | .debugHalt => Sys2Proof.Machine.execDebugHalt s
  | .debugResume => Sys2Proof.Machine.execDebugResume s
  | .copyout => Sys2Proof.Machine.execCopyout s
  | .copyin => Sys2Proof.Machine.execCopyin s
  | .breakpointWrite => Sys2Proof.Machine.execBreakpointWrite s
  | .trctlWrite => Sys2Proof.Machine.execTrctlWrite s
  | .cntvalWrite => Sys2Proof.Machine.execCntvalWrite s
  | .traceSample => Sys2Proof.Machine.execTraceSample s
  | .replayStart => Sys2Proof.Machine.execReplayStart s
  | .replayEnd => Sys2Proof.Machine.execReplayEnd s
  | .tlbMissHold => Sys2Proof.Machine.execTlbMissHold s
  | .translationHoldEnd => Sys2Proof.Machine.execTranslationHoldEnd s
  | .bankConflictHold => Sys2Proof.Machine.execBankConflictHold s
  | .refreshHold => Sys2Proof.Machine.execRefreshHold s
  | .splitGranuleHold => Sys2Proof.Machine.execSplitGranuleHold s
  | .splitDrainEnd => Sys2Proof.Machine.execSplitDrainEnd s
  | .genbumpSweepEnd => Sys2Proof.Machine.execGenbumpSweepEnd s
  | .variableLatencyCompletion => Sys2Proof.Machine.execVariableLatencyCompletion s
  | .storeApplyAtHome => Sys2Proof.Machine.execStoreApplyAtHome s
  | .remoteFincArrival => Sys2Proof.Machine.execRemoteFincArrival s
  | .portTileTransfer => Sys2Proof.Machine.execPortTileTransfer s
  | .kilnLeaseGrant => Sys2Proof.Machine.execKilnLeaseGrant s
  | .kilnWorldClear => Sys2Proof.Machine.execKilnWorldClear s
  | .tileFetchChunkArrival => Sys2Proof.Machine.execTileFetchChunkArrival s
  | .flueRowRun => Sys2Proof.Machine.execFlueRowRun s
  | .drainComplete => Sys2Proof.Machine.execDrainComplete s
  | .channelUnitArrival => Sys2Proof.Machine.execChannelUnitArrival s
  | .linkWordSlotReached => Sys2Proof.Machine.execLinkWordSlotReached s
  | .coreStop => Sys2Proof.Machine.execCoreStop s
  | .stopCaptureComplete => Sys2Proof.Machine.execStopCaptureComplete s
  | .jobWatchdogExpiry => Sys2Proof.Machine.execJobWatchdogExpiry s
  | .barrierWatchdogExpiry => Sys2Proof.Machine.execBarrierWatchdogExpiry s
  | .preemptRequest => Sys2Proof.Machine.execPreemptRequest s
  | .preemptStop => Sys2Proof.Machine.execPreemptStop s
  | .contextSwitchIn => Sys2Proof.Machine.execContextSwitchIn s
  | .allowanceReached => Sys2Proof.Machine.execAllowanceReached s
  | .sampleDeadlineExpiry => Sys2Proof.Machine.execSampleDeadlineExpiry s
  | .hubStateUncorrectableError => Sys2Proof.Machine.execHubStateUncorrectableError s
  | .managementCoreWatchdogExpiry => Sys2Proof.Machine.execManagementCoreWatchdogExpiry s
  | .pagingTlbInvalidation => Sys2Proof.Machine.execPagingTlbInvalidation s
  | .readServedAtHome => Sys2Proof.Machine.execReadServedAtHome s
  | .hubRequestArrival => Sys2Proof.Machine.execHubRequestArrival s

end Sys2Proof.Machine
end

