-- ==== Sys2Proof/Machine/Issue.lean ====
section
/-! DEFINITION. What the module does of itself, act by act (06 R102-R119; 10 R187-R191; 13 R252, R272, R273; 14 R282-R287): a core's clock
edge, the issue of parcels and words, the kilns' drains, and the hub. An act that is a row of the opcode table goes through
`exec`. -/

namespace Sys2Proof.Machine

/-- An event of the module's own: it happens if it can occur now. -/
def State.attempt (s : State) (i : Instr) (inp : Inp) : State :=
  match exec i { s with inp := inp } with
  | .next t => t
  | _ => s

/-- The data of an event at a core, and at a numbered thing of it. -/
def inC (c : Nat) : Inp := { core := BitVec.ofNat 9 c }
def inN (c n : Nat) : Inp := { core := BitVec.ofNat 9 c, idx := n }

/-- What goes on whether or not the core is held or stopped: clears, drains and sweeps, requests and replies on their way,
the write path (R187, R191). -/
def Core.clockTick (k : Core) : Core :=
  { k with
    prep := k.prep - 1,
    far := k.far.map (fun e => (e.1, { e.2 with left := e.2.left - 1 })),
    ports := k.ports.map (fun e => (e.1, { e.2 with fresh := 0 })),   -- what a unit read in one clock can be popped in the next (R402)
    flights := k.flights.map (fun f => if f.live && f.outside then { f with remain := f.remain - 1 } else f),
    wq := match k.wq with
      | w :: r => { w with left := w.left - 1 } :: r
      | [] => [] }
def State.clocks (s : State) (c : Nat) : State :=
  let s := s.modCore c Core.clockTick
  let s := match (s.core c).split with
    | some (old, n) => (s.modCore c (fun k => { k with split := some (old, n - 1) })).attempt .splitDrainEnd (inC c)
    | none => s
  if (s.core c).sweep = 1 then s.attempt .genbumpSweepEnd (inC c) else s.modCore c (fun k => { k with sweep := k.sweep - 1 })

/-- Reads at their homes, replies, requests that the core serves itself, and the oldest write. -/
def State.memory (s : State) (c : Nat) : State :=
  let one (s : State) (f : Flight) : State :=
    match f.phase, f.i with
    | .served, _ | .sent, .icinv .. | .sent, .iclock _ | .sent, .estat .. => s.attempt .variableLatencyCompletion (inN c f.id)
    | .sent, i => if isRead i && i.atom.isNone then s.attempt .readServedAtHome (inN c f.id) else s
    | _, _ => s
  let s := (((s.core c).flights.filter (fun f => f.live && f.remain == 0)).foldl one s).freeHeld c
  match (s.core c).wq with
  | w :: _ => if w.left = 0 then s.attempt .storeApplyAtHome (inC c) else s
  | [] => s

/-- A stopped core keeps what is raised in it, but for an operation that will raise again (R189, R191). -/
def Core.keepRaises (k : Core) : Core :=
  { k with
    raises := [],
    stop := k.stop.map (fun st => { st with pend := st.pend ++ k.raises.filter (fun r => !k.refaults r) }) }

/-- HALTREQ (R190, R211). -/
def State.haltRaise (s : State) (c : Nat) (late : Bool) : State :=
  if (s.core c).hreq then
    s.modCore c (fun k => { k with hreq := false, raises := k.raises ++ [Raise.mk 15 7 0 0 0 0xFFFF late] })
  else s

/-- Counter of a hold's cause (R189, R217). -/
def HoldK.counter : HoldK → Nat
  | .tlb => 0
  | .bank => 1
  | .refresh => 2
  | .split => 3

/-- An armed breakpoint of a kind that has not stopped this point yet (R212). One that fires in a handler contains the core (R196). -/
def Core.bpAt (k : Core) (p : Bp → Bool) : Option Nat :=
  if !k.attached then none
  else (List.range 4).find? (fun i =>
    let b := mget {} k.bps i
    tbit b.ctl.toNat 31 && p b && !k.bpskip.contains i)
def Bp.kind (b : Bp) : Nat := bits b.ctl.toNat 28 3
/-- One on a stream's PC, and one on SCYC. -/
def Core.bpPc (k : Core) (stream : Nat) (pc : Word) : Option Nat :=
  k.bpAt (fun b => b.kind == 0 && bits b.ctl.toNat 25 3 == stream && b.val == pc)
def Core.bpScyc (k : Core) : Option Nat := if k.hmode then none else k.bpAt (fun b => b.kind == 1 && bits b.val.toNat 0 48 == k.scyc.toNat)
/-- The stream has gone past the point. -/
def Core.bpPassed (k : Core) (p : Bp → Bool) : Core := { k with bpskip := k.bpskip.filter (fun i => !p (mget {} k.bps i)) }

/-- The acts that follow a core's clock edge. -/
def Core.engineActs (c : Nat) : List Act := [.engine c 0, .engine c 1]
def Core.portActs (k : Core) (c : Nat) : List Act := k.ports.map (fun e => .port c e.1)

/-- SCYC advances and results land; then the stops raised after issue in the last cycle are taken, and the watchdog, SCYC
breakpoints and sample records follow the new SCYC (R111, R119, R212, R214, R398). -/
def State.newCycle (s : State) (c : Nat) : State :=
  let k := s.core c
  if k.resumed then s.modCore c (fun k => { k with resumed := false, banks := [] })
  else
    let s := s.setCore c ((k.advance).landAll c)
    if k.hmode then s
    else
      let s := s.modCore c (fun k => { k.bpPassed (fun b => b.kind == 1) with wdleft := k.wdleft - 1 })
      let s := (s.portsBack c).unitsBack c
      (s.attempt .jobWatchdogExpiry (inC c)).attempt .traceSample (inC c)

/-- A core stands at a PREEMPT stop: the scheduler chooses a place for its save area (R203). -/
def State.preemptTry (s : State) (c : Nat) : State :=
  if (s.core c).stop.any (fun st => st.r.cause == 14) then
    s.draw.attempt .preemptStop { core := BitVec.ofNat 9 c, addr := BitVec.ofNat 64 (Config.saveAddr s.free) }
  else s

/-- One cycle of a core's clock. -/
def State.cycle (s : State) (c : Nat) : State :=
  let s := (s.clocks c).memory c
  let k := s.core c
  let ports := k.portActs c
  if !k.runs then s.soon ports
  else if k.stop.isSome && !k.hmode then
    (((s.modCore c Core.keepRaises).attempt .stopCaptureComplete (inC c)).preemptTry c).soon ports
  else match k.hold with
    | some h =>
      let s := s.count c h.cause.counter 1
      let s := s.modCore c (fun k => { k with
        hold := some { h with left := h.left - 1 }, banks := k.banks.filter (fun b => 64 ≤ b.2) })
      if 1 < h.left then s.soon (Core.engineActs c ++ ports)
      else match h.cause with
        | .tlb => (((s.attempt .translationHoldEnd (inC c)).haltRaise c false).preemptArrive c false).soon (Core.engineActs c ++ ports ++ [.edge c])
        | _ =>
          let s := ((s.modCore c (fun k => { k with hold := none, todo := [] })).haltRaise c false).preemptArrive c false
          if (s.core c).raises.any (fun r => !r.late || 14 ≤ r.cause) then (s.modCore c Core.rotDue).attempt .coreStop (inC c)
          else s.soon (k.todo.map (fun x => Act.parcel c x false) ++ (List.range 3).map (fun x => Act.parcel c x true)
            ++ Core.engineActs c ++ [Act.mword c] ++ ports ++ [Act.edge c])
    | none =>
      let s := (s.newCycle c).haltRaise c true
      let s := match (s.core c).bpScyc with
        | some i => s.modCore c (fun k => { k with raises := k.raises ++ [Raise.mk 1 7 4 i 0 0xFFFF true] })
        | none => s
      let ports := (s.core c).portActs c   -- a BIND that has just landed starts (R402)
      if (s.core c).raises.any (fun r => r.late) then
        (((s.attempt .coreStop (inC c)).attempt .stopCaptureComplete (inC c)).preemptTry c).soon ports
      else s.soon ([Act.present c] ++ (List.range 3).map (fun x => Act.parcel c x false)
        ++ (List.range 3).map (fun x => Act.parcel c x true) ++ Core.engineActs c ++ [Act.mword c] ++ ports ++ [Act.edge c])

/-- It is a context's turn to issue. -/
def Core.turn (k : Core) (x : Nat) : Bool :=
  let t := k.ctx x
  k.issues && k.mute != 2 && (!k.hmode || (x == 1 && !k.hjob)) && t.st.isRun && t.delay == 0 && !t.halting

/-- One syllable of a parcel is executed; `tok` is the token that the parcel sets. -/
def State.syl (s : State) (e : Nat × Instr) (tok : Option (BitVec 2)) (settok : Bool) : State :=
  match exec e.2 { s with cur := { s.cur with slot := e.1, verdict := .go, tok := tok, settok := settok } } with
  | .next t => t
  | _ => s

/-- Causes raised at issue since `n` raises stood. -/
def State.newRaises (s : State) (c n : Nat) : List Raise := ((s.core c).raises.drop n).filter (fun r => !r.late)

/-- Syllables whose unit is occupied (R272): the vector slots, and the MC slot that an LDV or STV occupies (R312). -/
def Core.occupied (k : Core) (x : Nat) (l : List (Nat × Instr)) : List Nat :=
  l.filterMap (fun e =>
    let busy : Bool := match e.2 with
      | .vnop | .mcNop => false
      | _ => (e.1 == 1 && (k.ctx x).mcBusy != 0) || (e.1 == 2 && k.vaBusy != 0) || (e.1 == 3 && k.vbBusy != 0)
    if busy then some e.1 else none)

/-- Loops whose end parcel issues without a transfer, inner first (R283): the entries left, and the next PC. -/
def closeLoops (pc next : Word) : List LoopEnt → List LoopEnt × Word
  | e :: rest =>
    if e.start + BitVec.ofNat 64 e.endOff = pc then
      (if e.count ≤ 1 then closeLoops pc next rest else ({ e with count := e.count - 1 } :: rest, e.start))
    else (e :: rest, next)
  | [] => ([], next)

/-- The entry's end parcel is this one and its body does not hold the target. -/
def LoopEnt.leaves (e : LoopEnt) (pc target : Word) : Bool :=
  let fin := e.start + BitVec.ofNat 64 e.endOff
  fin == pc && !(e.start.toNat ≤ target.toNat && target.toNat ≤ fin.toNat)
/-- A taken transfer in an end parcel pops the entries it leaves, with those inside them (R283). -/
def leaveLoops (pc target : Word) : List LoopEnt → List LoopEnt
  | [] => []
  | e :: rest => if rest.any (fun f => f.leaves pc target) then leaveLoops pc target rest
    else if e.leaves pc target then rest else e :: rest

/-- The context's next parcel, its loops and its sequencer (R273, R280-R287). A rotation is due as the SCYC ends. -/
def Core.nextParcel (k : Core) (x : Nat) (cur : Cur) : Core :=
  let t := k.ctx x
  let next := cur.pc + BitVec.ofNat 64 (parcelBytes x)
  let close (k : Core) : Core :=
    let (l, a) := closeLoops cur.pc next t.loops
    k.modCtx x (fun t => { t with loops := cur.push.toList ++ l, pc := a, seq := none })
  let k := if cur.brlc then { k with rot := true } else k
  match cur.jump, t.seq with
  | some a, q =>
    if cur.skip then
      let (l, b) := closeLoops cur.pc a t.loops
      k.modCtx x (fun t => { t with loops := l, pc := if q.isSome then a else b })
    else k.modCtx x (fun t => { t with pc := a, loops := if cur.lexit then t.loops else leaveLoops cur.pc a t.loops })
  | none, none => close k
  | none, some q =>
    if q.cyc + 1 < q.ii then k.modCtx x (fun t => { t with pc := next, seq := some { q with cyc := q.cyc + 1 } })
    else
      let k := { k with rot := true }
      if q.iter + 1 < q.trip + q.stages - 1 then
        k.modCtx x (fun t => { t with pc := q.body, seq := some { q with cyc := 0, iter := q.iter + 1 } })
      else close k

/-- The next parcel keeps the distance of a transfer (R273); where a LOOP that is skipped ends an enclosing body that goes round, that
body's start follows with no added cycle (R283). -/
def Ctx.lateNext (t : Ctx) (cur : Cur) : Bool :=
  cur.late && !(cur.skip && t.seq.isNone && (match cur.jump with | some a => (closeLoops cur.pc a t.loops).2 != a | none => false))

/-- The parcel counts in its round, unless its tournament scope is pre-empted (R92, R96). -/
def State.countParcel (s : State) (c : Nat) : State :=
  let cold : Bool := match (s.core c).kind with
    | some (.rival n _) => (mfind s.hub.tours n).any (·.frozen)
    | _ => false
  if cold then s else s.modCore c (fun k => { k with parcels := k.parcels + 1 })

/-- The parcel has issued: occupancies, banks, the next PC and when it may issue. `k0` is the core as the parcel found it. -/
def State.endParcel (s : State) (c x : Nat) (t : Ctl) (l : List (Nat × Instr)) (k0 : Core) : State :=
  let cur := s.cur
  let late := (k0.ctx x).lateNext cur
  if !(s.core c).runs then s
  else if (s.core c).hmode != k0.hmode then s.countParcel c
  else
    let s := s.countParcel c
    let occ (e : Nat × Instr) : Nat := e.2.occ (e.2.passes k0.sys.vsh)
    let va := (l.filter (fun e => e.1 == 2 && e.2 != .vnop)).map occ
    let vb := (l.filter (fun e => e.1 == 3 && e.2 != .vnop)).map occ
    let mc := (l.filter (fun e => match e.2 with | .ldv .. | .stv .. => true | _ => false)).map occ
    let wait := 1 + (if k0.inter then 0 else t.stall)
    s.modCore c (fun k =>
      let k := k.nextParcel x cur
      let k := { k with
        banks := k.banks ++ (l.flatMap (fun (e : Nat × Instr) => k0.sylBanks c x e.2)).map (fun b => (x, b)),
        vaBusy := va.headD k.vaBusy, vbBusy := vb.headD k.vbBusy,
        wdleft := match k.job with | some j => if k.hmode then k.wdleft else 2 ^ j.wdog | none => k.wdleft }
      let k := if k.hmode then k else k.bpPassed (fun b => b.kind == 0 && bits b.ctl.toNat 25 3 == x)
      k.modCtx x (fun q => { q with
        delay := if late then Nat.max 3 wait else wait, mcBusy := mc.headD q.mcBusy,
        wait := none, waitFrom := 0, rel := none, arrived := false }))

/-- Capture slots that an operation in flight may come to need (R192, R195, R333). -/
def Flight.slotBound (f : Flight) : Nat :=
  match f.i.vop with
  | some _ => ([f.tA, f.tB, f.tC].filterMap (fun t => t)).length + (if f.pr.isSome then 2 else 1)
  | none => match f.i with
    | .pand .. | .por .. | .pxor .. | .pnot .. => 2
    | .stv .. | .stp .. | .ldv .. | .ldp .. => 1
    | _ => 0

/-- A core an edge later, if nothing more issues and no data comes back: an LDV or LDP that has been sent takes a slot, as does an LDV
that has made a pass. -/
def Core.edgeAhead (k : Core) (c : Nat) : Core :=
  let k := k.advance.landAll c
  { k with flights := k.flights.map (fun f => match f.i with
    | .ldv .. | .ldp .. =>
      if f.phase = .unsent ∧ f.live ∧ f.remain = 0 then { f with phase := .sent, live := false }
      else if f.phase = .fixed ∧ 1 < passesOf (f.i.accSize f.vsh) then { f with prog := Nat.max 1 f.prog, td := some (f.td.getD 0) } else f
    | _ => f) }
/-- A stop at one of the next `n` edges would find room in the ember bay. -/
def State.fitsAhead (s : State) (c : Nat) : Nat → Core → Bool
  | 0, _ => true
  | n + 1, k =>
    let k := k.edgeAhead c
    let (x, m) := (s.setCore c k).bayCount c
    bayFits x m && s.fitsAhead c n k

/-- The operations in flight and the ages would not fit in the ember bay at some later edge (R192, R333). -/
def State.overBudget (s : State) (c : Nat) (k0 : Core) : Bool :=
  let k := s.core c
  if k.hmode || k.flights.length ≤ k0.flights.length then false
  else if (k.flights.map Flight.slotBound).sum + ((k.liveAges k.va).filterMap id).length + ((k.liveAges k.vb).filterMap id).length ≤ 15
      ∧ k.flights.length ≤ 220 then false
  else !s.fitsAhead c (1 + (k.flights.map (fun f => if f.live then f.remain else 0)).foldl Nat.max 2) k

/-- Every live syllable, in slot order and RESUME last, up to the first that does not go. -/
def State.runSyls (s : State) (l : List (Nat × Instr)) (tok : Option (BitVec 2)) (settok : Bool) : State × Option (Nat × Instr) :=
  (l.filter (fun e => e.2 != .resume) ++ l.filter (fun e => e.2 == .resume)).foldl
    (fun (a : State × Option (Nat × Instr)) e => match a.2 with
      | some _ => a
      | none =>
        let t := a.1.syl e tok settok
        (t, if t.cur.verdict = .go then none else some e)) (s, none)

/-- The parcel's syllables, once nothing makes it wait or stop: they all take effect, or the parcel stalls or holds. -/
def State.runParcel (s : State) (c x : Nat) (t : Ctl) (l : List (Nat × Instr)) : State :=
  let k := s.core c
  let setting := t.settok && !k.inter
  let tok := if setting then some (BitVec.ofNat 2 t.tokid) else none
  match s.runSyls l tok setting with
  | (u, some e) =>
    (match u.cur.verdict with
    | .hold => s.attempt .splitGranuleHold (inN c x)
    | .stop => s.modCore c (fun k' => { k' with raises := k'.raises ++ u.newRaises c k.raises.length })
    | _ =>
      let v := s.syl e tok setting
      if v.cur.verdict = .stall then v else stallOn s (((u.core c).ctx x).wait.getD .other))
  | (u, none) =>
    if l.any (fun e => k.refreshes e.2) then s.attempt .refreshHold (inN c x)
    else if (l.flatMap (fun e => k.sylBanks c x e.2)).any k.taken then s.attempt .bankConflictHold (inN c x)
    else if u.overBudget c k then (if k.inter then stallOn s .other else illegal s 1)
    else u.endParcel c x t l k

/-- A context tries to issue its parcel (R109-R112, R190, R251, R269, R272). -/
def State.tryIssue (s : State) (c x : Nat) (again : Bool) : State :=
  let k := s.core c
  let t := k.ctx x
  let s := { s with cur := { core := c, src := x, pc := t.pc, first := k.nextId, dry := again } }
  if k.flights.any (fun f => f.src == x && isFence f.i) then stallOn s .fence
  else match s.parcelBits c x with
    | (s, .error (0, _)) => stallOn s .other
    | (s, .error (cause, _)) => raiseAt s cause 0 t.pc
    | (s, .ok w) =>
      let k := s.core c
      let p := parcelOf x w
      let l := sylsOf p t.seq
      let live := liveOf l
      let nvar := (live.filter (fun e => e.2.isVar)).length
      let waits := (List.range 4).any (fun j => tbit p.ctl.wait j && mget 0 t.tok j != 0)
      let ninth := p.ctl.settok && 8 < mget 0 t.tok p.ctl.tokid + nvar
      if !k.inter && (waits || ninth) then stallOn s .token
      else
        let busy := k.occupied x live
        let bp := k.bpPc x t.pc
        let early := parcelFaults p l t.seq k.inter ++ (if k.inter then [] else busy.map (fun n => (4, 2, n)))
          ++ (if twice k x (live.map (·.2)) then [(4, 3, 0)] else [])
          ++ (match bp with | some i => [(1, i, 4)] | none => [])
        if k.inter && early.isEmpty && (!busy.isEmpty || live.any (fun e => hazard k x e.2)) then stallOn s .other
        else
          let tok := if p.ctl.settok && !k.inter then some (BitVec.ofNat 2 p.ctl.tokid) else none
          let stops := if k.inter && live.any (fun e => hazard k x e.2) then []
            else live.flatMap (fun e => (s.syl e tok tok.isSome).newRaises c k.raises.length)
          if early.isEmpty && stops.isEmpty then s.runParcel c x p.ctl live
          else
            let s := early.foldl (fun (s : State) f => raiseAt { s with cur := { s.cur with slot := f.2.2 } } f.1 f.2.1 0) s
            s.modCore c (fun k => { k with raises := k.raises ++ stops })

/-- A bundle context's turn in a cycle: first a pass of an LDV or STV that is due (R306). A second turn is for a push that
waited for room (R105). -/
def State.parcelAct (s : State) (c x : Nat) (again : Bool) : State :=
  let k := s.core c
  let retry : Bool := match (k.ctx x).wait with
    | some (.queue q true) => (k.que q.toNat).ents.length < 8
    | _ => false
  if (again && !retry) || !k.issues then s
  else if (k.passBanks c x).any k.taken then s.attempt .bankConflictHold (inN c x)
  else
    let s := s.modCore c (fun k => k.runPass c x)
    if (s.core c).turn x then s.tryIssue c x again else s

/-- An engine stream works in this cycle. -/
def State.engineRuns (s : State) (c e : Nat) : Bool :=
  let k := s.core c
  let x := k.eng e
  k.runs && k.stop.isNone && k.mute != 2 && x.st.isRun && !x.page && !k.raises.any (fun r => r.stream == 3 + e)

/-- The word in progress acts; a link word first asks for its slot, and after an M word the tile fetch goes on. -/
def State.runWord (s : State) (c e : Nat) (i : Instr) : State :=
  let s := match i with
    | .csend _ | .crecv _ | .cred _ => s.attempt .linkWordSlotReached (inN c e)
    | _ => s
  let s := match exec i s with
    | .next t => t
    | _ => s
  if e = 2 then s.attempt .tileFetchChunkArrival (inC c) else s

/-- The word at an address of an engine's program: its code, or none for what is no encoding (R261). -/
def wordAt (e w : Nat) : Option Instr := if 2 ^ 48 ≤ w then none else decodeOpt (if e = 2 then .kiln else .copy) w

/-- A page that a word's fetch misses: a copy engine waits on the paging service, the M stream stops its core (R125, R206). -/
def State.wordPage (s : State) (c e : Nat) (pc : Word) (bad : Bool) : State :=
  if e = 2 then wordStop s 7 5 0 pc
  else (s.modCore c (fun k => k.modEng e (fun x => { x with page := true }))).soon
    [.attempt .faultEnqueue { core := BitVec.ofNat 9 c, idx := 1 + e, addr := pc, val := if bad then 22 else 18 }]

/-- A new word is fetched and started (R261, R212). -/
def State.newWord (s : State) (c e : Nat) : State :=
  let k := s.core c
  let x := k.eng e
  if x.startIn ≠ 0 ∧ k.flights.any (fun f => f.src ≤ 2 && isWrite f.i && f.phase == .unsent && f.id < x.startIn) then s
  else match s.fetchLine c (x.pc.toNat / 128) (who := 17 + e) with
    | (s, .error (0, _)) => s
    | (s, .error (7, bad)) => s.wordPage c e x.pc bad
    | (s, .error (cause, _)) => wordStop s cause (3 + e) 0 x.pc
    | (s, .ok b) => match (s.core c).bpPc (3 + e) x.pc with
      | some n => s.modCore c (fun k => { k with raises := k.raises ++ [Raise.mk 1 (3 + e) 4 n 0 0xFFFF false] })
      | none => match wordAt e (bits b.toNat (8 * (x.pc.toNat % 128)) 64) with
        | none => wordIllegal s
        | some i =>
          let s := s.modCore c (fun k =>
            let k := k.bpPassed (fun b => b.kind == 0 && bits b.ctl.toNat 25 3 == 3 + e)
            { k.modEng e (fun x => { x with cur := some { freshWord i with issue := k.scyc.toNat }, startIn := 0 }) with
              wdleft := match k.job with | some j => 2 ^ j.wdog | none => k.wdleft })
          s.runWord c e i

/-- A stream that ESTOP has asked to end does so between repeats; M once its retirement is done (R297). -/
def State.wordOrEnd (s : State) (c e : Nat) : State :=
  let x := (s.core c).eng e
  let done (s : State) : State := s.modCore c (fun k => k.modEng e (fun x => { x with cur := none, st := .ended, stopReq := false, slotOk := false }))
  let s := { s with cur := { core := c, src := 3 + e, pc := x.pc } }
  if x.stopReq && e = 2 then
    (if (s.kiln (kilnOf c)).isDraining then s
      else if (s.core c).lease then (done s).leaseEndWhen (kilnOf c) 1 else done s)
  else if x.stopReq && (match x.cur with | some w => w.piece == 0 && w.buf.isNone | none => true) then done s
  else if e = 2 && !((s.core c).lease && (s.kiln (kilnOf c)).gwait == 0 && (s.core c).hold.isNone) then s
  else match x.cur with
    | some w =>
      if 1 < w.left then s.setEw { w with left := w.left - 1 }
      else (s.setEw { w with left := 0 }).runWord c e w.i
    | none => s.newWord c e
def State.engineAct (s : State) (c e : Nat) : State :=
  let s := if ((s.core c).eng e).swept then s.modCore c (fun k => k.modEng e (fun x => { x with swept := false })) else s
  if s.engineRuns c e then s.wordOrEnd c e else s

/-- A drain's cycle up to its next flue instruction; true when one is to be executed (R363, R371). -/
def State.drainStep (s : State) (kn : Nat) (d : Drain) : State × Bool :=
  if !d.bdone then (s.flueB kn d, false)
  else if ((s.kiln kn).bank d.bank).m ≤ d.row then (s.attempt .drainComplete { idx := kn }, false)
  else (if d.pc = 0 then s.attempt .flueRowRun { idx := kn } else s, true)

/-- One cycle of a kiln: a grant, or its drain. The drain of a job that has ended gives up at its first stop (R103). -/
def State.kilnAct (s : State) (kn : Nat) : State :=
  let k := s.kiln kn
  if s.hub.replay.any (fun r => r.kiln && r.eng == kn) then s
  else if k.gwait ≠ 0 then s.modKiln kn (fun k => { k with gwait := k.gwait - 1 })
  else match k.holder, k.drain with
    | none, _ => (match s.leaseNext kn with
      | some c => if s.clearNeeded kn c then s.attempt .kilnWorldClear { idx := kn } else s.attempt .kilnLeaseGrant { idx := kn }
      | none => s)
    | some _, none => s
    | some _, some d =>
      let h := s.core d.acc
      if h.runs && (h.hold.isSome || h.stop.isSome || h.raises.any (fun r => r.stream == 6)) then s
      else if !h.runs && !h.raises.isEmpty then (s.modCore d.acc (fun h => { h with raises := [] })).retire kn d.bank
      else match s.drainStep kn d with
        | (s, true) => s.soon [.flue kn]
        | (s, false) => s

/-- The flue executes the next instruction of the row in progress (R371). -/
def State.flueAct (s : State) (kn : Nat) : Res :=
  match (s.kiln kn).drain with
  | some d => (match (d.prog[d.pc - 1]?).bind (fun w => decodeOpt .flue w.toNat) with
    | some i => exec i { s with cur := { core := d.acc, src := 6, kiln := kn, slot := d.slot, pc := d.kpc } }
    | none => .next s)
  | none => .next s

/-- Fences whose conditions hold are done; a CINV is when its last lines have gone (R322-R325). -/
def State.fenceEnds (s : State) (c : Nat) : State :=
  ((s.core c).flights.filter (fun f => isFence f.i)).foldl (fun s f =>
    let k := s.core c
    match f.i with
    | .cinv .. => if f.phase = .sent ∧ !s.cinvLeft (c, f.id) then s.setCore c (k.dropFlight f) else s
    | _ => if s.fenceDone c f then s.setCore c (k.fenceEnd f) else s) s

/-- Every running stream has arrived at the rendezvous (R102). -/
def Core.meets (k : Core) : Bool :=
  let xs := (List.range 3).filter (fun x => (k.ctx x).st.isRun)
  let es := (List.range 3).filter (fun e => (k.eng e).st.isRun)
  !(xs ++ es).isEmpty && xs.all (fun x => (k.ctx x).wait == some .rdv && (k.ctx x).rel.isNone)
    && es.all (fun e => (k.eng e).rel.isNone && (match (k.eng e).cur with | some w => w.arrived | none => false))
def Core.meet (k : Core) : Core :=
  if !k.meets then k
  else
    let k := (List.range 3).foldl (fun (k : Core) x => k.modCtx x (fun t => if t.st.isRun then { t with rel := some 0 } else t)) k
    (List.range 3).foldl (fun (k : Core) e => k.modEng e (fun x => if x.st.isRun then { x with rel := some 0 } else x)) k

/-- A context that has issued HALT ends once its operations are done: its results have landed and its stores have been accepted
(R103). -/
def Core.endCtxs (k : Core) : Core :=
  (List.range 3).foldl (fun (k : Core) x =>
    let t := k.ctx x
    if t.halting && k.flights.all (fun f => f.src != x) then k.setCtx x { t with st := .ended, halting := false } else k) k

/-- No stream of the job runs any more. -/
def Core.allEnded (k : Core) : Bool :=
  (List.range 3).all (fun x => !(k.ctx x).st.isRun) && (List.range 3).all (fun e => !(k.eng e).st.isRun) && k.em.st != .parked

/-- A context, a word or a port that waits on an unfinished sweep counts in GENSTALL (R131). -/
def State.sweepWaits (s : State) (c : Nat) : Bool :=
  let k := s.core c
  let acq (o : OS) : Bool := isAcq o && bumps o.scope
  (List.range 3).any (fun x => (k.ctx x).wait == some .sweep || (k.eng x).swept)
    || (k.bumpWaits && (k.flights.any (fun f => match f.i with
        | .fence os => acq os && k.loaded f.src f.id && (os.ord == .acq || s.fenced c f.src f.id os.scope)
        | .syncg scope => bumps scope && k.loaded f.src f.id && s.fenced c f.src f.id scope
        | i => f.phase == .sent && f.live && f.remain == 0 && isRead i && acq f.os)
      || k.ports.any (fun p => p.2.bumps && !p.2.wait && k.portReady p.2
        && (match p.2.pat with | some t => p.2.moved < t.tiles && p.2.tiles.length < 4 | none => true))
      || (match k.wq with | w :: _ => w.left == 0 && w.atom.isSome && acq w.os | [] => false)))

/-- A request of a core names a sealed world that has no loaded key (R204 reason 5). -/
def State.keyless (s : State) (c : Nat) : Bool :=
  let k := s.core c
  let w := s.world k.world.toNat
  k.world != 0 && !w.live0 && !w.live1
    && (k.flights.any (fun f => f.space == .g && f.phase == .sent) || k.wq.any (fun p => p.kind == 0) || !k.far.isEmpty)

/-- The edge that ends a cycle: a stop or a translation hold begins, or else fences, rendezvous and ends are settled
(R102, R103, R187, R190, R202). -/
def State.edge (s : State) (c : Nat) : State :=
  let k := s.core c
  if !k.runs || k.hold.isSome || (k.stop.isSome && !k.hmode) then s
  else
  let s := s.modCore c Core.rotDue
  if s.keyless c then s.contain c 5 0
  else if k.raises.any (fun r => !r.late) then s.attempt .coreStop (inC c)
  else if !k.miss.isEmpty then s.attempt .tlbMissHold (inC c)
  else
    let s := s.fenceEnds c
    let s := if s.sweepWaits c then s.count c 4 1 else s
    if k.hmode then (if k.hjob ∧ (s.core c).flights.isEmpty then (s.jobEnd c).sgParentEnd c else s)
    else
      let s := s.modCore c (fun k => k.endCtxs.meet)
      if k.hjob || (s.core c).allEnded then (s.jobEnd c).sgParentEnd c else s.preemptArrive c true

/-- Take an element that still stands in a list of the hub as an event's number. -/
def State.byIdx {α : Type} [BEq α] (s : State) (l : State → List α) (x : α) (i : Instr) (inp : Inp) : State :=
  match (l s).findIdx? (fun y => y == x) with
  | some n => s.attempt i { inp with idx := n }
  | none => s

/-- Everything on its way to or from the hub is a cycle nearer. -/
def Hub.tick (h : Hub) : Hub :=
  let owed (o : Owed) : Owed := { o with left := o.left - 1 }
  { h with
    irqd := [], dbgBusy := (h.dbgBusy.map (fun e => (e.1, e.2 - 1))).filter (fun e => e.2 != 0),
    reqs := h.reqs.map (fun r => { r with left := r.left - 1, here := r.left == 0 }),
    fincs := h.fincs.map (fun r => { r with left := r.left - 1 }),
    units := h.units.map (fun r => { r with left := r.left - 1 }),
    stopAsks := h.stopAsks.map (fun x => (x.1, x.2.1, x.2.2.1, x.2.2.2 - 1)),
    groups := h.groups.map (fun e => (e.1, { e.2 with left := e.2.left.map (· - 1) })),
    sumRep := h.sumRep.map owed, imgRep := h.imgRep.map owed,
    spdm := { h.spdm with chal := h.spdm.chal.map (fun x => { x with left := x.left - 1 }) } }

/-- Insert a request by ascending core, after those of the same core (R83, R91). -/
def insReq (r : HubReq) : List HubReq → List HubReq
  | [] => [r]
  | q :: l => if r.core < q.core then r :: q :: l else q :: insReq r l

/-- Requests, FINCs and link units that arrive in this cycle. What ends siblings comes in the order of R84: finite rewards, others,
containments, deadlines, cancels by a parent's end and on request. A
unit for another module waits for that module's answer, an event from outside. -/
def State.arrivals (s : State) : State :=
  let due := (s.hub.reqs.filter (fun r => r.left == 0)).foldl (fun l r => insReq r l) []
  let fin (r : HubReq) : Bool := f32finite (r.a.toNat % 2 ^ 32)
  let groups (s : State) (f : State → Nat → State) : State := (s.hub.sgrps.map (·.1)).foldl f s
  let serve (s : State) (l : List HubReq) : State := l.foldl (fun s r => s.byIdx (·.hub.reqs) r .hubRequestArrival {}) s
  let s := serve (serve s (due.filter (fun r => r.isReward && fin r))) (due.filter (fun r => r.isReward && !fin r))
  let s := groups s State.sgFails
  let s := groups s (fun s n => s.attempt .sampleDeadlineExpiry { idx := n })
  let s := groups s State.sgOrphans
  let s := serve s (due.filter (fun r => !r.isReward))
  let s := (s.hub.fincs.filter (fun r => r.left == 0)).foldl (fun s r => s.byIdx (·.hub.fincs) r .remoteFincArrival {}) s
  (s.hub.units.filter (fun u => u.left == 0 && u.accel == s.hub.accid)).foldl (fun s u =>
    s.byIdx (·.hub.units) u .channelUnitArrival { accel := u.accel, ok := true }) s

/-- Reads of host or peer memory that have run into their time, and, with no port up, writes to peer modules (R14, R16). -/
def State.farTimeouts (s : State) : State :=
  let late (t : Nat) : Bool := t + 2000000 ≤ s.hub.podTime.toNat
  s.cores.foldl (fun s e =>
    let both (s : State) (i : Inp) : State := (s.attempt .moduleHostReadTimeout i).attempt .ualinkDeliveryTimeout i
    let s := (e.2.flights.filter (fun f => f.phase == .sent && late f.sentAt)).foldl (fun s f => both s { inN e.1 f.id with idx2 := 0 }) s
    let s := (e.2.far.filter (fun x => late x.2.sent)).foldl (fun s x => both s { inC e.1 with idx2 := x.1 }) s
    match e.2.wq with
    | w :: _ => if s.hub.ports = 0 ∧ late w.sentAt then s.attempt .ualinkDeliveryTimeout { inC e.1 with idx2 := 16 } else s
    | [] => s) (if s.hub.ports = 0 then (s.hub.units.filter (fun u => late u.sentAt)).foldl (fun s u =>
      s.byIdx (·.hub.units) u .ualinkDeliveryTimeout { idx2 := 20 }) s else s)

/-- Invalidations of guest copies on their way: each is done once its die has applied what its write's clock names (R134, R155). -/
def State.invActs (s : State) : State :=
  if s.invs.isEmpty then s
  else
    let s : State := { s with invs := s.invs.map (fun (v : Inv) => { v with left := v.left - 1 }) }
    let s := s.invs.foldl (fun (s : State) (v : Inv) =>
      if v.left = 0 ∧ !s.clkWaits v.die v.clk then { s with invs := s.invs.erase v } else s) s
    if s.invs.isEmpty then { s with clks := [] } else s

/-- What barriers, sample groups and tournaments come to, and the faults that wait for a ring entry. -/
def State.objects (s : State) : State :=
  let s := (s.hub.groups.map (·.1)).foldl (fun (s : State) e => (s.barCheck e).attempt .barrierWatchdogExpiry { idx := e }) s
  let s := s.stopsReach
  let s := s.hub.tours.foldl (fun (s : State) e => e.2.rivals.foldl (fun (s : State) r =>
    s.attempt .allowanceReached { idx := e.1, idx2 := r.1 }) s) s
  let s := (s.hub.sgrps.map (·.1)).foldl State.sgSettle s
  let s := (s.hub.tours.map (·.1)).foldl State.tourSettle s
  let s := s.fqPump 4096
  if s.hub.fwait.isEmpty then s else s.modHub (fun h => { h with fqnew := h.fqnew + 1 })

/-- Replies that are due. -/
def State.replies (s : State) : State :=
  let s := match s.hub.sumRep with
    | some o => if o.left = 0 then (s.payOwed o).modHub (fun h => { h with sumRep := none }) else s
    | none => s
  let s := match s.hub.imgRep with
    | some o => if o.left = 0 then (s.payOwed o).modHub (fun h => { h with imgRep := none }) else s
    | none => s
  (s.hub.spdm.chal.filter (fun x => x.left == 0)).foldl State.answer s

/-- Worlds, the walk over locked registers and deferred certificates. -/
def State.worldActs (s : State) : State :=
  let s := s.hub.worlds.foldl (fun (s : State) e =>
    let i : Inp := { world := BitVec.ofNat 10 e.1 }
    (((s.attempt .scrubComplete i).attempt .reencryptWalkerStart i).walkStep e.1).attempt .reencryptWalkerComplete i) s
  let s := (s.hub.spdm.held.map (·.1)).foldl (fun (s : State) n => s.attempt .certificateWriteDeferralExpiry { idx := n }) s
  s.attempt .lockedRegisterWalkPass {}

/-- Jobs start; a sample record of the job's SCYC 0 may be due at once (R214). -/
def State.jobStarts (s : State) : State :=
  (s.cores.map (·.1)).foldl (fun s c =>
    let t := s.attempt .jobStart (inC c)
    if (s.core c).starting && !(t.core c).starting then t.attempt .traceSample (inC c) else t) s

/-- The scheduler: as soon as it can, in a fixed order, at most one dispatch opportunity in a cycle (log 18). -/
def State.schedule (s : State) : State :=
  let opbs (s : State) (f : State → Nat → State) : State := (s.hub.opbs.map (·.1)).foldl f s
  let cores (s : State) (i : Instr) : State := (s.cores.map (·.1)).foldl (fun s c => s.attempt i (inC c)) s
  let s := s.idleMarks.attempt .queueMap {}
  let s := if s.hub.hif = 3 then
      (s.hub.hslots.map (·.2.q)).foldl (fun (s : State) q => s.attempt .opbFetch { idx := q }) s else s
  let s := opbs s (fun s n => (List.range ((s.opb n).elim 0 (fun o => o.waits.length))).foldl (fun (s : State) j =>
    s.attempt .waitCounterReread { idx := n, idx2 := j }) s)
  let s := opbs s (fun s n => s.attempt .stepClaim { idx := n })
  let s := s.attempt .dispatchOpportunity {}
  let s := cores (cores s .coreWorldClear).jobStarts .jobCompletionRelease
  let s := opbs s (fun s n => s.attempt .stepComplete { idx := n })
  let s := opbs s (fun s n => s.attempt .opbComplete { idx := n })
  let s := s.hub.saved.foldl (fun s v => s.byIdx (·.hub.saved) v .contextSwitchIn {}) s
  (s.hub.resv.map (·.1)).foldl (fun (s : State) c => s.attempt .reservationExpiry (inC c)) s

/-- A replay ends with an ERR of R222. -/
def State.replayFin (s : State) (err : Nat) : State :=
  s.modHub (fun h => { h with replay := h.replay.map (fun r => { r with fin := some err }) })

/-- Part of a replay runs; a stop that it raises is no stop of the core but ends the replay (R222). -/
def State.replayTry (s : State) (c : Nat) (f : State → State) : State :=
  let old := (s.core c).raises
  let t := f s
  match (t.core c).raises.drop old.length with
  | [] => t
  | r :: _ => (t.modCore c (fun k => { k with raises := old })).replayFin (if r.cause = 6 then 3 else 5)

/-- A word of a replay is complete: DONEW counts it (R222). -/
def State.replayDone (s : State) : State :=
  match s.hub.replay with
  | none => s
  | some r =>
    (s.modHub (fun h => { h with replay := some { r with done := r.done + 1, undo := [], held := false } })).modTrc
      (fun t => { t with rpstat := rpstat (r.done + 1) 0 false true })

/-- The word in progress of a replay acts, or the next one starts; a KDRAIN is complete once its drain is (R221, R222). -/
def State.replayWord (s : State) (r : Replay) (e : Nat) : State :=
  let x := (s.core r.core).eng e
  let drains (s : State) : Bool := r.kiln && (s.kiln r.eng).drain.isSome
  let s := { s with cur := { core := r.core, src := 3 + e, pc := x.pc } }
  let go (s : State) (w : EWord) : State :=
    if 1 < w.left then s.setEw { w with left := w.left - 1 }
    else
      let t := s.replayTry r.core (fun s => match exec w.i (s.setEw { w with left := 0 }) with
        | .next t => t
        | _ => s)
      if t.hub.replay.any (fun q => q.fin.isNone) && ((t.core r.core).eng e).cur.isNone then
        (if drains t then t.modHub (fun h => { h with replay := h.replay.map (fun q => { q with held := true }) }) else t.replayDone)
      else t
  if r.held then (if drains s then s else s.replayDone)
  else match x.cur with
    | some w => go s w
    | none =>
      if r.nwords ≤ r.done ∨ !x.st.isRun ∨ r.nwords ≤ (x.pc.toNat - r.words) / 8 then s.replayFin 0
      else match wordAt e (leNat (s.rawRd (s.normPa x.pc.toNat) 8)) with
        | none => s.replayFin 5
        | some (.csend _) | some (.crecv _) | some (.cred _) => s.replayFin 4
        | some i => go s { freshWord i with issue := (s.core r.core).scyc.toNat }

/-- The drain of a kiln's replay. -/
def State.replayDrain (s : State) (r : Replay) : State :=
  match (s.kiln r.eng).drain with
  | none => s
  | some d => s.replayTry r.core (fun s => match s.drainStep r.eng d with
    | (s, true) => (match s.flueAct r.eng with | .next t => t | _ => s)
    | (s, false) => s)

/-- A replay's cycle; eight openings that have all retired begin anew, as a new lease would (R221, R358). -/
def State.replayAct (s : State) : State :=
  match s.hub.replay with
  | none => s
  | some r =>
    let s := if r.fin.isSome then s
      else if !(s.core r.core).halted then s.replayFin 1
      else
        let s := s.replayWord r (if r.kiln then 2 else r.eng)
        if !r.kiln then s
        else
          let s := s.replayDrain r
          s.modKiln r.eng (fun k => if 8 ≤ k.opens && k.quiet then
            { k with opens := 0, rets := 0, ptr := 0, reg := (List.range 4).foldl (fun m j => mset m (8 + j) {}) k.reg } else k)
    s.attempt .replayEnd {}

/-- A core that has asked for its end issues nothing from the next cycle on (R405). -/
def State.mutes (s : State) : State :=
  { s with cores := s.cores.map (fun (e : Nat × Core) => (e.1, if e.2.mute = 1 then { e.2 with mute := 2 } else e.2)) }

/-- One cycle of the hub. A reset step that has missed its bound ends the sequence (R12). -/
def State.hubAct (s : State) : State :=
  let s := if s.hub.hif ≤ 1 then s.draw.attempt .resetStepTimeout { images := Config.lateImages s.free } else s
  let t : State := (s.mutes.modHub Hub.tick).arrivals.invActs.farTimeouts.objects.replies.worldActs
  let u : State := if t.hub.hif == 2 || t.hub.hif == 3 then t.schedule else t
  u.replayAct

/-- A cycle begins: the clock and pod time go on, and every agent gets its acts (log 10). With the rails off no core has a
clock (R10). -/
def State.tick (s : State) : State :=
  let s := s.settleCounts
  let t0 := s.hub.podTime
  let s := { s with clock := s.clock + 1 }.podTick
  let dt := (s.hub.podTime - t0).toNat
  let s := s.modHub (fun h => { h with
    sgrps := h.sgrps.map (fun (e : Nat × SGrp) => (e.1, if e.2.st = 0 then { e.2 with run := e.2.run + dt } else e.2)) })
  { s with script := if s.hub.rails = .off then [.hub]
      else s.cores.map (fun e => Act.cycle e.1) ++ s.kilns.map (fun e => Act.kiln e.1) ++ [.hub] }

/-- One act. -/
def State.doAct (s : State) (a : Act) : Res :=
  match a with
  | .cycle c => .next (s.cycle c)
  | .present c => .next ((s.present c false).presentL c false)
  | .parcel c x again => .next (s.parcelAct c x again)
  | .engine c e => .next (s.engineAct c e)
  | .mword c => .next (s.engineAct c 2)
  | .port c p => .next (s.attempt .portTileTransfer (inN c p))
  | .edge c => .next (s.edge c)
  | .kiln k => .next (s.kilnAct k)
  | .flue k => s.flueAct k
  | .hub => .next s.hubAct
  | .event i inp => exec i { s with inp := inp }
  | .attempt i inp => .next (s.attempt i inp)

/-- The next act of the script; an empty script begins a cycle. -/
def State.stepAct (s : State) : Res :=
  match s.script with
  | [] => .next s.tick
  | a :: rest => ({ s with script := rest }).doAct a

end Sys2Proof.Machine
end

