-- ==== Sys2Proof/Machine/Step.lean ====
section
/-! DEFINITION. One step of the module, and where a table word is put for the next one. -/

namespace Sys2Proof.Machine

/-- One step: the next act of the script; an empty script begins a cycle. -/
def step (s : State) : Host.Outcome State Fault Refusal := s.stepAct

/-- A flue instruction of 32 bits as the next one of a drain of kiln 0: only the flue rows of the table have bits (log 11). -/
def State.withFetchWord (s : State) (nbits w : Nat) : State :=
  if nbits ≠ 32 then s
  else
    let d : Drain := {
      bank := 0, w := .kdrain ⟨0, 0, 0⟩, slot := 0, prog := [BitVec.ofNat 32 w], mask := 0, d := 0, stride := 0, side := [], row := 0,
      pc := 1, cnt := none, bdone := true, acc := 0, kpc := 0, issue := 0 }
    { s.modKiln 0 (fun k => { k with drain := some d }) with script := .flue 0 :: s.script }

end Sys2Proof.Machine
end

