-- ==== Sys2Proof/Safety.lean ====
section
/-! DEFINITION. What counts as a sound state and a safe run, and the words in which claims say what an instruction does. -/

namespace Sys2Proof.Machine

/-- Every memory of the module has its canonical form. -/
def State.memOk (s : State) : Prop := Memory.wf s.mem = true ∧ Memory.wf s.hostMem = true ∧ Memory.wf s.peerMem = true

/-- The next act comes from the module itself: it is no outside event and no flue instruction. -/
def State.ownAct (s : State) : Bool :=
  match s.script with
  | .event .. :: _ | .flue _ :: _ => false
  | _ => true

/-- A run of n steps that never stops. -/
def State.runs (s : State) (n : Nat) : Prop := ∃ t, Host.Core.run Sys2Proof.core n s = .next t

/-- A bundle context issues, at a parcel boundary of its own (R250). -/
def State.issuing (s : State) : Prop := s.cur.src ≤ 2 ∧ s.cur.pc.toNat % parcelBytes s.cur.src = 0

/-- The instruction's whole effect at issue is one operation put in flight, with no token, which lands `lat` cycles later;
its landing writes `ws` to scalar registers of its context, in that order, and nothing else. -/
def State.yields (s : State) (i : Instr) (lat : Nat) (ws : List (XReg × Word)) : Prop :=
  ∃ f : Flight, exec i s = .next (fly s f) ∧ f.i = i ∧ f.src = s.cur.src ∧ f.tok = none ∧ f.phase = .fixed ∧ f.live = true
    ∧ f.remain = lat ∧ ∀ k : Core, k.land f = (k.dropFlight f).putX s.cur.src ws

/-- The same for an operation of variable latency: it is attached to the parcel's token, and `lat` cycles are left. -/
def State.yieldsTok (s : State) (i : Instr) (lat : Nat) (ws : List (XReg × Word)) : Prop :=
  ∃ f : Flight, exec i s = .next (fly s f) ∧ f.i = i ∧ f.src = s.cur.src ∧ f.tok = s.cur.tok ∧ f.phase = .captured
    ∧ f.live = true ∧ f.remain = lat ∧ ∀ k : Core, k.land f = (k.dropFlight f).putX s.cur.src ws

/-- The parcel stops with a cause of Table 10-1, a DETAIL and an address, and the instruction has no other effect. -/
def State.stops (s : State) (i : Instr) (cause detail : Nat) (addr : Word) : Prop :=
  exec i s = .next (raiseAt s cause detail addr)

/-- The parcel's transfer of control, made as it ends: to `a`, the next parcel no earlier than issue + 3 when `late`. -/
def State.goes (s : State) (a : Word) (late : Bool) : State := { s with cur := { s.cur with jump := some a, late := late } }

/-- An engine's word is over: the issuing engine is `e` without a word in progress, its next word 8 bytes on. -/
def State.wordOver (s : State) (e : Eng) : State :=
  s.setMe (s.me.setEng s.ei { e with
    cur := none, pc := e.pc + 8, rel := none, waitFrom := 0, slotOk := false, acqs := e.acqs + 1 })

/-- The word in progress of the issuing engine is `w`. -/
def State.wordAt (s : State) (w : EWord) : State := s.setMe (s.me.setEng s.ei { s.en with cur := some w })

/-- A copy engine issues; the M stream issues. -/
def State.copies (s : State) : Prop := s.cur.src = 3 ∨ s.cur.src = 4
def State.mIssues (s : State) : Prop := s.cur.src = 5

end Sys2Proof.Machine
end

