-- ==== Sys2Proof/Certificates/Slice0/Obligations.lean ====
section
/-! DEFINITION. The statements for the provers: what the instructions, the events and the module do, by the numbered rules
of spec/. -/

open Sys2Proof Sys2Proof.Machine

/-- The integer register forms compute Table 14-1 (14_isa_scalar_control.md Table 14-1, 13_isa_formats_map.md Table
13-11). In every state in which a bundle context issues, and for all operand registers, ADD, SUB, AND, OR, XOR,
ANDN, MUL, MULH, MULHU, MIN, MAX, MINU, MAXU, SEQ, SNE, SLT, SLTU and SEL complete: each puts one operation in
flight that lands one cycle later (three for the multiplications) and writes to xd, and to nothing else, the value
Table 14-1 gives for the sources as read at issue. Arithmetic is modulo 2^64. -/
def Obligations.registerFormsWriteTheirResult : Prop :=
  ∀ (s : State) (o : R3) (xc : XReg), s.cur.src ≤ 2 →
    let a := s.my.rx o.xa
    let b := s.my.rx o.xb
    s.yields (.add o) 1 [(o.xd, BitVec.ofNat 64 (a.toNat + b.toNat))]
    ∧ s.yields (.sub o) 1 [(o.xd, BitVec.ofInt 64 (a.toInt - b.toInt))]
    ∧ s.yields (.and o) 1 [(o.xd, a &&& b)]
    ∧ s.yields (.or o) 1 [(o.xd, a ||| b)]
    ∧ s.yields (.xor o) 1 [(o.xd, a ^^^ b)]
    ∧ s.yields (.andn o) 1 [(o.xd, a &&& ~~~b)]
    ∧ s.yields (.mul o) 3 [(o.xd, BitVec.ofInt 64 (a.toInt * b.toInt))]
    ∧ s.yields (.mulh o) 3 [(o.xd, BitVec.ofInt 64 (a.toInt * b.toInt / 2 ^ 64))]
    ∧ s.yields (.mulhu o) 3 [(o.xd, BitVec.ofNat 64 (a.toNat * b.toNat / 2 ^ 64))]
    ∧ s.yields (.min o) 1 [(o.xd, BitVec.ofInt 64 (min a.toInt b.toInt))]
    ∧ s.yields (.max o) 1 [(o.xd, BitVec.ofInt 64 (max a.toInt b.toInt))]
    ∧ s.yields (.minu o) 1 [(o.xd, BitVec.ofNat 64 (min a.toNat b.toNat))]
    ∧ s.yields (.maxu o) 1 [(o.xd, BitVec.ofNat 64 (max a.toNat b.toNat))]
    ∧ s.yields (.seq o) 1 [(o.xd, if a = b then 1 else 0)]
    ∧ s.yields (.sne o) 1 [(o.xd, if a = b then 0 else 1)]
    ∧ s.yields (.slt o) 1 [(o.xd, if a.toInt < b.toInt then 1 else 0)]
    ∧ s.yields (.sltu o) 1 [(o.xd, if a.toNat < b.toNat then 1 else 0)]
    ∧ s.yields (.sel o xc) 1 [(o.xd, if s.my.rx xc = 0 then b else a)]

/-- Shifts, bit counts and bit fields, bit by bit (R278). In every state in which a bundle context issues, SHL, SHR,
SRA, ROTR, SHLI, SHRI, SRAI, CLZ, CTZ, POPC, BFX and BFI (the last two with POS + LEN at most 64) complete, land one
cycle later and write to xd the word that bit j of the sources defines: a shift takes its amount from the low 6 bits
of xb or from the immediate, CLZ and CTZ count up to the first set bit, POPC counts the set bits, BFX takes LEN bits
from POS, zero- or sign-extended, and BFI replaces LEN bits of xb from POS by the low bits of xa. With POS + LEN
above 64 both are ILLEGAL stops. In their words func[12] is SX, func[11:6] POS and func[5:0] LEN - 1; func[23:13],
xc, xb of BFX and SX of BFI must be zero. -/
def Obligations.shiftsCountsAndFieldsByBits : Prop :=
  (∀ (s : State) (o : R3) (q : R2) (h : Sh) (sx : Bool) (pos len1 : BitVec 6), s.cur.src ≤ 2 →
    pos.toNat + len1.toNat + 1 ≤ 64 →
    let a := s.my.rx o.xa
    let b := s.my.rx o.xb
    let n := b.toNat % 64
    let c := s.my.rx q.xa
    let d := s.my.rx h.xa
    let m := h.n.toNat
    let p := pos.toNat
    let l := len1.toNat + 1
    (∃ w : Word, s.yields (.shl o) 1 [(o.xd, w)] ∧ ∀ j < 64, w.getLsbD j = (decide (n ≤ j) && a.getLsbD (j - n)))
    ∧ (∃ w : Word, s.yields (.shr o) 1 [(o.xd, w)] ∧ ∀ j < 64, w.getLsbD j = a.getLsbD (j + n))
    ∧ (∃ w : Word, s.yields (.sra o) 1 [(o.xd, w)] ∧ ∀ j < 64, w.getLsbD j = if j + n < 64 then a.getLsbD (j + n) else a.getLsbD 63)
    ∧ (∃ w : Word, s.yields (.rotr o) 1 [(o.xd, w)] ∧ ∀ j < 64, w.getLsbD j = a.getLsbD ((j + n) % 64))
    ∧ (∃ w : Word, s.yields (.shli h) 1 [(h.xd, w)] ∧ ∀ j < 64, w.getLsbD j = (decide (m ≤ j) && d.getLsbD (j - m)))
    ∧ (∃ w : Word, s.yields (.shri h) 1 [(h.xd, w)] ∧ ∀ j < 64, w.getLsbD j = d.getLsbD (j + m))
    ∧ (∃ w : Word, s.yields (.srai h) 1 [(h.xd, w)] ∧ ∀ j < 64, w.getLsbD j = if j + m < 64 then d.getLsbD (j + m) else d.getLsbD 63)
    ∧ (∃ z : Nat, s.yields (.clz q) 1 [(q.xd, BitVec.ofNat 64 z)] ∧ z ≤ 64 ∧ c.toNat < 2 ^ (64 - z)
        ∧ (z < 64 → 2 ^ (63 - z) ≤ c.toNat))
    ∧ (∃ z : Nat, s.yields (.ctz q) 1 [(q.xd, BitVec.ofNat 64 z)] ∧ z ≤ 64 ∧ (∀ j < z, c.getLsbD j = false)
        ∧ (z < 64 → c.getLsbD z = true))
    ∧ s.yields (.popc q) 1 [(q.xd, BitVec.ofNat 64 (((List.range 64).filter (fun j => c.getLsbD j)).length))]
    ∧ (∃ w : Word, s.yields (.bfx q sx pos len1) 1 [(q.xd, w)] ∧
        ∀ j < 64, w.getLsbD j = if j < l then c.getLsbD (p + j) else (sx && c.getLsbD (p + l - 1)))
    ∧ (∃ w : Word, s.yields (.bfi o pos len1) 1 [(o.xd, w)] ∧
        ∀ j < 64, w.getLsbD j = if p ≤ j ∧ j < p + l then a.getLsbD (j - p) else b.getLsbD j))
  ∧ (∀ (s : State) (o : R3) (q : R2) (sx : Bool) (pos len1 : BitVec 6), s.cur.src ≤ 2 → 64 < pos.toNat + len1.toNat + 1 →
      s.stops (.bfx q sx pos len1) 4 0 0 ∧ s.stops (.bfi o pos len1) 4 0 0)
  ∧ (∀ (o : R3) (q : R2) (sx : Bool) (pos len1 : BitVec 6), pos.toNat + len1.toNat + 1 ≤ 64 →
      encode (.bfx q sx pos len1) = some (.sc, 0x1E * 2 ^ 48 + q.xd.toNat * 2 ^ 42 + q.xa.toNat * 2 ^ 36 + sx.toNat * 2 ^ 12
          + pos.toNat * 2 ^ 6 + len1.toNat)
      ∧ encode (.bfi o pos len1) = some (.sc, 0x1F * 2 ^ 48 + o.xd.toNat * 2 ^ 42 + o.xa.toNat * 2 ^ 36 + o.xb.toNat * 2 ^ 30
          + pos.toNat * 2 ^ 6 + len1.toNat))
  ∧ (∀ w, (Cls.sc.opcode w = 0x1E → (fldN w 13 17 ≠ 0 ∨ fldN w 30 6 ≠ 0) → decodeOpt .sc w = none)
      ∧ (Cls.sc.opcode w = 0x1F → fldN w 12 18 ≠ 0 → decodeOpt .sc w = none))

/-- DIV, DIVU, REM and REMU (14_isa_scalar_control.md, Integer register forms, 0x01–0x1F, 13_isa_formats_map.md
Table 13-11). In every state in which a bundle context issues and has no divide in flight, DIV, DIVU, REM and REMU
complete with the parcel's token and land 6 + 2 * ceil(n / 4) cycles later, at most 38, n being the number of
significant bits of the dividend's magnitude (for every n with 2^(n-1) at most the magnitude below 2^n, and 0 for
0). DIV and REM truncate toward zero, the remainder taking the sign of xa; a zero divisor gives all ones and xa; DIV
of -2^63 by -1 gives -2^63 and REM 0. While a divide of the context is in flight, a second one stalls at issue with
no other effect. -/
def Obligations.dividesTruncateTowardZero : Prop :=
  ∀ (s : State) (o : R3), s.cur.src ≤ 2 →
    let a := s.my.rx o.xa
    let b := s.my.rx o.xb
    let lat (n : Nat) : Nat := 6 + min 32 (2 * ((n + 3) / 4))
    let busy : Bool := s.me.flights.any (fun f => f.src == s.cur.src &&
      (match f.i with | .div _ | .divu _ | .rem _ | .remu _ => true | _ => false))
    (busy = false → ∀ n m : Nat, a.toInt.natAbs < 2 ^ n → (n ≠ 0 → 2 ^ (n - 1) ≤ a.toInt.natAbs) →
        a.toNat < 2 ^ m → (m ≠ 0 → 2 ^ (m - 1) ≤ a.toNat) →
      s.yieldsTok (.div o) (lat n) [(o.xd, if b = 0 then BitVec.allOnes 64 else BitVec.ofInt 64 (a.toInt.tdiv b.toInt))]
      ∧ s.yieldsTok (.rem o) (lat n) [(o.xd, if b = 0 then a else BitVec.ofInt 64 (a.toInt.tmod b.toInt))]
      ∧ s.yieldsTok (.divu o) (lat m) [(o.xd, if b = 0 then BitVec.allOnes 64 else BitVec.ofNat 64 (a.toNat / b.toNat))]
      ∧ s.yieldsTok (.remu o) (lat m) [(o.xd, if b = 0 then a else BitVec.ofNat 64 (a.toNat % b.toNat))])
    ∧ (busy = true → exec (.div o) s = .next (stallOn s .other) ∧ exec (.divu o) s = .next (stallOn s .other)
      ∧ exec (.rem o) s = .next (stallOn s .other) ∧ exec (.remu o) s = .next (stallOn s .other))

/-- The immediate forms compute Table 14-2 (14_isa_scalar_control.md Table 14-2, 13_isa_formats_map.md Table 13-11).
In every state in which a bundle context issues, ADDI, ANDI, ORI, XORI, MULI, SLTI, SLTUI, SEQI, LI, LIC, ADDPC and
LEA complete, land one cycle later (MULI three) and write to xd, and to nothing else, the value of Table 14-2;
signed immediates are sign-extended from imm30[29], unsigned ones zero-extended. -/
def Obligations.immediateFormsWriteTheirResult : Prop :=
  ∀ (s : State) (o : I2) (xd : XReg) (imm : BitVec 30) (p : R3) (k : BitVec 3) (d : BitVec 27), s.cur.src ≤ 2 →
    let a := s.my.rx o.xa
    let si : Int := o.imm.toInt
    let ui : Nat := o.imm.toNat
    s.yields (.addi o) 1 [(o.xd, BitVec.ofInt 64 (a.toInt + si))]
    ∧ s.yields (.andi o) 1 [(o.xd, a &&& BitVec.ofNat 64 ui)]
    ∧ s.yields (.ori o) 1 [(o.xd, a ||| BitVec.ofNat 64 ui)]
    ∧ s.yields (.xori o) 1 [(o.xd, a ^^^ BitVec.ofNat 64 ui)]
    ∧ s.yields (.muli o) 3 [(o.xd, BitVec.ofInt 64 (a.toInt * si))]
    ∧ s.yields (.slti o) 1 [(o.xd, if a.toInt < si then 1 else 0)]
    ∧ s.yields (.sltui o) 1 [(o.xd, if a.toNat < (BitVec.ofInt 64 si).toNat then 1 else 0)]
    ∧ s.yields (.seqi o) 1 [(o.xd, if a.toInt = si then 1 else 0)]
    ∧ s.yields (.li xd imm) 1 [(xd, BitVec.ofInt 64 imm.toInt)]
    ∧ s.yields (.lic o) 1 [(o.xd, BitVec.ofNat 64 (a.toNat * 2 ^ 30 + ui))]
    ∧ s.yields (.addpc xd imm) 1 [(xd, BitVec.ofInt 64 (s.cur.pc.toNat + imm.toInt))]
    ∧ s.yields (.lea p k d) 1
        [(p.xd, BitVec.ofInt 64 ((s.my.rx p.xa).toNat + (s.my.rx p.xb).toNat * 2 ^ k.toNat + d.toInt))]

/-- x0 reads zero and discards what is written (06_execution_model.md Table 6-2, 14_isa_scalar_control.md, Rules
common to every SC syllable). Whatever list of register writes lands in a context, x0 reads 0 before and after, a
write of x0 changes nothing, and after one write of another register that register reads the value and every other
register reads as before. -/
def Obligations.x0DiscardsAndReadsZero : Prop :=
  ∀ (t : Ctx) (r q : XReg) (w : Word) (k : Core) (x : Nat) (l : List (XReg × Word)),
    t.rx 0 = 0 ∧ ((k.putX x l).ctx x).rx 0 = 0 ∧ t.wx 0 w = t
    ∧ (r ≠ 0 → (t.wx r w).rx r = w) ∧ (q ≠ r → (t.wx r w).rx q = t.rx q)

/-- Branches, JR and CALL (R280). In every state in which a bundle context issues at an aligned PC with no LOOPM
active, BR, BRZ, BRNZ, BRLT, BRGE, BRLTU and BRGEU complete: taken exactly on their condition, to PC + offset * u (u
is 16 bytes in L and S, 32 in K), with the next parcel no earlier than issue + 3, and with no effect when not taken;
JR to an address that is a multiple of u transfers there, and any other address is an ALIGN stop of the JR; CALL
transfers to PC + offset * u and its link PC + u lands in x31 at issue + 1. Under an active LOOPM each of them is a
LOOPFORM stop, taken or not. The branches are I forms with the opcodes 0x30 to 0x36, xd zero, and xa and xb zero
where the form omits them. -/
def Obligations.branchesTransferWhenTaken : Prop :=
  (∀ (s : State) (xa xb : XReg) (off : BitVec 30), s.issuing →
    let u : Nat := if s.cur.src = 1 then 32 else 16
    let a := s.my.rx xa
    let b := s.my.rx xb
    let t : Word := BitVec.ofInt 64 (s.cur.pc.toNat + off.toInt * u)
    let dst (c : Prop) [Decidable c] (i : Instr) : Prop := exec i s = .next (if c then s.goes t true else s)
    (s.my.seq = none →
      dst True (.br off) ∧ dst (a = 0) (.brz xa off) ∧ dst (a ≠ 0) (.brnz xa off)
      ∧ dst (a.toInt < b.toInt) (.brlt xa xb off) ∧ dst (b.toInt ≤ a.toInt) (.brge xa xb off)
      ∧ dst (a.toNat < b.toNat) (.brltu xa xb off) ∧ dst (b.toNat ≤ a.toNat) (.brgeu xa xb off)
      ∧ (a.toNat % u = 0 → exec (.jr xa) s = .next (s.goes a true))
      ∧ (a.toNat % u ≠ 0 → s.stops (.jr xa) 8 0 a)
      ∧ ∃ f : Flight, exec (.call off) s = .next ((fly s f).goes t true) ∧ f.src = s.cur.src ∧ f.tok = none
        ∧ f.phase = .fixed ∧ f.live = true ∧ f.remain = 1
        ∧ ∀ k : Core, k.land f = (k.dropFlight f).putX s.cur.src [(31, s.cur.pc + BitVec.ofNat 64 u)])
    ∧ (s.my.seq.isSome → ∀ i ∈ [Instr.br off, .brz xa off, .brnz xa off, .brlt xa xb off, .brge xa xb off,
        .brltu xa xb off, .brgeu xa xb off, .jr xa, .call off], s.stops i 10 0 0))
  ∧ (∀ (xa xb : XReg) (off : BitVec 30),
      let word (op : Nat) (a b : XReg) : Option (Cls × Nat) :=
        some (.sc, op * 2 ^ 48 + a.toNat * 2 ^ 36 + b.toNat * 2 ^ 30 + off.toNat)
      encode (.br off) = word 0x30 0 0 ∧ encode (.brz xa off) = word 0x31 xa 0 ∧ encode (.brnz xa off) = word 0x32 xa 0
      ∧ encode (.brlt xa xb off) = word 0x33 xa xb ∧ encode (.brge xa xb off) = word 0x34 xa xb
      ∧ encode (.brltu xa xb off) = word 0x35 xa xb ∧ encode (.brgeu xa xb off) = word 0x36 xa xb
      ∧ ∀ w, 0x30 ≤ Cls.sc.opcode w → Cls.sc.opcode w ≤ 0x36 → (fldN w 42 6 ≠ 0
          ∨ (Cls.sc.opcode w = 0x30 ∧ fldN w 36 6 ≠ 0) ∨ (Cls.sc.opcode w ≤ 0x32 ∧ fldN w 30 6 ≠ 0)) → decodeOpt .sc w = none)

/-- BRLC decrements, branches while positive, and rotates in K (R285). In every state in which a bundle context
issues at an aligned PC with no LOOPM active, BRLC completes: xa - 1 lands in xd at issue + 1; it is taken to PC +
offset * u exactly when that value is positive as a signed one, without an added cycle, and one that falls through
issues its successor no earlier than issue + 3; in K, taken or not, a rotation falls due with the parcel, which,
made as the SCYC ends, sets RRB to (RRB + 47) mod 48 and PRB to (PRB + 7) mod 8, so that what was written to v16 and
p8 then reads as v17 and p9; in L and S nothing rotates. Under an active LOOPM it is a LOOPFORM stop. -/
def Obligations.brlcCountsDownAndRotates : Prop :=
  (∀ (s : State) (o : I2), s.issuing → s.my.seq = none →
    let u : Nat := if s.cur.src = 1 then 32 else 16
    let v := s.my.rx o.xa - 1
    ∃ (f : Flight) (t : State), exec (.brlc o) s = .next t ∧ f.i = .brlc o ∧ f.src = s.cur.src ∧ f.tok = none
      ∧ f.phase = .fixed ∧ f.live = true ∧ f.remain = 1
      ∧ (∀ k : Core, k.land f = (k.dropFlight f).putX s.cur.src [(o.xd, v)])
      ∧ t = { fly s f with cur := { s.cur with
          brlc := decide (s.cur.src = 1),
          jump := if 0 < v.toInt then some (BitVec.ofInt 64 (s.cur.pc.toNat + o.imm.toInt * u)) else s.cur.jump,
          late := !decide (0 < v.toInt) } })
  ∧ (∀ (s : State) (o : I2), s.cur.src ≤ 2 → s.my.seq.isSome → s.stops (.brlc o) 10 0 0)
  ∧ (∀ (k : Core) (x : Nat) (c : Cur), (k.ctx x).seq = none →
      (k.nextParcel x c).sys = k.sys ∧ (k.nextParcel x c).rot = (c.brlc || k.rot))
  ∧ (∀ k : Core, (k.rot = false → k.rotDue = k)
      ∧ (k.rot = true → k.rotDue.rot = false ∧ k.rotDue.sys.rrb = (k.sys.rrb + 47) % 48 ∧ k.rotDue.sys.prb = (k.sys.prb + 7) % 8
        ∧ (k.sys.rrb < 48 → k.sys.prb < 8 →
          (∀ n, 16 ≤ n → n < 63 → k.rotDue.vphys (n + 1) = k.vphys n)
          ∧ (∀ n, 8 ≤ n → n < 15 → k.rotDue.pphys (n + 1) = k.pphys n))))

/-- LOOP opens a counted loop (14_isa_scalar_control.md, Hardware loops, 0x39–0x3C). In every state in which a
bundle context issues, LOOP with len from 1 to 65,536, a count below 2^32, fewer than four entries on the loop stack
and no LOOPM active completes: with a count above 0 it opens the entry of the start (the parcel after LOOP), the
count and the end offset, which lies on the stack from the next parcel on, above what the tests of the loops that
end at LOOP's own parcel leave of it, and nothing else changes; with a count of 0 nothing is pushed and the next
parcel is the one after the body, no earlier than issue + 3, unless a loop that ends at LOOP's own parcel goes
round, whose start then follows with no added cycle. In every other case it is a LOOPFORM stop at issue. What
happens at a parcel that ends other bodies is the model's reading (log 47). -/
def Obligations.loopOpensACountedLoop : Prop :=
  (∀ (s : State) (xa : XReg) (len : BitVec 30), s.cur.src ≤ 2 →
    let u : Nat := if s.cur.src = 1 then 32 else 16
    let n := (s.my.rx xa).toNat
    let l := len.toNat
    let ok : Prop := 1 ≤ l ∧ l ≤ 65536 ∧ n < 2 ^ 32 ∧ s.my.loops.length < 4 ∧ s.my.seq = none
    (ok → 0 < n → exec (.loop xa len) s = .next { s with cur := { s.cur with
        push := some ⟨s.cur.pc + BitVec.ofNat 64 u, n, u * (l - 1)⟩ } })
    ∧ (ok → n = 0 → exec (.loop xa len) s = .next { s with cur := { s.cur with
        jump := some (s.cur.pc + BitVec.ofNat 64 (u * (l + 1))), late := true, skip := true } })
    ∧ (¬ ok → s.stops (.loop xa len) 10 0 0))
  ∧ (∀ (k : Core) (x : Nat) (c : Cur) (e : LoopEnt), c.push = some e → c.jump = none → (k.ctx x).seq = none →
      let r := (k.nextParcel x c).ctx x
      let q := (k.nextParcel x { c with push := none }).ctx x
      r.loops = e :: q.loops ∧ r.pc = q.pc)

/-- The next parcel: fall through, transfer, and the end of a counted loop (14_isa_scalar_control.md, Hardware
loops, 0x39–0x3C). With no LOOPM active and no loop opened by the parcel, the context's next PC after a parcel is
the target of its transfer if it made one, LOOP's skip of its body counting as a transfer only where no loop ends at
its parcel; otherwise, when the parcel is the end parcel of the innermost entry, the count falls by 1 and the next
parcel is the start while the count is not 0, and at 0 the entry is popped and the next one is tested at the same
parcel; otherwise it is the following parcel with the stack as it was. A transfer from a parcel that ends no loop of
the stack leaves the stack alone. That a LOOP's skip yields to a loop which ends at its parcel is the model's
reading (log 47). -/
def Obligations.loopClosesAtItsEndParcel : Prop :=
  ∀ (k : Core) (x : Nat) (c : Cur) (e : LoopEnt) (rest : List LoopEnt), (k.ctx x).seq = none → c.push = none →
    let t := k.ctx x
    let r := (k.nextParcel x c).ctx x
    let next := c.pc + BitVec.ofNat 64 (parcelBytes x)
    let fin (e : LoopEnt) : Word := e.start + BitVec.ofNat 64 e.endOff
    (∀ a, c.jump = some a → c.skip = false → r.pc = a)
    ∧ (∀ a, c.jump = some a → c.skip = true → (∀ e ∈ t.loops, fin e ≠ c.pc) → r.pc = a)
    ∧ (∀ a, c.jump = some a → c.skip = true → t.loops = e :: rest → fin e = c.pc → 2 ≤ e.count →
        r.pc = e.start ∧ r.loops = { e with count := e.count - 1 } :: rest)
    ∧ (∀ a, c.jump = some a → (∀ e ∈ t.loops, fin e ≠ c.pc) → r.loops = t.loops)
    ∧ (c.jump = none → t.loops = [] → r.pc = next ∧ r.loops = [])
    ∧ (c.jump = none → t.loops = e :: rest → fin e ≠ c.pc → r.pc = next ∧ r.loops = t.loops)
    ∧ (c.jump = none → t.loops = e :: rest → fin e = c.pc → 2 ≤ e.count →
        r.pc = e.start ∧ r.loops = { e with count := e.count - 1 } :: rest)
    ∧ (c.jump = none → t.loops = e :: rest → fin e = c.pc → e.count ≤ 1 →
        let r' := ((k.modCtx x (fun t => { t with loops := rest })).nextParcel x c).ctx x
        r.pc = r'.pc ∧ r.loops = r'.loops)

/-- LOOPM starts the sequencer and LEXIT leaves a loop (14_isa_scalar_control.md, Hardware loops, 0x39–0x3C). In
every state in which K issues with no LOOPM active and a trip count below 2^32, LOOPM completes: with a trip above 0
the sequencer starts at the next parcel with ii parcels, ns stages, kernel step 0 and cycle 0, and with a trip of 0
the next parcel is the one after the body, no earlier than issue + 3 (unless a LOOP that ends at LOOPM's parcel goes
round). LOOPM in L or S is an ILLEGAL stop; inside a LOOPM, or with a count of 2^32 or more, a LOOPFORM stop. In
every state in which a context issues, LEXIT with an entry on the stack and no LOOPM active completes: it pops the
innermost entry and goes to the parcel after that entry's end parcel, no earlier than issue + 3, instead of any loop
test; otherwise it is a LOOPFORM stop. Its word is the opcode 0x3C with every other field zero, and a word of that
opcode with another field set is no instruction. What a skipped LOOPM does at a parcel that ends a body is the
model's reading (log 47). -/
def Obligations.loopmAndLexit : Prop :=
  (∀ (s : State) (xa : XReg) (ns1 : BitVec 3) (ii1 : BitVec 10),
    let n := (s.my.rx xa).toNat
    let ii := ii1.toNat + 1
    (s.cur.src = 1 → s.my.seq = none → 0 < n → n < 2 ^ 32 → exec (.loopm xa ns1 ii1) s = .next (
      { s.modMy (fun t => { t with seq := some ⟨s.cur.pc + 32, ii, ns1.toNat + 1, n, 0, 0⟩ }) with
        cur := { s.cur with jump := some (s.cur.pc + 32), late := false, skip := true } }))
    ∧ (s.cur.src = 1 → s.my.seq = none → n = 0 → exec (.loopm xa ns1 ii1) s = .next { s with
        cur := { s.cur with jump := some (s.cur.pc + BitVec.ofNat 64 (32 * (ii + 1))), late := true, skip := true } })
    ∧ (s.cur.src = 1 → (s.my.seq.isSome ∨ 2 ^ 32 ≤ n) → s.stops (.loopm xa ns1 ii1) 10 0 0)
    ∧ (s.cur.src = 0 ∨ s.cur.src = 2 → s.stops (.loopm xa ns1 ii1) 4 0 0))
  ∧ (∀ (s : State) (e : LoopEnt) (rest : List LoopEnt), s.cur.src ≤ 2 →
    let u : Nat := if s.cur.src = 1 then 32 else 16
    (s.my.seq = none → s.my.loops = e :: rest → exec .lexit s = .next (
      { s.modMy (fun t => { t with loops := rest }) with
        cur := { s.cur with jump := some (e.start + BitVec.ofNat 64 (e.endOff + u)), late := true, lexit := true } }))
    ∧ ((s.my.seq.isSome ∨ s.my.loops = []) → s.stops .lexit 10 0 0))
  ∧ (∀ (k : Core) (x : Nat) (c : Cur) (a : Word), c.jump = some a → c.lexit = true → c.skip = false →
      ((k.nextParcel x c).ctx x).pc = a ∧ ((k.nextParcel x c).ctx x).loops = (k.ctx x).loops)
  ∧ (∀ (k : Core) (x : Nat) (c : Cur) (a : Word) (q : Seqr), c.jump = some a → c.skip = true → (k.ctx x).seq = some q →
      ((k.nextParcel x c).ctx x).pc = a ∧ ((k.nextParcel x c).ctx x).seq = some q)
  ∧ encode .lexit = some (.sc, 0x3C * 2 ^ 48)
  ∧ ∀ w, Cls.sc.opcode w = 0x3C → fldN w 0 48 ≠ 0 → decodeOpt .sc w = none

/-- QPUSH, QPOP and QPEEK act on a FIFO of eight entries (06_execution_model.md, Queues, 14_isa_scalar_control.md,
Queues, flags and rendezvous, 0x40–0x46). In every state in which a bundle context issues: QPUSH to a queue with
fewer than eight entries (and with no earlier context waiting to push to it in this cycle) completes at issue by
appending xa, and to a full queue it stalls; QPOP and QPEEK on a queue whose head entry was there before this cycle
complete with the parcel's token: a filled head's value lands in xd two cycles later, a reserved head's once its LDQ
has filled it; QPOP takes the head entry, QPEEK leaves the queue as it is; on a queue without such an entry both
stall. Other queues are unchanged. -/
def Obligations.queuesAreFifos : Prop :=
  ∀ (s : State) (q : BitVec 3) (r : XReg), s.cur.src ≤ 2 →
    let x := s.me.que q.toNat
    let free : Prop := s.cur.dry = true ∨ ∀ y < s.cur.src, (s.me.ctx y).wait ≠ some (.queue q true)
    (x.ents.length < 8 → free → ∃ t, exec (.qpush q r) s = .next t ∧ t.cur = s.cur
        ∧ t.me.que q.toNat = { ents := x.ents ++ [{ val := some (s.my.rx r), src := 0, lock := none }], fresh := x.fresh + 1 }
        ∧ ∀ p, p ≠ q.toNat → t.me.que p = s.me.que p)
    ∧ (8 ≤ x.ents.length → exec (.qpush q r) s = .next (stallOn s (.queue q true)))
    ∧ (∀ e rest, x.ents = e :: rest → x.fresh < x.ents.length →
        (∃ t f, exec (.qpop r q) s = .next t ∧ t.cur = s.cur ∧ t.me.flights = s.me.flights ++ [f]
          ∧ t.me.que q.toNat = { x with ents := rest } ∧ (∀ p, p ≠ q.toNat → t.me.que p = s.me.que p)
          ∧ f.i = .qpop r q ∧ f.src = s.cur.src ∧ f.tok = s.cur.tok
          ∧ (∀ v, e.val = some v → f.phase = .captured ∧ f.live = true ∧ f.remain = 2
              ∧ ∀ k : Core, k.land f = (k.dropFlight f).putX s.cur.src [(r, v)])
          ∧ (e.val = none → f.phase = .unsent ∧ f.live = false ∧ f.dest = e.src))
        ∧ (∃ t f, exec (.qpeek r q) s = .next t ∧ t.cur = s.cur ∧ t.me.flights = s.me.flights ++ [f]
          ∧ (∀ p, t.me.que p = s.me.que p) ∧ f.i = .qpeek r q ∧ f.src = s.cur.src ∧ f.tok = s.cur.tok
          ∧ (∀ v, e.val = some v → f.phase = .captured ∧ f.live = true ∧ f.remain = 2
              ∧ ∀ k : Core, k.land f = (k.dropFlight f).putX s.cur.src [(r, v)])
          ∧ (e.val = none → f.phase = .unsent ∧ f.live = false ∧ f.dest = e.src)))
    ∧ (x.ents.length ≤ x.fresh → exec (.qpop r q) s = .next (stallOn s (.queue q false))
        ∧ exec (.qpeek r q) s = .next (stallOn s (.queue q false)))

/-- FSET, FINC and FWAIT (06_execution_model.md, Flags, 14_isa_scalar_control.md, Queues, flags and rendezvous,
0x40–0x46). In every state in which a bundle context issues and for annotations ord none or rel: once no acquire of
the stream lacks its data and, with rel, the wait of the release is over, FSET completes and its flag change to
xa[31:0] is due at issue + 1; FINC to the issuer's own core then completes and its increment by xb[31:0] is due at
issue + 1; before that both stall; FINC to another core completes by entering the stream's writes, to be presented
two cycles later; FINC to a core of 512 or more is an ACCESS stop. FWAIT whose flag has reached xb[31:0], when (flag
- target) mod 2^32 is below 2^31, completes once no acquire of the stream lacks its data: 0 lands in xd one cycle
later (with a new L1 generation when the flag carries a release of die scope or wider and no sweep is in the way);
released with a code, it completes with that code; otherwise it stalls. The FSETs that reach a flag in one cycle set
it in context order and then every increment is added, modulo 2^32. That FSET and a local FINC wait for an acquire
or a release by stalling is the model's reading (log 69), and so is that a remote FINC is presented two cycles later
(log 7). -/
def Obligations.flagsSetAddAndWait : Prop :=
  (∀ (s : State) (os : OS) (f : BitVec 6) (xa xb xd : XReg), s.cur.src ≤ 2 → os.relOk = true →
    let a := s.my.rx xa
    let v : BitVec 32 := BitVec.ofNat 32 (s.my.rx xb).toNat
    let rest (i : Instr) (g : Flight) : Prop := exec i s = .next (fly s g) ∧ g.i = i ∧ g.src = s.cur.src ∧ g.tok = none ∧ g.dest = f.toNat
    let free : Prop := s.me.acqAway s.cur.src = false
      ∧ (isRel os = true → s.released s.cur.core s.cur.src s.me.nextId os.scope = true)
    (free → ∃ g, rest (.fset os f xa) g ∧ g.phase = .fixed ∧ g.live = true ∧ g.remain = 1
      ∧ flagSets [g] s.cur.src = [(s.cur.src, f.toNat, BitVec.ofNat 32 a.toNat, g.data)])
    ∧ (¬ free → exec (.fset os f xa) s = .next (stallOn s .other)
        ∧ (a.toNat = s.cur.core → s.cur.core < 512 → exec (.finc os f xa xb) s = .next (stallOn s .other)))
    ∧ (free → a.toNat = s.cur.core → s.cur.core < 512 → ∃ g, rest (.finc os f xa xb) g ∧ g.phase = .fixed ∧ g.live = true ∧ g.remain = 1
      ∧ flagIncs s.cur.core [g] = [⟨3 + 4 * s.cur.core + s.cur.src, f.toNat, v, g.data⟩])
    ∧ (a.toNat ≠ s.cur.core → a.toNat < 512 → ∃ g, rest (.finc os f xa xb) g ∧ g.phase = .unsent ∧ g.remain = 2 ∧ g.ea = a
      ∧ nthW g.ops 0 = v.zeroExtend 64)
    ∧ (512 ≤ a.toNat → s.stops (.finc os f xa xb) 6 0 a)
    ∧ (s.my.rel = none → (s.me.flag f.toNat - v).toNat < 2 ^ 31 → s.me.acqAway s.cur.src = false → (3 ≤ mget 0 s.me.flagOs f.toNat → s.me.bumpWaits = false) →
        ∃ t g, exec (.fwait xd f xb) s = .next t ∧ t.cur.verdict = .go ∧ t.me.flights = s.me.flights ++ [g]
          ∧ t.me.l1gen = (if 3 ≤ mget 0 s.me.flagOs f.toNat then s.me.l1gen + 1 else s.me.l1gen)
          ∧ g.phase = .fixed ∧ g.live = true ∧ g.remain = 1 ∧ ∀ k : Core, k.land g = (k.dropFlight g).putX s.cur.src [(xd, 0)])
    ∧ (∀ r, s.my.rel = some r → ∃ t g, exec (.fwait xd f xb) s = .next t ∧ t.cur.verdict = .go
          ∧ t.me.flights = s.me.flights ++ [g] ∧ g.phase = .fixed ∧ g.live = true ∧ g.remain = 1
          ∧ ∀ k : Core, k.land g = (k.dropFlight g).putX s.cur.src [(xd, BitVec.ofNat 64 (r % 256))])
    ∧ (s.my.rel = none → 2 ^ 31 ≤ (s.me.flag f.toNat - v).toNat → exec (.fwait xd f xb) s = .next (stallOn s (.flag f v))))
  ∧ (∀ (k : Core) (own : Nat) (sets : List (Nat × Nat × BitVec 32 × Nat)) (incs : List FlagInc) (f : Nat),
      (k.flagCycle own sets incs).flag f =
        ((incs.filter (fun i => i.flag == f)).map (fun i => i.val)).foldl (· + ·)
          (((sets.filter (fun e => e.2.1 == f)).getLast?.map (fun e => e.2.2.1)).getD (k.flag f)))

/-- SC_NOP, MC_NOP, VNOP, SAFEPT, TYIELD and RDV (13_isa_formats_map.md, Parcels, 14_isa_scalar_control.md, Safe
points, 14_isa_scalar_control.md, Sample-group and tournament instructions, 0x50–0x58, 14_isa_scalar_control.md,
Queues, flags and rendezvous, 0x40–0x46, 16_isa_vector.md, Tiles, operands and results). TYIELD in a rival of a
scope that is not in its last round notes that rival's yield at issue, and has no effect in any other job. In every
state in which a bundle context issues, SC_NOP and MC_NOP complete without effect, VNOP does in K, and SAFEPT does
unless a pre-emption request is pending outside handler mode, in which case it stalls its parcel. RDV that has been
released completes without effect; until then it stalls its context at the rendezvous, or, while a read of its
stream is not bound, a write of it not accepted, or a pass or a drain of it still to come, before arriving. The edge
at which every running stream has arrived releases all of them. TYIELD's request is in its own core's hands at the
end of its cycle. The stall of an RDV that has not arrived (logs 41 and 69) and TYIELD's carrying no token (log 50)
are the model's readings. -/
def Obligations.noEffectAndTimingSyllables : Prop :=
  (∀ (s : State) (idx : BitVec 16), s.cur.src ≤ 2 → idx.toNat ≤ 65534 →
    exec .scNop s = .next s ∧ exec .mcNop s = .next s ∧ (s.cur.src = 1 → exec .vnop s = .next s)
    ∧ (s.me.preempt = none ∨ s.me.hmode = true → exec (.safept idx) s = .next s)
    ∧ (s.me.preempt.isSome → s.me.hmode = false → exec (.safept idx) s = .next (stallOn s (.safept idx)))
    ∧ (s.my.rel.isSome → exec .rdv s = .next s)
    ∧ (s.my.rel = none → s.me.heldBack s.cur.src = false → exec .rdv s = .next (stallOn s .rdv))
    ∧ (s.my.rel = none → s.me.heldBack s.cur.src = true → exec .rdv s = .next (stallOn s .other))
    ∧ (s.me.isRival = false → exec .tyield s = .next s)
    ∧ (∀ n j w v, s.me.kind = some (.rival n j) → s.tour n = some w → w.last = false → w.riv j = some v →
        ∃ t w', exec .tyield s = .next t ∧ t.tour n = some w' ∧ w'.riv j = some { v with yield := true }
          ∧ (∀ i, i ≠ j → w'.riv i = w.riv i) ∧ t.cores = s.cores ∧ t.cur = s.cur ∧ (n, j, s.cur.core, 0) ∈ t.hub.stopAsks))
  ∧ (∀ (k : Core) (x : Nat), x ≤ 2 → k.meets = true → (k.ctx x).st.isRun = true → (k.meet.ctx x).rel = some 0)

/-- TRAP, BKPT and HALT, and RESUME where it may not issue (14_isa_scalar_control.md, System instructions,
0x70–0x7A, 10_stops_and_embers.md Table 10-1). In every state in which a bundle context issues, TRAP stops its
parcel with cause 3 and BKPT with cause 1, DETAIL being the immediate; RESUME outside the handler mode of K is a
PRIV stop; HALT outside a LOOPM completes: in handler mode it ends the job, elsewhere its context issues nothing
more and ends once its results have landed; under a LOOPM it is a LOOPFORM stop. -/
def Obligations.trapsStopWithTheirDetail : Prop :=
  ∀ (s : State) (imm : BitVec 8), s.cur.src ≤ 2 →
    s.stops (.trap imm) 3 imm.toNat 0 ∧ s.stops (.bkpt imm) 1 imm.toNat 0
    ∧ (s.me.hmode = false ∨ s.cur.src ≠ 1 → s.stops .resume 5 0 0)
    ∧ (s.my.seq = none → s.me.hmode = true → exec .halt s = .next (s.modMe (fun k => { k with hjob := true })))
    ∧ (s.my.seq = none → s.me.hmode = false → exec .halt s = .next (s.modMy (fun t => { t with halting := true })))
    ∧ (s.my.seq.isSome → s.stops .halt 10 0 0)

/-- RDS and WRS on every register of Table 14-6 (14_isa_scalar_control.md Table 14-6, 14_isa_scalar_control.md,
System instructions, 0x70–0x7A). In every state in which a bundle context issues, RDS of a register of Table 14-6
completes and lands two cycles later with that register as it stands at issue, zero-extended; WRS completes for a
read-write register and a value without reserved bits, and its landing at issue + 1 sets FPCTL, SRSEED, SRCNT, TVEC,
RRB or PRB to the value, or clears in FPST the bits that are 1, and changes nothing else. WRS of a read-only
register is a PRIV stop; a number outside the table, a value with a reserved bit or out of range, and RRB or PRB
from L or S are ILLEGAL stops. That RDS of RRB and PRB from L or S reads K's values is the model's reading (log 50). -/
def Obligations.systemRegistersReadAndWrite : Prop :=
  ∀ (s : State) (xd xa : XReg) (n : BitVec 12), s.cur.src ≤ 2 →
    let k := s.me
    let v := s.my.rx xa
    let table : List (Nat × Word) := [(0x000, k.sys.fpctl.setWidth 64), (0x001, k.sys.fpst.setWidth 64),
      (0x002, k.sys.srseed.setWidth 64), (0x003, k.sys.srcnt.setWidth 64), (0x008, k.scyc.setWidth 64),
      (0x009, BitVec.ofNat 64 s.cur.core), (0x00A, k.world.setWidth 64), (0x00B, Config.stepping.setWidth 64),
      (0x00C, k.l1gen.setWidth 64), (0x00D, BitVec.ofNat 64 k.gran), (0x010, BitVec.ofNat 64 k.sys.rrb),
      (0x011, BitVec.ofNat 64 k.sys.prb), (0x018, k.sys.tvec), (0x019, if k.hmode then 1 else 0), (0x020, s.hub.podTime)]
    let sets (ok : Prop) (f : SysRegs → SysRegs) : Prop :=
      (ok → ∃ g, exec (.wrs n xa) s = .next (fly s g) ∧ g.tok = none ∧ g.phase = .fixed ∧ g.live = true ∧ g.remain = 1
        ∧ ∀ c : Core, c.land g = { c.dropFlight g with sys := f (c.dropFlight g).sys })
      ∧ (¬ ok → s.stops (.wrs n xa) 4 0 0)
    (∀ e ∈ table, n.toNat = e.1 → s.yields (.rds xd n) 2 [(xd, e.2)])
    ∧ ((∀ e ∈ table, n.toNat ≠ e.1) → s.stops (.rds xd n) 4 0 0 ∧ s.stops (.wrs n xa) 4 0 0)
    ∧ (n = 0x000 → sets (v.toNat < 32 ∧ v.toNat % 8 ≤ 5) (fun r => { r with fpctl := v.setWidth 32 }))
    ∧ (n = 0x001 → sets (v.toNat < 64) (fun r => { r with fpst := r.fpst &&& ~~~(v.setWidth 32) }))
    ∧ (n = 0x002 → sets (v.toNat < 2 ^ 32) (fun r => { r with srseed := v.setWidth 32 }))
    ∧ (n = 0x003 → sets (v.toNat < 2 ^ 32) (fun r => { r with srcnt := v.setWidth 32 }))
    ∧ (n = 0x010 → sets (s.cur.src = 1 ∧ v.toNat < 48) (fun r => { r with rrb := v.toNat }))
    ∧ (n = 0x011 → sets (s.cur.src = 1 ∧ v.toNat < 8) (fun r => { r with prb := v.toNat }))
    ∧ (n = 0x018 → sets (v.toNat < 2 ^ 56 ∧ v.toNat % 32 = 0) (fun r => { r with tvec := v }))
    ∧ (n.toNat ∈ [0x008, 0x009, 0x00A, 0x00B, 0x00C, 0x00D, 0x019, 0x020] → s.stops (.wrs n xa) 5 0 0)

/-- ICINV, ICLOCK, ICUNLK, SPLIT and GENBUMP (14_isa_scalar_control.md, System instructions, 0x70–0x7A,
07_memory_hierarchy.md, The SRAM split, 07_memory_hierarchy.md, L1, 07_memory_hierarchy.md, Instruction fetch). In
every state in which a bundle context issues, ICINV (with a scope other than ctx) and ICLOCK complete with the
parcel's token by sending their request with the captured operands; what they do when it is served is stated with
the completion of requests. ICUNLK completes at issue: it releases the locks on the lines of [xa, xa + xb), all of
them for xb = 0, and nothing else changes. SPLIT to S' at most 27 with no split drain under way completes at issue:
the limit becomes S', the drain lasts 32 + 64 * |S' - S| cycles, and bytes at and above the new limit are gone;
during a drain it stalls; one whose parcel has waited for its own drain is done. GENBUMP completes, and at issue + 1
adds 1 to GEN modulo 256, with a sweep of at most 8,192 cycles when the result is a multiple of 128; it stalls while
that would overlap a sweep in progress. -/
def Obligations.cacheLocksSplitAndGeneration : Prop :=
  ∀ (s : State) (xd xa xb : XReg) (o : R3) (scope : ScopeK) (n : BitVec 5), s.cur.src ≤ 2 → scope ≠ .ctx → n.toNat ≤ 27 →
    let k := s.me
    let sent (i : Instr) (ops : List Word) : Prop := ∃ t g, exec i s = .next t ∧ t.cur = s.cur ∧ t.me.flights = k.flights ++ [g]
      ∧ g.i = i ∧ g.src = s.cur.src ∧ g.tok = s.cur.tok ∧ g.phase = .sent ∧ g.live = true ∧ g.ops = ops
    let lo := (s.my.rx xa).toNat / 128
    let hi := ((s.my.rx xa).toNat + (s.my.rx xb).toNat + 127) / 128
    sent (.icinv xd scope) [] ∧ sent (.iclock o) [s.my.rx o.xa, s.my.rx o.xb]
    ∧ (∃ t, exec (.icunlk xa xb) s = .next t ∧ t = s.setMe { k with ilock := t.me.ilock }
        ∧ t.me.ilock = (if s.my.rx xb = 0 then [] else k.ilock.filter (fun e => decide (e.1 < lo ∨ hi ≤ e.1))))
    ∧ (k.moved = some s.cur.src → exec (.split n) s = .next (s.setMe { k with moved := none }))
    ∧ (k.moved ≠ some s.cur.src → k.split = none → ∃ t, exec (.split n) s = .next t ∧ t.cur = s.cur ∧ t.me.gran = n.toNat
        ∧ t.me.split = some (k.gran, 32 + 64 * (max n.toNat k.gran - min n.toNat k.gran))
        ∧ t.me.sp = (if n.toNat < k.gran then k.sp.filter (fun e => e.1 < 131072 * n.toNat) else k.sp)
        ∧ t.me.cl = k.cl ∧ t.me.ck = k.ck ∧ t.me.cs = k.cs ∧ t.me.v = k.v ∧ t.mem = s.mem)
    ∧ (k.moved ≠ some s.cur.src → k.split.isSome → exec (.split n) s = .next (stallOn s .other))
    ∧ (k.bumpWaits = false → ∃ g, exec .genbump s = .next (fly s g) ∧ g.tok = none ∧ g.phase = .fixed ∧ g.live = true ∧ g.remain = 1
        ∧ ∀ q : Core, let r := q.dropFlight g
          ∃ w, q.land g = { r with l1gen := r.l1gen + 1, sweep := w }
            ∧ (if (r.l1gen + 1).toNat % 128 = 0 then 1 ≤ w ∧ w ≤ 8192 else w = r.sweep))
    ∧ (k.bumpWaits = true → exec .genbump s = .next (stallOn s .sweep))

/-- LAUNCH, FORK, SREWARD, SGCANCEL, SGINFO, TSCORE, TGROW and TINFO send their request (14_isa_scalar_control.md,
Groups, launch and the M stream, 0x48–0x4C, 14_isa_scalar_control.md, Sample-group and tournament instructions,
0x50–0x58). In every state in which a bundle context issues, LAUNCH, FORK, SGINFO, TSCORE and TINFO complete, and so
do SREWARD and SGCANCEL and, with a buffer aligned to 64 bytes or outside a rival, TGROW: the hub's list of requests
grows by one that names the core, the context, the instruction, its operands as read at issue and the job's world,
and one operation with the parcel's token waits for the reply, whose landing writes xd. In a sibling SREWARD and
SGCANCEL stop the issue of every core of the sibling from the next cycle on. In a rival a misaligned TGROW is an
ALIGN stop. -/
def Obligations.hubRequestsAreSent : Prop :=
  ∀ (s : State) (o : R3) (p : R2) (xd xb : XReg) (g n : BitVec 2), s.cur.src ≤ 2 →
    let asks (i : Instr) (a b : Word) (xd : XReg) (quiet : Bool) : Prop :=
      ∃ t f r, exec i s = .next t ∧ t.cur = s.cur ∧ t.hub.reqs = s.hub.reqs ++ [r] ∧ r.core = s.cur.core ∧ r.ctx = s.cur.src
        ∧ r.i = i ∧ r.a = a ∧ r.b = b ∧ r.world = s.me.world ∧ r.flight = f.id
        ∧ t.me.flights = s.me.flights ++ [f] ∧ f.i = i ∧ f.src = s.cur.src ∧ f.tok = s.cur.tok ∧ f.phase = .sent ∧ f.live = false
        ∧ (∀ (k : Core) (v : Nat), k.land { f with data := v } = (k.dropFlight f).putX s.cur.src [(xd, BitVec.ofNat 64 v)])
        ∧ (quiet = true → ∀ d, (s.core d).kind = s.me.kind → 1 ≤ (t.core d).mute)
    asks (.launch o) (s.my.rx o.xa) (s.my.rx o.xb) o.xd false
    ∧ asks (.fork xd g xb) (s.my.rx xb) 0 xd false
    ∧ asks (.sreward p) (s.my.rx p.xa) 0 p.xd s.me.isSib
    ∧ asks (.sgcancel xd g xb) (s.my.rx xb) 0 xd s.me.isSib
    ∧ asks (.sginfo xd g n) 0 0 xd false
    ∧ asks (.tscore p) (s.my.rx p.xa) 0 p.xd false
    ∧ asks (.tinfo xd n) 0 0 xd false
    ∧ ((s.me.isRival = false ∨ (s.my.rx p.xa).toNat % 64 = 0) → asks (.tgrow p) (s.my.rx p.xa) 0 p.xd false)
    ∧ (s.me.isRival = true → (s.my.rx p.xa).toNat % 64 ≠ 0 → s.stops (.tgrow p) 8 0 (s.my.rx p.xa))

/-- GBAR, GRED and GSTEP arrive once and complete together (14_isa_scalar_control.md, Groups, launch and the M
stream, 0x48–0x4C, 06_execution_model.md, Flags). In every state in which a bundle context issues: on a slot that
names no barrier group GBAR, GRED and GSTEP complete with status 5 one cycle later. On a barrier group's slot, when
every earlier read of the stream is bound, every earlier write of the core has been applied, on every die that holds
copies, and the issuer is the last member to arrive, all with the same instruction, each completes: status 0 lands
one cycle later (for GRED in xc, with the reduction of the members' values in ascending core order in xd), every
other waiting member context is released, the epoch advances and nobody has arrived in the new one; GSTEP asks
besides that no copy word is in progress, no write of the core is unapplied and none of its link units is on its
way. When others are missing the arrival is made once, whichever of the three it is, and the context stalls; its
repeated attempts change nothing of the group until it is released. -/
def Obligations.groupBarriersReleaseTogether : Prop :=
  ∀ (s : State) (xd xc xb : XReg) (g : BitVec 2) (op : BitVec 4), s.cur.src ≤ 2 → op.toNat ≤ 8 →
    let c := s.cur.core
    let lands (i : Instr) (ws : List (XReg × Word)) (t : State) : Prop := ∃ f, exec i s = .next t ∧ t.cur.verdict = .go
      ∧ t.me.flights = s.me.flights ++ [f] ∧ f.src = s.cur.src ∧ f.phase = .fixed ∧ f.live = true ∧ f.remain = 1
      ∧ ∀ k : Core, k.land f = (k.dropFlight f).putX s.cur.src ws
    (s.me.grpAt g.toNat = none → (∃ t, lands (.gbar xd g) [(xd, 5)] t) ∧ (∃ t, lands (.gstep xd g) [(xd, 5)] t)
      ∧ (∃ t, lands (.gred op xd g xb xc) [(xd, 0), (xc, 5)] t))
    ∧ (∀ e, s.me.grpAt g.toNat = some e → c < 512 →
      let b := s.grp e
      let here (code : Nat) : Prop := b.kind ≠ 3 ∧ s.my.rel = none ∧ s.my.arrived = false ∧ s.me.observed s.me.nextId = true
        ∧ s.me.heldBack s.cur.src = false ∧ s.seenAll c = true
        ∧ (∀ f ∈ s.hub.fincs, f.src / 4 ≠ c) ∧ s.me.bumpWaits = false ∧ b.arrived.getLsbD c = false ∧ b.waits = [] ∧ ∀ w ∈ b.what, w.2.1 = code
      let last : Prop := b.members = b.arrived ||| (1#512 <<< c)
      let opened (t : State) (r : Nat) : Prop := (t.grp e).arrived = 0 ∧ (t.grp e).epoch = b.epoch + 1
        ∧ ∀ d x h, d ≠ c → d < 512 → x ≤ 2 → b.arrived.getLsbD d = true → ((s.core d).ctx x).wait = some (.bar h) →
          (s.core d).grpAt h.toNat = some e → ((s.core d).ctx x).arrived = true → ((s.core d).ctx x).rel = none →
          ((t.core d).ctx x).rel = some r
      let v := gredFold op.toNat ((insWhat (c, 1 + op.toNat, s.my.rx xb) b.what).map (fun w => w.2.2))
      (here 0 → last → ∃ t, lands (.gbar xd g) [(xd, 0)] t ∧ opened t 0)
      ∧ (here (1 + op.toNat) → last → ∃ t, lands (.gred op xd g xb xc) [(xd, v), (xc, 0)] t ∧ opened t (256 * v.toNat))
      ∧ (here 32 → last → s.me.e0.cur = none → s.me.e1.cur = none → s.me.wq = [] → (∀ u ∈ s.hub.units, u.src ≠ c) → (∀ v ∈ s.invs, v.core ≠ c) →
          ∃ t, lands (.gstep xd g) [(xd, 0)] t ∧ opened t 0)
      ∧ (∀ p ∈ [(0, Instr.gbar xd g), (1 + op.toNat, .gred op xd g xb xc), (32, .gstep xd g)],
          (here p.1 → ¬ last → ∃ t, exec p.2 s = .next t ∧ t.cur.verdict = .stall ∧ t.my.arrived = true
            ∧ t.my.wait = some (.bar g) ∧ (t.grp e).arrived = b.arrived ||| (1#512 <<< c) ∧ t.me.flights = s.me.flights)
          ∧ (b.kind ≠ 3 → s.my.rel = none → s.my.arrived = true → exec p.2 s = .next (stallOn s (.bar g)))))

/-- The reductions of GRED (14_isa_scalar_control.md, Groups, launch and the M stream, 0x48–0x4C). Over the members'
values, operation 0 gives the sum modulo 2^64; 1 and 2 the signed minimum and maximum, 3 and 4 the unsigned ones,
each a value of the list; 5, 6 and 7 the bitwise AND, OR and XOR; 8 the FP32 sum of the members' low 32 bits, added
one after another from +0.0 in the given order, each addition rounded to nearest even once, the result
zero-extended; a NaN result is 0x7FC00000. -/
def Obligations.gredReducesEachOperation : Prop :=
  ∀ (a : Word) (l : List Word),
    let m := a :: l
    gredFold 0 m = BitVec.ofNat 64 ((m.map (fun w => w.toNat)).sum)
    ∧ (gredFold 1 m ∈ m ∧ ∀ w ∈ m, (gredFold 1 m).toInt ≤ w.toInt)
    ∧ (gredFold 2 m ∈ m ∧ ∀ w ∈ m, w.toInt ≤ (gredFold 2 m).toInt)
    ∧ (gredFold 3 m ∈ m ∧ ∀ w ∈ m, (gredFold 3 m).toNat ≤ w.toNat)
    ∧ (gredFold 4 m ∈ m ∧ ∀ w ∈ m, w.toNat ≤ (gredFold 4 m).toNat)
    ∧ (∀ j < 64, (gredFold 5 m).getLsbD j = m.all (fun w => w.getLsbD j))
    ∧ (∀ j < 64, (gredFold 6 m).getLsbD j = m.any (fun w => w.getLsbD j))
    ∧ (∀ j < 64, (gredFold 7 m).getLsbD j = ((m.filter (fun w => w.getLsbD j)).length % 2 == 1))
    ∧ gredFold 8 [] = 0
    ∧ (∀ b : Word, let acc := gredFold 8 l
        let x := fvAdd .rne (valOf .fp32 acc.toNat) (valOf .fp32 (b.toNat % 2 ^ 32))
        acc.toNat < 2 ^ 32 ∧ gredFold 8 (l ++ [b]) = BitVec.ofNat 64 (finishFP .fp32 .rne false 0 (x.1, 0)).1
        ∧ (fvIsNan x.1 = true → gredFold 8 (l ++ [b]) = 0x7FC00000))

/-- SGWAIT waits for its sample group (14_isa_scalar_control.md, Sample-group and tournament instructions,
0x50–0x58). In every state in which a bundle context issues, has no release and no earlier request of its own on its
way to the hub: SGWAIT on a slot that names no sample group completes with 4, and on a collected group (with no
sweep in the way of the acquire) with the group's status; each lands one cycle later with the parcel's token. On a
group still running or paused the context is noted as waiting, once, and stalls. -/
def Obligations.sgwaitReturnsTheGroupsStatus : Prop :=
  ∀ (s : State) (xd : XReg) (g : BitVec 2), s.cur.src ≤ 2 → s.my.rel = none →
    (∀ r ∈ s.hub.reqs, ¬ (r.core = s.cur.core ∧ r.ctx = s.cur.src)) →
    let grp := (s.me.grpAt g.toNat).bind s.sgAt
    let lands (v : Nat) : Prop := ∃ t f, exec (.sgwait xd g) s = .next t ∧ t.cur.verdict = .go
      ∧ t.me.flights = s.me.flights ++ [f] ∧ f.tok = s.cur.tok ∧ f.src = s.cur.src ∧ f.phase = .captured ∧ f.live = true ∧ f.remain = 1
      ∧ ∀ k : Core, k.land f = (k.dropFlight f).putX s.cur.src [(xd, BitVec.ofNat 64 v)]
    (grp = none → lands 4)
    ∧ (∀ n q, grp = some (n, q) → q.st = 2 → s.me.bumpWaits = false → lands q.status)
    ∧ (∀ n q, grp = some (n, q) → q.st ≠ 2 → ∃ t q', exec (.sgwait xd g) s = .next t ∧ t.cur.verdict = .stall
        ∧ t.my.wait = some (.sgwait g) ∧ t.me.flights = s.me.flights ∧ mfind t.hub.sgrps n = some q'
        ∧ (s.cur.core, s.cur.src) ∈ q'.nwait ∧ ∀ w ∈ q.nwait, w ∈ q'.nwait)

/-- KLEASE, KREL, KSTART, CSTART, ESTOP, ESTAT, MWAIT and FLUELD (14_isa_scalar_control.md, Engine and lease
control, 0x60–0x66, 14_isa_scalar_control.md, Groups, launch and the M stream, 0x48–0x4C, 06_execution_model.md, The
kiln lease). In every state in which a bundle context issues: KLEASE by a core that holds its kiln's lease completes
with 1, by a released waiter with its grant's code, and otherwise asks for the lease and stalls. KREL without a
lease completes with 1; with one, no M stream running and no bank draining, it completes with 0 and the lease ends.
KSTART with the lease, CSTART without condition, at an address that is a multiple of 8, complete at issue + 2: an
engine that does not run (M: is not parked) starts at the address with its registers kept and xd receives 0, one
that runs is left alone and xd receives 1; a misaligned address is an ALIGN stop, KSTART and FLUELD without the
lease a LEASE stop. ESTOP of a running copy engine completes with 0 and asks it to end, of one that does not run
with 1; of a running M stream it completes with 0, asks it to end and discards an open bank, and a parked one ends
at once and no longer asks for the lease unless a context waits in KLEASE. ESTAT sends its request with the parcel's
token. MWAIT completes with the M stream's state once it does not run and, with the lease held, no bank drains.
FLUELD with the lease and an address that is a multiple of 128 completes by a read of the slot to be presented two
cycles later. -/
def Obligations.leaseAndEngineControl : Prop :=
  ∀ (s : State) (xd : XReg) (o : R2) (e : BitVec 1) (n : BitVec 2) (slot : BitVec 3), s.cur.src ≤ 2 → n.toNat ≤ 2 →
    let a := s.my.rx o.xa
    let lands (i : Instr) (lat : Nat) (ws : List (XReg × Word)) (t : State) : Prop := ∃ f, exec i s = .next t ∧ t.cur.verdict = .go
      ∧ t.me.flights = s.me.flights ++ [f] ∧ f.src = s.cur.src ∧ f.phase = .fixed ∧ f.live = true ∧ f.remain = lat
      ∧ ∀ k : Core, k.land f = (k.dropFlight f).putX s.cur.src ws
    let began (x : Eng) (y : Eng) : Prop := y.pc = a ∧ y.st = .running ∧ y.r = x.r ∧ y.cur = none
    s.cur.verdict = .go →
    (s.my.rel = none → s.me.lease = true → ∃ t, lands (.klease xd) 1 [(xd, 1)] t)
    ∧ (∀ r, s.my.rel = some r → ∃ t, lands (.klease xd) 1 [(xd, BitVec.ofNat 64 r)] t)
    ∧ (s.my.rel = none → s.me.lease = false → exec (.klease xd) s = .next (stallOn (s.leaseAsk s.cur.core) .lease))
    ∧ (s.me.lease = false → ∃ t, lands (.krel xd) 1 [(xd, 1)] t)
    ∧ (s.me.lease = true → s.me.em.st.isRun = false → s.ki.isDraining = false →
        s.ki.holder = some (BitVec.ofNat 9 s.cur.core) → s.cur.core < 512 →
        ∃ t, lands (.krel xd) 1 [(xd, 0)] t ∧ t.me.lease = false ∧ t.ki.holder = none ∧ t.ki.b0 = {} ∧ t.ki.b1 = {})
    ∧ (s.me.lease = true → a.toNat % 8 = 0 → s.me.em.st.isRun = false → s.me.em.st ≠ .parked →
        ∃ t, lands (.kstart o) 2 [(o.xd, 0)] t ∧ began s.me.em t.me.em)
    ∧ (s.me.lease = true → a.toNat % 8 = 0 → (s.me.em.st.isRun = true ∨ s.me.em.st = .parked) →
        ∃ t, lands (.kstart o) 2 [(o.xd, 1)] t ∧ t.me.em = s.me.em)
    ∧ (s.me.lease = false → s.stops (.kstart o) 13 0 0)
    ∧ (s.me.lease = true → a.toNat % 8 ≠ 0 → s.stops (.kstart o) 8 0 a)
    ∧ (a.toNat % 8 = 0 → (s.me.eng e.toNat).st.isRun = false →
        ∃ t, lands (.cstart o e) 2 [(o.xd, 0)] t ∧ began (s.me.eng e.toNat) (t.me.eng e.toNat) ∧ t.me.eng (1 - e.toNat) = s.me.eng (1 - e.toNat))
    ∧ (a.toNat % 8 = 0 → (s.me.eng e.toNat).st.isRun = true →
        ∃ t, lands (.cstart o e) 2 [(o.xd, 1)] t ∧ t.me.eng e.toNat = s.me.eng e.toNat)
    ∧ (a.toNat % 8 ≠ 0 → s.stops (.cstart o e) 8 0 a)
    ∧ (n.toNat < 2 → (s.me.eng n.toNat).st.isRun = true →
        ∃ t, lands (.estop xd n) 2 [(xd, 0)] t ∧ (t.me.eng n.toNat).stopReq = true)
    ∧ (n.toNat = 2 → s.me.em.st.isRun = true →
        ∃ t, lands (.estop xd n) 2 [(xd, 0)] t ∧ t.me.em.stopReq = true ∧ (s.me.lease = true → t.ki.isOpen = false))
    ∧ (n.toNat = 2 → s.me.em.st = .parked → ∃ t, lands (.estop xd n) 2 [(xd, 0)] t ∧ t.me.em.st = .ended
        ∧ ((∀ x ≤ 2, (s.me.ctx x).wait ≠ some .lease) → t.me.leaseReq = false))
    ∧ ((s.me.eng n.toNat).st.isRun = false → (s.me.eng n.toNat).st ≠ .parked → ∃ t, lands (.estop xd n) 2 [(xd, 1)] t)
    ∧ (∃ t f, exec (.estat xd n) s = .next t ∧ t.cur = s.cur ∧ t.me.flights = s.me.flights ++ [f] ∧ f.i = .estat xd n
        ∧ f.src = s.cur.src ∧ f.tok = s.cur.tok ∧ f.phase = .sent)
    ∧ (s.me.em.st.isRun = false → (s.me.lease = false ∨ s.ki.isDraining = false) →
        ∃ t, lands (.mwait xd) 1 [(xd, BitVec.ofNat 64 s.me.em.st.code)] t)
    ∧ ((s.me.em.st.isRun = true ∨ (s.me.lease = true ∧ s.ki.isDraining = true)) → exec (.mwait xd) s = .next (stallOn s .other))
    ∧ (s.me.lease = true → a.toNat % 128 = 0 → ∃ t f, exec (.flueld o slot) s = .next t ∧ t.cur = s.cur
        ∧ t.me.flights = s.me.flights ++ [f] ∧ f.i = .flueld o slot ∧ f.src = s.cur.src ∧ f.phase = .unsent ∧ f.remain = 2
        ∧ f.ea = a ∧ f.dest = slot.toNat)
    ∧ (a.toNat % 128 = 0 → s.me.lease = false → s.stops (.flueld o slot) 13 0 0)
    ∧ (a.toNat % 128 ≠ 0 → s.stops (.flueld o slot) 8 0 a)

/-- Scalar loads and stores of the own scratchpad (15_isa_memory.md, Scalar loads and stores, 0x01–0x0B,
15_isa_memory.md Table 15-1, 07_memory_hierarchy.md, Address spaces, 13_isa_formats_map.md Table 13-11). In every
state in which a bundle context issues, for a space sp address that is naturally aligned and lies, with the bytes
accessed, below the limit in force with no split drain under way, with ordering none (loads also with an acquire, at
clu scope or wider one that need not wait for a sweep, which advances GEN; stores with any release), once no acquire
of the stream lacks its data and the wait of a release is over, before which each stalls: LDB, LDBU, LDH, LDHU, LDW,
LDWU and LDD complete, land four cycles later (with the sign or zero extension of their width) with the bytes at the
address, lowest address lowest, as they stand at issue, and change nothing else; STB, STH, STW and STD complete at
issue by storing the low bytes of the source at the address: each byte of the scratchpad outside them, every other
memory and every register is as before (a read port bound earlier keeps the old bytes for itself). A misaligned
address is an ALIGN stop of each. (The stalls before an acquire has its data and before a release's wait is over are
the model's reading, log 69.) -/
def Obligations.ownScratchpadLoadsAndStores : Prop :=
  ∀ (s : State) (m : MAddr) (r : XReg), s.cur.src ≤ 2 → m.space = .sp →
    let ea : Word := s.my.rx m.xbase + m.disp.signExtend 64
    let a := ea.toNat
    let byte (j : Nat) : Nat := (rdB s.me.sp (a + j)).toNat
    let wide : Prop := m.ord = .acq ∧ m.scope ≠ .ctx ∧ m.scope ≠ .core
    let ldOk : Prop := m.os.acqOk = true ∧ (wide → s.me.bumpWaits = false)
    let stOk : Prop := m.os.relOk = true
    let at' (n : Nat) : Prop := a % n = 0 ∧ a + n ≤ 131072 * s.me.gran ∧ a < 0x400000 ∧ s.me.split = none
    let free : Prop := s.me.acqAway s.cur.src = false
    let ready : Prop := free ∧ (isRel m.os = true → s.released s.cur.core s.cur.src s.cur.first m.scope = true)
    let ports (k : Core) : Map Port := k.ports.map (fun e => (e.1, { e.2 with snap := [] }))
    let loads (i : Instr) (w : Word) : Prop := (¬ free → exec i s = .next (stallOn s .other)) ∧ (free → ∃ f : Flight, f.i = i ∧ f.src = s.cur.src ∧ f.tok = none
      ∧ (wide → exec i s = .next (fly (s.modMe Core.genbump) f)) ∧ (¬ wide → exec i s = .next (fly s f))
      ∧ f.phase = .fixed ∧ f.live = true ∧ f.remain = 4 ∧ ∀ k : Core, k.land f = (k.dropFlight f).putX s.cur.src [(r, w)])
    let stores (i : Instr) (n : Nat) : Prop := (¬ ready → exec i s = .next (stallOn s .other)) ∧ (ready → ∃ t, exec i s = .next t
      ∧ t = s.setMe { s.me with sp := t.me.sp, ports := t.me.ports } ∧ ports t.me = ports s.me
      ∧ (∀ j < n, rdB t.me.sp (a + j) = BitVec.ofNat 8 ((s.my.rx r).toNat / 256 ^ j))
      ∧ (∀ b, (b < a ∨ a + n ≤ b) → rdB t.me.sp b = rdB s.me.sp b))
    (ldOk → at' 1 → loads (.ldb ⟨r, m⟩) (BitVec.ofInt 64 (BitVec.ofNat 8 (byte 0)).toInt) ∧ loads (.ldbu ⟨r, m⟩) (BitVec.ofNat 64 (byte 0)))
    ∧ (ldOk → at' 2 → loads (.ldh ⟨r, m⟩) (BitVec.ofInt 64 (BitVec.ofNat 16 (byte 0 + 256 * byte 1)).toInt)
        ∧ loads (.ldhu ⟨r, m⟩) (BitVec.ofNat 64 (byte 0 + 256 * byte 1)))
    ∧ (ldOk → at' 4 → let v := byte 0 + 256 * byte 1 + 256 ^ 2 * byte 2 + 256 ^ 3 * byte 3
        loads (.ldw ⟨r, m⟩) (BitVec.ofInt 64 (BitVec.ofNat 32 v).toInt) ∧ loads (.ldwu ⟨r, m⟩) (BitVec.ofNat 64 v))
    ∧ (ldOk → at' 8 → loads (.ldd ⟨r, m⟩) (BitVec.ofNat 64 (((List.range 8).map (fun j => 256 ^ j * byte j)).sum)))
    ∧ (stOk → at' 1 → stores (.stb ⟨r, m⟩) 1) ∧ (stOk → at' 2 → stores (.sth ⟨r, m⟩) 2)
    ∧ (stOk → at' 4 → stores (.stw ⟨r, m⟩) 4) ∧ (stOk → at' 8 → stores (.std ⟨r, m⟩) 8)
    ∧ (ldOk → a % 2 ≠ 0 → s.stops (.ldh ⟨r, m⟩) 8 0 ea ∧ s.stops (.ldhu ⟨r, m⟩) 8 0 ea)
    ∧ (ldOk → a % 4 ≠ 0 → s.stops (.ldw ⟨r, m⟩) 8 0 ea ∧ s.stops (.ldwu ⟨r, m⟩) 8 0 ea)
    ∧ (ldOk → a % 8 ≠ 0 → s.stops (.ldd ⟨r, m⟩) 8 0 ea)
    ∧ (stOk → a % 2 ≠ 0 → s.stops (.sth ⟨r, m⟩) 8 0 ea) ∧ (stOk → a % 4 ≠ 0 → s.stops (.stw ⟨r, m⟩) 8 0 ea)
    ∧ (stOk → a % 8 ≠ 0 → s.stops (.std ⟨r, m⟩) 8 0 ea)

/-- Accesses of global memory and of a neighbour issue with captured operands (15_isa_memory.md, Rules shared by
every MC syllable, 15_isa_memory.md, Vector and predicate loads and stores, 0x10–0x13, 15_isa_memory.md, Atomics,
0x20–0x2B, 15_isa_memory.md, LDQ and PREF, 0x0C–0x0D). In every state in which a bundle context issues, every scalar
load and store, LDV, STV, LDP, STP and every atomic, well-formed, in space g, or in space nb at another core of the
cluster, with a naturally aligned address (64 bytes for LDV and STV, 256 for LDP and STP) completes by putting one
operation in flight that is presented two cycles later: it holds the address, the base, the store data or atomic
operands and the policy word as read at issue, loads and atomics carry the parcel's token, and no register and no
byte of memory changes. A misaligned address is an ALIGN stop. (R398 gives the two cycles for scalar g accesses; for
the others they are the model's, log 7.) -/
def Obligations.globalAccessesAreIssued : Prop :=
  ∀ (s : State) (i : Instr) (m : MAddr), s.cur.src ≤ 2 → i.wf = true → i.maddr = some m →
    (i.load.isSome ∨ i.store.isSome ∨ i.atom.isSome ∨ (∃ v, i = .ldv v m ∨ i = .stv v m) ∨ (∃ p, i = .ldp p m ∨ i = .stp p m)) →
    (m.space = .g ∨ (m.space = .nb ∧ (nbTarget s.cur.core (s.my.ea m)).1 ≠ s.cur.core)) →
    let ea : Word := s.my.rx m.xbase + m.disp.signExtend 64
    let size : Nat := match i with
      | .ldv .. | .stv .. => 64
      | .ldp .. | .stp .. => 256
      | .ldb _ | .ldbu _ | .stb _ => 1
      | .ldh _ | .ldhu _ | .sth _ => 2
      | .ldw _ | .ldwu _ | .stw _ | .afadd _ | .afmax _ => 4
      | _ => 8
    (ea.toNat % size = 0 → ∃ f : Flight, exec i s = .next (fly s f) ∧ f.i = i ∧ f.src = s.cur.src ∧ f.phase = .unsent ∧ f.live = true
      ∧ f.remain = 2 ∧ f.ea = ea ∧ f.space = m.space ∧ f.vsh = s.me.sys.vsh
      ∧ f.tok = (if isRead i then s.cur.tok else none)
      ∧ (∀ x n, i.store = some (x, n) → nthW f.ops 2 = s.my.rx x)
      ∧ (∀ k o, i.atom = some (k, o) → nthW f.ops 1 = s.my.rx m.xpol ∧ nthW f.ops 2 = s.my.rx o.xd)
      ∧ (∀ v, i = .stv v m → f.tA = some (s.me.rv (s.me.vphys v.toNat)))
      ∧ (∀ p, i = .stp p m → f.tA = some ((s.me.rp (s.me.pphys p.toNat)).setWidth 16384))
      ∧ (∀ v, i = .ldv v m → f.dest = s.me.vphys v.toNat) ∧ (∀ p, i = .ldp p m → f.dest = s.me.pphys p.toNat))
    ∧ (ea.toNat % size ≠ 0 → s.stops i 8 0 ea)

/-- Atomics on the own scratchpad (15_isa_memory.md Table 15-3, 15_isa_memory.md, Atomics, 0x20–0x2B). In every
state in which a bundle context issues, for a space sp address that is a multiple of 8 (4 for AFADD and AFMAX) and
lies below the limit in force with no split drain under way, and, for an acquire at clu scope or wider, no sweep to
wait for, once no acquire of the stream lacks its data and the wait of a release is over, every atomic completes
(that acquire advances GEN): the location takes the new value of Table 15-3 at issue (ACAS only when the old value
equals xd), no other byte and no register changes, and one operation with the parcel's token holds the old value,
which its landing writes to xd. -/
def Obligations.ownScratchpadAtomics : Prop :=
  ∀ (s : State) (o : AtOp), s.cur.src ≤ 2 → o.m.space = .sp → o.m.os.ok = true →
    let wide : Bool := (o.m.ord == .acq || o.m.ord == .ar) && o.m.scope != .ctx && o.m.scope != .core
    (wide = true → s.me.bumpWaits = false) → s.me.acqAway s.cur.src = false →
    (isRel o.m.os = true → s.released s.cur.core s.cur.src s.cur.first o.m.scope = true) →
    let a : Nat := (s.my.rx o.m.xbase + o.m.disp.signExtend 64).toNat
    let x := s.my.rx o.m.xpol
    let place (n : Nat) : Prop := a % n = 0 ∧ a + n ≤ 131072 * s.me.gran ∧ a < 0x400000 ∧ s.me.split = none
    let old : Word := BitVec.ofNat 64 (rdN s.me.sp a 8)
    let old4 : Nat := rdN s.me.sp a 4
    let does (i : Instr) (n new old : Nat) : Prop := place n → ∃ t f, exec i s = .next t ∧ t.cur = s.cur
      ∧ t.me.flights = s.me.flights ++ [f] ∧ f.i = i ∧ f.src = s.cur.src ∧ f.tok = s.cur.tok ∧ f.phase = .captured ∧ f.live = true
      ∧ (∀ k : Core, k.land f = (k.dropFlight f).putX s.cur.src [(o.xd, BitVec.ofNat 64 old)])
      ∧ rdN t.me.sp a n = new % 256 ^ n ∧ (∀ b, (b < a ∨ a + n ≤ b) → rdB t.me.sp b = rdB s.me.sp b)
      ∧ t.me.l1gen = (if wide then s.me.l1gen + 1 else s.me.l1gen) ∧ t.mem = s.mem ∧ t.me.v = s.me.v ∧ t.me.p = s.me.p ∧ (t.me.ctx s.cur.src).x = s.my.x
    does (.aadd o) 8 (old + x).toNat old.toNat
    ∧ does (.aand o) 8 (old &&& x).toNat old.toNat
    ∧ does (.aor o) 8 (old ||| x).toNat old.toNat
    ∧ does (.axor o) 8 (old ^^^ x).toNat old.toNat
    ∧ does (.amin o) 8 (BitVec.ofInt 64 (min old.toInt x.toInt)).toNat old.toNat
    ∧ does (.amax o) 8 (BitVec.ofInt 64 (max old.toInt x.toInt)).toNat old.toNat
    ∧ does (.aminu o) 8 (min old.toNat x.toNat) old.toNat
    ∧ does (.amaxu o) 8 (max old.toNat x.toNat) old.toNat
    ∧ does (.aswap o) 8 x.toNat old.toNat
    ∧ does (.acas o) 8 (if old = s.my.rx o.xd then x.toNat else old.toNat) old.toNat
    ∧ does (.afadd o) 4 (fp32Add old4 (x.toNat % 2 ^ 32)) old4
    ∧ does (.afmax o) 4 (fp32Max old4 (x.toNat % 2 ^ 32)) old4

/-- LDV, STV, LDP and STP of the own scratchpad (15_isa_memory.md, Vector and predicate loads and stores, 0x10–0x13,
15_isa_memory.md, Rules shared by every MC syllable, 13_isa_formats_map.md Table 13-11). In every state in which a
bundle context issues, for a space sp address aligned to 64 bytes (256 for LDP and STP) that lies with its bytes
below the limit in force with no split drain under way, ordering none and no acquire of the stream without its data:
LDV of a tile of n bytes under VSH completes as an operation of P = ceil(n / 256) passes that lands 6 + P cycles
later, its first pass reading the first 256 bytes at issue and the others one per cycle after it, and its landing
writes the tile, and zeros above it, to v; STV completes with its first pass storing the first 256 bytes of the
tile, the others one per cycle after it, and an STV of one pass leaves nothing in flight; LDP completes and its
landing five cycles later writes the 256 bytes read at issue to p; STP stores the 2,048 bits of p at issue. No other
byte of the scratchpad changes. A misaligned address is an ALIGN stop. -/
def Obligations.vectorAndPredicateMovesOfOwnScratchpad : Prop :=
  ∀ (s : State) (m : MAddr) (v : BitVec 6) (p : BitVec 4), s.cur.src ≤ 2 → m.space = .sp → m.os = ⟨.none, .ctx⟩ → s.me.acqAway s.cur.src = false →
    let ea : Word := s.my.rx m.xbase + m.disp.signExtend 64
    let a := ea.toNat
    let n := tileBytes (vshN s.me.sys.vsh) (vshFmt s.me.sys.vsh)
    let bitsN := vshN s.me.sys.vsh * (vshFmt s.me.sys.vsh).bits
    let passes := max 1 ((n + 255) / 256)
    let first := min 256 n
    let place (al n : Nat) : Prop := a % al = 0 ∧ a + n ≤ 131072 * s.me.gran ∧ a < 0x400000 ∧ s.me.split = none
    let more (t : State) : Prop := t.me.passes = s.me.passes ++ (if 1 < passes then [(s.cur.src, s.me.nextId, 1)] else [])
    let same (t : State) (n : Nat) : Prop := ∀ b, (b < a ∨ a + n ≤ b) → rdB t.me.sp b = rdB s.me.sp b
    (place 64 n → (∃ t f, exec (.ldv v m) s = .next t ∧ t.cur = s.cur ∧ t.me.sp = s.me.sp ∧ more t ∧ f ∈ t.me.flights
        ∧ f.id = s.me.nextId ∧ f.i = .ldv v m ∧ f.src = s.cur.src ∧ f.phase = .fixed ∧ f.live = true ∧ f.remain = 6 + passes
        ∧ f.dest = s.me.vphys v.toNat ∧ f.td = some (BitVec.ofNat 16384 (rdN s.me.sp a first))
        ∧ (∀ (k : Core) (w : Tile), k.land { f with td := some w } =
            (k.dropFlight f).wv f.dest (w &&& BitVec.ofNat 16384 (2 ^ bitsN - 1))))
      ∧ (∃ t, exec (.stv v m) s = .next t ∧ t.cur = s.cur ∧ more t ∧ same t first
        ∧ rdN t.me.sp a first = (s.me.rv (s.me.vphys v.toNat)).toNat % 2 ^ bitsN % 256 ^ first
        ∧ (passes = 1 → ∀ f ∈ t.me.flights, f.id ≠ s.me.nextId)))
    ∧ (place 256 256 → (p ≠ 0 → ∃ f, exec (.ldp p m) s = .next (fly s f) ∧ f.i = .ldp p m ∧ f.src = s.cur.src ∧ f.phase = .fixed
        ∧ f.live = true ∧ f.remain = 5 ∧ f.tok = none
        ∧ ∀ k : Core, k.land f = (k.dropFlight f).wp (s.me.pphys p.toNat) (BitVec.ofNat 2048 (rdN s.me.sp a 256)))
      ∧ (∃ t, exec (.stp p m) s = .next t ∧ t = s.setMe { s.me with sp := t.me.sp, ports := t.me.ports } ∧ same t 256
        ∧ rdN t.me.sp a 256 = (s.me.rp (s.me.pphys p.toNat)).toNat))
    ∧ (a % 64 ≠ 0 → s.stops (.ldv v m) 8 0 ea ∧ s.stops (.stv v m) 8 0 ea)
    ∧ (a % 256 ≠ 0 → (p ≠ 0 → s.stops (.ldp p m) 8 0 ea) ∧ s.stops (.stp p m) 8 0 ea)

/-- LDQ reserves a queue entry; PREF leaves no trace in registers and memory (15_isa_memory.md, LDQ and PREF,
0x0C–0x0D, 06_execution_model.md, Queues, 07_memory_hierarchy.md, L1). In every state in which a bundle context
issues: LDQ of a global address that is a multiple of 8, to a queue with room and with its line locked already or
fewer than 512 lines locked, completes: the queue ends with a reserved entry that names the operation and locks the
line, and one operation with the parcel's token is presented two cycles later; its landing fills the reserved entry
with the data. There is room unless the queue is full or, in the parcel's first attempt in a cycle, an earlier
context waits with a push to the queue. In space sp, at an address below the limit in force with no split drain
under way (and no acquire of the stream without its data and, for an acquire at clu scope or wider, no sweep to wait
for), LDQ completes with the 8 bytes captured at issue and no line locked, landing four cycles later; in space nb at
another core it is presented two cycles later, with no line locked. LDQ to a full queue stalls; a misaligned address
is an ALIGN stop. (The two cycles are the model's, log 7, and so are the stalls in space sp, log 69.) PREF completes
at issue with no operation in flight: no register, no scratchpad byte, no byte of the memories and nothing of the
hub changes but the access counters of watched ranges; with a translation in the core's TLB that allows reads, of a
line of local HBM that its home serves and L1 does not hold yet, with no line locked, no atomic on its way to that
line and no write that the die has still to see before it reads there, the line stands in L1 under the current
generation unless only L2 is asked for. -/
def Obligations.ldqReservesAndPrefetchFills : Prop :=
  ∀ (s : State) (q : BitVec 3) (m : MAddr) (l2 : Bool) (xb xp : XReg) (d : BitVec 23), s.cur.src ≤ 2 →
    let x := s.me.que q.toNat
    let ea := s.my.ea m
    let va := (s.my.rx xb + d.signExtend 64).toNat
    let free : Prop := x.ents.length < 8 ∧ (s.cur.dry = true ∨ ∀ y < s.cur.src, (s.me.ctx y).wait ≠ some (.queue q true))
    let wide : Prop := m.ord = .acq ∧ m.scope ≠ .ctx ∧ m.scope ≠ .core
    let reserved (lock : Option Nat) (t : State) (f : Flight) : Prop := t.cur = s.cur ∧ t.me.flights = s.me.flights ++ [f]
        ∧ f.id = s.me.nextId ∧ f.i = .ldq q m ∧ f.src = s.cur.src ∧ f.tok = s.cur.tok ∧ f.live = true ∧ f.ea = ea
        ∧ t.me.que q.toNat = { ents := x.ents ++ [{ val := none, src := s.me.nextId, lock := lock }], fresh := x.fresh + 1 }
        ∧ (∀ (k : Core) (n : Nat), k.land { f with data := n } = (k.dropFlight f).fillQ f.id (BitVec.ofNat 64 n))
    (m.space = .g → m.os.acqOk = true → ea.toNat % 8 = 0 → free →
      (s.me.locked (ea.toNat / 128) = true ∨ s.me.lockCount < 512) →
      ∃ t f, exec (.ldq q m) s = .next t ∧ reserved (some (ea.toNat / 128)) t f ∧ f.phase = .unsent ∧ f.remain = 2)
    ∧ (m.space = .nb → m.os.acqOk = true → ea.toNat % 8 = 0 → free → (nbTarget s.cur.core ea).1 ≠ s.cur.core →
      ∃ t f, exec (.ldq q m) s = .next t ∧ reserved none t f ∧ f.phase = .unsent ∧ f.remain = 2)
    ∧ (m.space = .sp → m.os.acqOk = true → ea.toNat % 8 = 0 → free → ea.toNat + 8 ≤ 131072 * s.me.gran → ea.toNat < 0x400000 →
      s.me.split = none → s.me.acqAway s.cur.src = false → (wide → s.me.bumpWaits = false) →
      ∃ t f, exec (.ldq q m) s = .next t ∧ reserved none t f ∧ f.phase = .captured ∧ f.remain = 4 ∧ f.data = rdN s.me.sp ea.toNat 8
        ∧ (wide → t.me.l1gen = s.me.l1gen + 1) ∧ (¬ wide → t.me.l1gen = s.me.l1gen))
    ∧ (m.os.acqOk = true → ea.toNat % 8 = 0 → 8 ≤ x.ents.length → exec (.ldq q m) s = .next (stallOn s (.queue q true)))
    ∧ (m.os.acqOk = true → ea.toNat % 8 ≠ 0 → s.stops (.ldq q m) 8 0 ea)
    ∧ (∃ t, exec (.pref l2 xb xp d) s = .next t ∧ t.cur = s.cur ∧ t.mem = s.mem ∧ t.hostMem = s.hostMem ∧ t.peerMem = s.peerMem ∧ t.hub = { s.hub with rranges := t.hub.rranges }
        ∧ t.me.flights = s.me.flights ∧ t.me.cl = s.me.cl ∧ t.me.ck = s.me.ck ∧ t.me.cs = s.me.cs ∧ t.me.v = s.me.v
        ∧ t.me.p = s.me.p ∧ t.me.sp = s.me.sp
        ∧ (∀ e pa, tlbFind s.me.tlb s.me.world.toNat va = some e → e.r = true → va < 2 ^ 56 → pa = s.normPa (e.pa + (va - e.va)) →
            paKind s.hub.accid pa = .hbm → s.agentOk 1 s.me.world.toNat (pa / 128 * 128) 128 = true →
            s.me.l1Hit (pa / 128) = none → s.me.atomPending s.me.nextId (pa / 128 * 128) 128 = false →
            s.readWaits (dieOf s.cur.core) (pa / 128 * 128) 128 = false → (∀ n, s.me.lockedPa n = false) → l2 = false →
            ∃ L, mfind t.me.l1 (pa / 128) = some L ∧ L.gen = s.me.l1gen ∧ L.cls ≤ 2))

/-- BIND, UNBIND and SPSTAT; FENCE, SYNCG, RCFENCE and CINV hold their context (15_isa_memory.md, Stream ports,
0x14–0x16, 15_isa_memory.md, Fences and cache control, 0x30–0x33). In every state in which a bundle context issues:
BIND at an address that is a multiple of 64, of a port that is not a write port with tiles left, completes and takes
effect one cycle later: the port is bound with the direction, the pattern block address, the ordering and the policy
word as read at issue and nothing moved yet. While such a port's drain runs BIND stalls; a misaligned address is an
ALIGN stop. UNBIND completes and one cycle later the port is unbound, a write port with tiles left first draining.
SPSTAT completes and lands two cycles later with 0 for an unbound port, else bit 63, the direction, the
all-transferred bit, the complete tiles held and the tiles consumed or pushed. FENCE, SYNCG and RCFENCE complete by
putting one operation in flight on which their context's next parcel waits, and so does CINV of a non-empty range
below 2^40 bytes; CINV of an empty range has no effect. -/
def Obligations.portsBindUnbindAndReport : Prop :=
  ∀ (s : State) (wr : Bool) (p : BitVec 2) (m : MAddr) (xd xb xl : XReg) (os : OS) (scope : ScopeK) (d : BitVec 23), s.cur.src ≤ 2 →
    let ea := s.my.ea m
    let old := mfind s.me.ports p.toNat
    let busy (x : Port) : Prop := x.wr = true ∧ (x.tiles ≠ [] ∨ x.part ≠ [])
    let waits (i : Instr) : Prop := ∃ f, exec i s = .next (fly s f) ∧ f.i = i ∧ f.src = s.cur.src ∧ f.phase = .unsent
        ∧ ∀ c x again, c = s.cur.core → x = s.cur.src → ((fly s f).tryIssue c x again).cur.verdict = .stall
    ((if wr then m.os.relOk else m.os.acqOk) = true → ea.toNat % 64 = 0 → (∀ x, old = some x → ¬ busy x) →
      ∃ f, exec (.bind wr p m) s = .next (fly s f) ∧ f.src = s.cur.src ∧ f.tok = none ∧ f.phase = .fixed ∧ f.live = true ∧ f.remain = 1
        ∧ ∀ k : Core, ∃ x, mfind (k.land f).ports p.toNat = some x ∧ x.wr = wr ∧ x.os = m.os ∧ x.blk = ea ∧ x.bspace = m.space
          ∧ x.pol = (s.my.rx m.xpol).setWidth 32 ∧ x.ctx = s.cur.src ∧ x.pat = none ∧ x.tiles = [] ∧ x.part = [] ∧ x.moved = 0
          ∧ x.cons = 0 ∧ ∀ q, q ≠ p.toNat → mfind (k.land f).ports q = mfind k.ports q)
    ∧ ((if wr then m.os.relOk else m.os.acqOk) = true → ea.toNat % 64 = 0 → (∃ x, old = some x ∧ busy x) →
        ∃ t, exec (.bind wr p m) s = .next t ∧ t.cur.verdict = .stall ∧ t.me.flights = s.me.flights)
    ∧ ((if wr then m.os.relOk else m.os.acqOk) = true → ea.toNat % 64 ≠ 0 → s.stops (.bind wr p m) 8 0 ea)
    ∧ (∃ f, exec (.unbind p) s = .next (fly s f) ∧ f.src = s.cur.src ∧ f.tok = none ∧ f.phase = .fixed ∧ f.live = true ∧ f.remain = 1
        ∧ ∀ k : Core, ((∀ x, mfind k.ports p.toNat = some x → ¬ busy x) → mfind (k.land f).ports p.toNat = none)
          ∧ (∀ x, mfind k.ports p.toNat = some x → busy x → mfind (k.land f).ports p.toNat = some { x with endReq := true })
          ∧ ∀ q, q ≠ p.toNat → mfind (k.land f).ports q = mfind k.ports q)
    ∧ (∃ w : Word, s.yields (.spstat xd p) 2 [(xd, w)]
        ∧ ((old = none ∨ ∃ x, old = some x ∧ x.endReq = true) → w = 0)
        ∧ (∀ x, old = some x → x.endReq = false → x.tiles.length < 8 → w.getLsbD 63 = true ∧ w.getLsbD 62 = x.wr
            ∧ w.toNat / 2 ^ 56 % 8 = x.tiles.length ∧ w.toNat % 2 ^ 32 = x.cons % 2 ^ 32
            ∧ (x.wr = true → w.getLsbD 61 = (x.tiles.isEmpty && x.part.isEmpty))
            ∧ (∀ t, x.wr = false → x.pat = some t → w.getLsbD 61 = (x.moved == t.tiles))))
    ∧ (os.ord ≠ .none → waits (.fence os)) ∧ waits (.syncg scope) ∧ waits .rcfence
    ∧ (scope ∈ [ScopeK.core, .clu, .die, .mod] → 0 < (s.my.rx xl).toNat → (s.my.rx xl).toNat < 2 ^ 40 → waits (.cinv scope xb xl d))
    ∧ (scope ∈ [ScopeK.core, .clu, .die, .mod] → s.my.rx xl = 0 → exec (.cinv scope xb xl d) s = .next s)

/-- A vector syllable captures its sources and flies for its latency (16_isa_vector.md, Tiles, operands and results,
13_isa_formats_map.md Table 13-2, 13_isa_formats_map.md Table 13-11, 09_number_formats.md, Rounding,
06_execution_model.md, Stream ports, 10_stops_and_embers.md Table 10-1). In every state in which K issues, every
well-formed VC syllable of the common layout whose tiles fit the shape and whose rounding mode, once dyn is
resolved, its entry accepts, whose operands are at hand and whose destination has room, completes: one operation is
in flight that holds the tile of each vector register, of each age and of each stream port and the word of each
broadcast register as read at issue, the shape, FPCTL, the predicate (none for p0) and, where it rounds
stochastically, SRSEED and SRCNT, which then advances by one (that SRSEED is captured with SRCNT is the model's
reading, log 50); its latency is that of Table 13-11 for its passes, a variable one of at least that, with the
parcel's token, for the six special functions. No vector, predicate or scalar register and no byte of memory
changes, and of the ports only those that its operands name: each such operand, A before B before C, takes one tile
from its port. An operand's port stalls it while no tile of the port is complete by this cycle, a destination port
while its four places are taken by tiles held or on their way or while its pattern has no tile left. At its landing
a result goes to its port. An unbound port, or one bound the other way, is ILLEGAL detail 4, a tile of another size
than the port's ILLEGAL detail 0, an age not held EXPIRED (cause 9), and a shape that does not fit is ILLEGAL. -/
def Obligations.vectorSyllablesCaptureAndFly : Prop :=
  ∀ (s : State) (i : Instr) (o : VOp), i.vop = some o → i.wf = true → s.cur.src = 1 →
    let k := s.me
    let vsh := k.sys.vsh
    let N : Nat := vshN vsh
    -- an operand: 0 at hand, 1 not yet, 2 an unbound port, 3 another tile size, 4 an age not held; its tile; the ports after it
    let age (l : List Age) (n : Nat) (P : Map Port) : Nat × Option Tile × Map Port := match l[n]? with
      | some x => if x.hold ≠ 0 ∨ k.inter = true then (0, some x.tile, P) else (4, none, P)
      | none => (4, none, P)
    let src (p : VSrc) (P : Map Port) (n : Nat) : Nat × Option Tile × Map Port := match p with
      | .v m => (0, some (k.rv (k.vphys m.toNat)), P)
      | .va m => age k.va m.toNat P
      | .vb m => age k.vb m.toNat P
      | .s m => match mfind P m.toNat with
        | some x => if x.wr = true ∨ x.endReq = true then (2, none, P) else match x.pat with
          | some t => if tileBytes t.te t.fmt ≠ n then (3, none, P)
            else if x.fresh < x.tiles.length then (0, x.tiles.head?, mset P m.toNat { x with tiles := x.tiles.tail, cons := x.cons + 1 })
            else (1, none, P)
          | none => (1, none, P)
        | none => (2, none, P)
      | _ => (0, none, P)
    let dst (P : Map Port) (n : Nat) : Nat := match o.d with
      | .s m => match mfind P m.toNat with
        | some x => if x.wr = false ∨ x.endReq = true then 2 else match x.pat with
          | some t => if tileBytes t.te t.fmt ≠ n then 3
            else if x.tiles.length + k.pushing m.toNat < 4 ∧ x.cons + k.pushing m.toNat < t.tiles then 0 else 1
          | none => 1
        | none => 2
      | _ => 0
    let word (p : VSrc) : Word := match p with
      | .x r => k.ck.rx r
      | _ => 0
    let P : Nat := i.passes vsh
    let lat : Nat := match i with
      | .vadd _ | .vsub _ | .vmul _ | .vfma _ | .vfms _ | .vfnma _ | .vmin _ | .vmax _ => 3 + P
      | .vimul24 _ | .vimulh24 _ | .vimac24 _ | .vcvt .. | .vpack .. | .vunpk .. => 3 + P
      | .vdiv _ | .vsqrt _ => 12 + 2 * P
      | .vrcp _ | .vrsq _ | .vexp2 _ | .vlog2 _ | .vtanh _ | .vsigm _ => 8 + P
      | .vimul32 _ | .vimulh32 _ => 3 + 4 * P
      | .vqmx .. | .vdqmx .. | .vtrn _ | .vrotc .. | .vshc .. => 4 + P
      | .vmov _ | .vbrd .. | .viota _ => 1 + P
      | .vredr .. | .vredc .. => 6 + P
      | .vgath _ => 8 + 2 * P
      | _ => 2 + P
    let vqmx : Prop := ∃ d, i = .vqmx o d
    let sr : Prop := o.rnd = .sr ∨ (o.rnd = .dyn ∧ k.sys.fpctl.toNat % 8 = 5)
    let A := src o.a k.ports (tileBytes (match i with | .vunpk .. => 2 * N | _ => N) o.fmt)
    let B := match i with
      | .vqmx .. => (0, none, A.2.2)
      | .vdqmx .. => src o.b A.2.2 (N / 32)
      | .vgath _ => src o.b A.2.2 (2 * N)
      | _ => src o.b A.2.2 (tileBytes N o.fmt)
    let C := src o.c B.2.2 (tileBytes N o.fmt)
    let D := dst C.2.2 (tileBytes (match i with | .vpack .. => 2 * N | _ => N) (i.dfmt o))
    let first : Nat := if A.1 ≠ 0 then A.1 else if B.1 ≠ 0 then B.1 else if C.1 ≠ 0 then C.1 else D
    (shapeCheck i o vsh = none → modeOk i o k.sys.fpctl = true →
      (first = 0 → ∃ t f, exec i s = .next t ∧ t.cur = s.cur ∧ t.me.flights = k.flights ++ [f] ∧ f.i = i ∧ f.src = 1 ∧ f.live = true
        ∧ f.prog = 0 ∧ f.vsh = vsh ∧ f.fpctl = k.sys.fpctl ∧ f.tA = A.2.1 ∧ f.tC = C.2.1 ∧ nthW f.ops 0 = word o.a ∧ nthW f.ops 2 = word o.c
        ∧ (¬ vqmx → f.tB = B.2.1 ∧ nthW f.ops 1 = word o.b)
        ∧ f.pr = (if o.p = 0 then none else some (k.rp (k.pphys o.p.toNat)))
        ∧ (∀ m, o.d = .v m → f.dest = k.vphys m.toNat) ∧ (∀ pd c, i = .vcmp pd c o → f.dest = k.pphys pd.toNat)
        ∧ (∀ m, o.d = .s m → ∀ (k' : Core) (x : Port), mfind k'.ports m.toNat = some x →
            mfind (k'.land f).ports m.toNat = some { x with tiles := x.tiles ++ [BitVec.ofNat 16384 (f.result o).tile], cons := x.cons + 1 })
        ∧ (i.isSpecial = true → f.phase = .sent ∧ f.tok = s.cur.tok ∧ lat ≤ f.remain)
        ∧ (i.isSpecial = false → f.phase = .fixed ∧ f.tok = none ∧ f.remain = lat)
        ∧ (sr → f.cnt = k.sys.srcnt ∧ nthW f.ops 3 = k.sys.srseed.setWidth 64 ∧ t.me.sys = { k.sys with srcnt := k.sys.srcnt + 1 })
        ∧ (¬ sr → t.me.sys = k.sys) ∧ t.me.ports = C.2.2
        ∧ t.me.v = k.v ∧ t.me.p = k.p ∧ t.me.sp = k.sp ∧ t.me.ck.x = k.ck.x ∧ t.me.cl = k.cl ∧ t.me.cs = k.cs ∧ t.mem = s.mem)
      ∧ (first = 1 → exec i s = .next (stallOn s .port)) ∧ (first = 2 → s.stops i 4 4 0) ∧ (first = 3 → s.stops i 4 0 0)
      ∧ (first = 4 → s.stops i 9 0 0))
    ∧ (∀ d, shapeCheck i o vsh = some d → s.stops i 4 d 0)
    ∧ (shapeCheck i o vsh = none → modeOk i o k.sys.fpctl = false → s.stops i 4 0 0)

/-- PAND, POR, PXOR and PNOT; VSETSH (16_isa_vector.md, Compares, selects and predicates, 16_isa_vector.md, VSH and
VSETSH, 13_isa_formats_map.md Table 13-11, 06_execution_model.md Table 6-2). In every state in which K issues, for a
destination field other than 0: PAND, POR, PXOR and PNOT complete and land one cycle later, writing the conjunction,
disjunction, exclusive or or complement of all 2,048 bits of the predicates as read at issue (p0 as all ones) to the
destination resolved at issue, and nothing else. VSETSH of a register other than x0 whose low word has zero in its
reserved bits, a format code below 14 and a tile of at most 2,048 bytes completes and one cycle later VSH is that
word, all else unchanged; a reserved bit or format code is ILLEGAL detail 0, a larger tile ILLEGAL detail 6. -/
def Obligations.predicateLogicAndShape : Prop :=
  ∀ (s : State) (pd pa pb : BitVec 4) (x : XReg), s.cur.src = 1 → pd ≠ 0 → x ≠ 0 →
    let k := s.me
    let p (n : BitVec 4) : PredReg := if n = 0 then BitVec.allOnes 2048 else mget 0 k.p (k.pphys n.toNat)
    let sets (i : Instr) (v : PredReg) : Prop := ∃ f : Flight, exec i s = .next (fly s f) ∧ f.i = i ∧ f.src = 1 ∧ f.tok = none
      ∧ f.phase = .fixed ∧ f.live = true ∧ f.remain = 1
      ∧ ∀ k' : Core, k'.land f = { k'.dropFlight f with p := mput 0 (k'.dropFlight f).p (k.pphys pd.toNat) v }
    let w : BitVec 32 := (k.ck.rx x).setWidth 32
    let n := w.toNat
    let legal : Prop := n / 2 ^ 24 = 0 ∧ n / 2 ^ 17 % 8 = 0 ∧ n / 2 ^ 20 % 16 < 14
    sets (.pand pd pa pb) (p pa &&& p pb) ∧ sets (.por pd pa pb) (p pa ||| p pb) ∧ sets (.pxor pd pa pb) (p pa ^^^ p pb)
    ∧ sets (.pnot pd pa) (~~~ p pa)
    ∧ (legal → tileBytes (vshN w) (vshFmt w) ≤ 2048 →
        ∃ f : Flight, exec (.vsetsh x) s = .next (fly s f) ∧ f.i = .vsetsh x ∧ f.src = 1 ∧ f.tok = none ∧ f.phase = .fixed
          ∧ f.live = true ∧ f.remain = 1
          ∧ ∀ k' : Core, k'.land f = { k'.dropFlight f with sys := { (k'.dropFlight f).sys with vsh := w } })
    ∧ (¬ legal → s.stops (.vsetsh x) 4 0 0) ∧ (legal → 2048 < tileBytes (vshN w) (vshFmt w) → s.stops (.vsetsh x) 4 6 0)

/-- Elements of the integer syllables (16_isa_vector.md Table 16-2, 16_isa_vector.md, Integer arithmetic,
16_isa_vector.md, Tiles, operands and results, 16_isa_vector.md, Compares, selects and predicates). For an operation
in flight with vector register operands in an integer format, whose tile fits its shape: when it lands, each element
of its destination is the value the entry of Table 16-2 gives from the elements of the captured tiles at that place,
an inactive element 0 (VSEL takes operand B there): wrapped sums, differences and products (VIMUL24 and VIMAC24 of
the low 24 bits, VIMULH24 and VIMULH32 the part above the element), minimum, maximum and absolute value by the
format's signedness, bitwise logic, shifts (0 from the element's width on), the arithmetic shift, VRSHR in mode rz,
saturation and saturating addition; VCMP's bit of an active element is its comparison, of an inactive one 0. -/
def Obligations.integerElementsLand : Prop :=
  ∀ (k : Core) (f : Flight) (o : VOp) (m : BitVec 6) (a b c : Tile) (e : Nat) (pd : BitVec 4) (t : Fmt),
    let u : Nat := vshN f.vsh
    let w : Nat := o.fmt.bits
    f.prog = 0 → o.d = .v m → (∃ x, o.a = .v x) → (∃ x, o.b = .v x) → (∃ x, o.c = .v x) → f.tA = some a → f.tB = some b →
    f.tC = some c → o.fmt.isInt = true → t.isInt = true → u * w ≤ 16384 → e < u →
    let el (t : Tile) : Nat := t.toNat / 2 ^ (w * e) % 2 ^ w
    let act : Bool := match f.pr with | none => true | some p => p.getLsbD (e % 2048)
    let signed (g : Fmt) : Bool := g == .int8 || g == .int16 || g == .int32
    let val (v : Nat) : Int := if signed o.fmt = true ∧ 2 ^ (w - 1) ≤ v then (v : Int) - 2 ^ w else v
    let lo (g : Fmt) : Int := if signed g = true then -2 ^ (g.bits - 1) else 0
    let hi (g : Fmt) : Int := if signed g = true then 2 ^ (g.bits - 1) - 1 else 2 ^ g.bits - 1
    let clamp (g : Fmt) (z : Int) : Int := max (lo g) (min (hi g) z)
    let low24 (v : Nat) : Int := if w ≤ 16 then val v
      else if signed o.fmt = true ∧ 2 ^ 23 ≤ v % 2 ^ 24 then ((v % 2 ^ 24 : Nat) : Int) - 2 ^ 24 else ((v % 2 ^ 24 : Nat) : Int)
    let x := el a
    let y := el b
    let z := el c
    let gives (i : Instr) (v : Int) : Prop :=
      el ((k.land { f with i := i }).rv f.dest) = if act = true then (v % 2 ^ w).toNat else 0
    gives (.viadd o) (val x + val y) ∧ gives (.visub o) (val x - val y)
    ∧ gives (.vimul24 o) (low24 x * low24 y) ∧ gives (.vimulh24 o) (low24 x * low24 y / 2 ^ w)
    ∧ gives (.vimul32 o) (val x * val y) ∧ (w = 32 → gives (.vimulh32 o) (val x * val y / 2 ^ 32))
    ∧ gives (.vimac24 o) (low24 x * low24 y + val z)
    ∧ gives (.vimin o) (min (val x) (val y)) ∧ gives (.vimax o) (max (val x) (val y)) ∧ gives (.viabs o) ((val x).natAbs : Int)
    ∧ gives (.vand o) ((x &&& y : Nat) : Int) ∧ gives (.vor o) ((x ||| y : Nat) : Int) ∧ gives (.vxor o) ((x ^^^ y : Nat) : Int)
    ∧ gives (.vshl o) (if y < w then ((x * 2 ^ y : Nat) : Int) else 0)
    ∧ gives (.vshr o) (if y < w then ((x / 2 ^ y : Nat) : Int) else 0)
    ∧ gives (.vsra o) ((if 2 ^ (w - 1) ≤ x then (x : Int) - 2 ^ w else x) / 2 ^ (min y w))
    ∧ (o.rnd = .rz → gives (.vrshr o) (Int.tdiv (val x) (2 ^ y)))
    ∧ gives (.vsat o t) (clamp t (val x)) ∧ gives (.viadds o) (clamp o.fmt (val x + val y))
    ∧ el ((k.land { f with i := .vsel o }).rv f.dest) = (if act = true then x else y)
    ∧ (f.dest ≠ 0 → e < 2048 →
        let bit (cond : CondK) : Bool := ((k.land { f with i := .vcmp pd cond o }).rp f.dest).getLsbD e
        bit .eq = (act && decide (val x = val y)) ∧ bit .ne = (act && decide (val x ≠ val y)) ∧ bit .lt = (act && decide (val x < val y))
        ∧ bit .le = (act && decide (val x ≤ val y)) ∧ bit .gt = (act && decide (val x > val y)) ∧ bit .ge = (act && decide (val x ≥ val y)))

/-- Movement, reduction and integer conversion of tiles (16_isa_vector.md Table 16-3, 16_isa_vector.md, Moving,
reducing and indexing, 16_isa_vector.md, Conversions). For an operation in flight with vector register operands in
an integer format, whose tile fits its shape: when it lands, element (r, c) of its destination is: for VMOV the
source element (0 where inactive), for VBRD the element of row k, or of column k, for VTRN the element of the
transposed place, for VROTC the element k columns on, round the row, for VSHC the same running on into operand B,
for VGATH the element of A that the 16-bit index of B names (0 beyond the tile and where inactive), for VIOTA the
number of active elements before it. VREDR and VREDC put the wrapped sum, the maximum or the minimum of the active
elements of each row in column 0, of each column in row 0, zeros elsewhere. VCVT of an active element, VPACK and
VUNPK saturate an integer to the result format, VPACK placing A's elements below B's and VUNPK taking the low or the
high half of A's. -/
def Obligations.dataMovementLands : Prop :=
  ∀ (k : Core) (f : Flight) (o : VOp) (m : BitVec 6) (a b : Tile) (r c : Nat) (t : Fmt),
    let rows : Nat := vshRows f.vsh
    let cols : Nat := vshCols f.vsh
    let w : Nat := o.fmt.bits
    f.prog = 0 → o.d = .v m → (∃ x, o.a = .v x) → (∃ x, o.b = .v x) → f.tA = some a → f.tB = some b → o.fmt.isInt = true →
    t.isInt = true → rows * cols * w ≤ 16384 → r < rows → c < cols →
    let at' (w : Nat) (x : Tile) (n : Nat) : Nat := x.toNat / 2 ^ (w * n) % 2 ^ w
    let act (n : Nat) : Bool := match f.pr with | none => true | some p => p.getLsbD (n % 2048)
    let signed (g : Fmt) : Bool := g == .int8 || g == .int16 || g == .int32
    let val (v : Nat) : Int := if signed o.fmt = true ∧ 2 ^ (w - 1) ≤ v then (v : Int) - 2 ^ w else v
    let lo (g : Fmt) : Int := if signed g = true then -2 ^ (g.bits - 1) else 0
    let hi (g : Fmt) : Int := if signed g = true then 2 ^ (g.bits - 1) - 1 else 2 ^ g.bits - 1
    let sat (v : Nat) : Nat := ((max (lo t) (min (hi t) (val v))) % 2 ^ t.bits).toNat
    let n : Nat := r * cols + c
    let res (i : Instr) : Nat := at' w ((k.land { f with i := i }).rv f.dest) n
    let conv (i : Instr) (n : Nat) : Nat := at' t.bits ((k.land { f with i := i }).rv f.dest) n
    let line (col : Bool) (l : List Nat) : Prop := l = if col = true
      then ((List.range rows).map (fun q => q * cols + c)).filter act else ((List.range cols).map (fun q => r * cols + q)).filter act
    let best (l : List Nat) (v : Nat) (mx : Bool) : Prop := l ≠ [] → (∃ q ∈ l, v = at' w a q)
      ∧ ∀ q ∈ l, if mx = true then val (at' w a q) ≤ val v else val v ≤ val (at' w a q)
    res (.vmov o) = (if act n = true then at' w a n else 0)
    ∧ (∀ j : BitVec 6, (j.toNat < cols → res (.vbrd o true j) = at' w a (r * cols + j.toNat))
        ∧ (j.toNat < rows → res (.vbrd o false j) = at' w a (j.toNat * cols + c)))
    ∧ (cols ≤ 64 → at' w ((k.land { f with i := .vtrn o }).rv f.dest) (c * rows + r) = at' w a n)
    ∧ (∀ j : BitVec 9, res (.vrotc o j) = at' w a (r * cols + (c + j.toNat) % cols)
        ∧ (j.toNat ≤ cols → res (.vshc o j) =
            if c + j.toNat < cols then at' w a (r * cols + c + j.toNat) else at' w b (r * cols + (c + j.toNat - cols))))
    ∧ (rows * cols * 16 ≤ 16384 → res (.vgath o) =
        if act n = true ∧ at' 16 b n < rows * cols then at' w a (at' 16 b n) else 0)
    ∧ res (.viota o) = (((List.range n).filter act).length) % 2 ^ w
    ∧ (∀ l, line false l → (0 < c → ∀ op, res (.vredr o op) = 0)
        ∧ (c = 0 → res (.vredr o .add) = ((l.map (at' w a)).sum) % 2 ^ w ∧ best l (res (.vredr o .max)) true ∧ best l (res (.vredr o .min)) false))
    ∧ (∀ l, line true l → (0 < r → ∀ op, res (.vredc o op) = 0)
        ∧ (r = 0 → res (.vredc o .add) = ((l.map (at' w a)).sum) % 2 ^ w ∧ best l (res (.vredc o .max)) true ∧ best l (res (.vredc o .min)) false))
    ∧ (rows * cols * t.bits ≤ 16384 → conv (.vcvt o t) n = if act n = true then sat (at' w a n) else 0)
    ∧ (rows * cols * 2 * t.bits ≤ 16384 → conv (.vpack o t) n = sat (at' w a n)
        ∧ conv (.vpack o t) (rows * cols + n) = sat (at' w b n))
    ∧ (rows * cols * t.bits ≤ 16384 → rows * cols * 2 * w ≤ 16384 → conv (.vunpk o false t) n = sat (at' w a n)
        ∧ conv (.vunpk o true t) n = sat (at' w a (rows * cols + n)))

/-- Floating-point syllables: NaNs, infinities, zeros and signs (16_isa_vector.md Table 16-1, 16_isa_vector.md,
Floating-point arithmetic, 09_number_formats.md Table 9-5, 09_number_formats.md, Control and status registers). For
an unpredicated FP32 operation in flight with vector register operands, whose tile fits its shape, with FTZ off:
when it lands, each element of which an operand is a NaN is the canonical NaN 0x7FC00000 for VADD, VSUB, VMUL, VFMA,
VFMS, VFNMA, VMIN, VMAX, VDIV, VSQRT, VRND, VABS, VNEG and the six special functions; opposite infinities in VADD,
zero times infinity in VMUL, VFMA, VFMS and VFNMA, zero by zero in VDIV, and VSQRT, VRSQ and VLOG2 of a negative
nonzero value give that NaN and set NV; a nonzero finite value divided by zero and VRCP of zero give the infinity of
the combined sign and set DZ; VMUL by infinity of a nonzero value is the signed infinity; VABS clears and VNEG
inverts the sign of any other value; VTANH of an infinity is one with its sign, VSIGM of zero is one half, VLOG2 of
one is zero and VEXP2 of minus infinity is zero; VCLASS of a NaN sets bit 9, or 8 for a signalling one (which NaNs
signal is presumed from the family, log 16), and of an infinity bit 7 or bit 0; VRND leaves an infinity; VMIN and
VMAX of minus and plus zero take minus and plus zero; VCMP with a NaN is true for ne and un only. VQMX of a block
that holds a NaN writes scale 0xFF for it, and VDQMX under a scale of 0xFF gives the canonical NaN. -/
def Obligations.floatElementsLand : Prop :=
  ∀ (k : Core) (f : Flight) (o : VOp) (m : BitVec 6) (a b c : Tile) (e : Nat) (pd : BitVec 4),
    let u : Nat := vshN f.vsh
    f.prog = 0 → o.d = .v m → (∃ x, o.a = .v x) → (∃ x, o.b = .v x) → (∃ x, o.c = .v x) → f.tA = some a → f.tB = some b →
    f.tC = some c → o.fmt = .fp32 → o.p = 0 → f.pr = none → f.fpctl.getLsbD 3 = false → u * 32 ≤ 16384 → e < u →
    let el (t : Tile) : Nat := t.toNat / 2 ^ (32 * e) % 2 ^ 32
    let x := el a
    let y := el b
    let z := el c
    let mag (v : Nat) : Nat := v % 2 ^ 31
    let neg (v : Nat) : Bool := decide (2 ^ 31 ≤ v)
    let nan (v : Nat) : Prop := 0x7F800000 < mag v
    let inf (v : Nat) : Prop := mag v = 0x7F800000
    let zero (v : Nat) : Prop := mag v = 0
    let sgn (s : Bool) : Nat := if s = true then 2 ^ 31 else 0
    let qnan : Nat := 0x7FC00000
    let res (i : Instr) : Nat := el ((k.land { f with i := i }).rv f.dest)
    let flag (i : Instr) (n : Nat) : Prop := (k.land { f with i := i }).sys.fpst.getLsbD n = true
    let invalid (i : Instr) : Prop := res i = qnan ∧ flag i 4
    (nan x ∨ nan y → ∀ i ∈ [Instr.vadd o, .vsub o, .vmul o, .vmin o, .vmax o, .vdiv o], res i = qnan)
    ∧ (nan x ∨ nan y ∨ nan z → ∀ i ∈ [Instr.vfma o, .vfms o, .vfnma o], res i = qnan)
    ∧ (nan x → ∀ i ∈ [Instr.vsqrt o, .vrnd o, .vabs o, .vneg o, .vrcp o, .vrsq o, .vexp2 o, .vlog2 o, .vtanh o, .vsigm o], res i = qnan)
    ∧ (inf x → inf y → (neg x ≠ neg y → invalid (.vadd o)) ∧ (neg x = neg y → invalid (.vsub o)) ∧ invalid (.vdiv o))
    ∧ ((inf x ∧ zero y) ∨ (zero x ∧ inf y) → ∀ i ∈ [Instr.vmul o, .vfma o, .vfms o, .vfnma o], invalid i)
    ∧ (zero x → zero y → invalid (.vdiv o))
    ∧ (¬ nan x → ¬ zero x → neg x = true → ∀ i ∈ [Instr.vsqrt o, .vrsq o, .vlog2 o], invalid i)
    ∧ (¬ nan x → ¬ inf x → ¬ zero x → zero y → res (.vdiv o) = 0x7F800000 + sgn (neg x != neg y) ∧ flag (.vdiv o) 3)
    ∧ (zero x → res (.vrcp o) = 0x7F800000 + sgn (neg x) ∧ flag (.vrcp o) 3 ∧ res (.vsqrt o) = x ∧ res (.vsigm o) = 0x3F000000)
    ∧ (inf x → ¬ nan y → ¬ zero y → res (.vmul o) = 0x7F800000 + sgn (neg x != neg y))
    ∧ (inf x → res (.vrnd o) = x ∧ res (.vtanh o) = 0x3F800000 + sgn (neg x) ∧ (neg x = true → res (.vexp2 o) = 0))
    ∧ (x = 0x3F800000 → res (.vlog2 o) = 0)
    ∧ (¬ nan x → res (.vabs o) = mag x ∧ res (.vneg o) = mag x + sgn (!neg x))
    ∧ (nan x → res (.vclass o) = if x / 2 ^ 22 % 2 = 1 then 2 ^ 9 else 2 ^ 8)
    ∧ (inf x → res (.vclass o) = if neg x = true then 1 else 2 ^ 7)
    ∧ (zero x → zero y → neg x ≠ neg y → res (.vmin o) = 2 ^ 31 ∧ res (.vmax o) = 0)
    ∧ (nan x ∨ nan y → f.dest ≠ 0 → e < 2048 → ∀ cond : CondK,
        ((k.land { f with i := .vcmp pd cond o }).rp f.dest).getLsbD e = (cond == .ne || cond == .un))
    ∧ (∀ (t : Fmt) (bn : BitVec 6), t.isMX = true → vshCols f.vsh % 32 = 0 → nan x → f.ea.toNat ≠ f.dest →
        ((k.land { f with i := .vqmx { o with b := .v bn } t }).rv f.ea.toNat).toNat / 2 ^ (8 * (e / 32)) % 256 = 0xFF)
    ∧ (∀ t : Fmt, t.isMX = true → vshCols f.vsh % 32 = 0 → b.toNat / 2 ^ (8 * (e / 32)) % 256 = 0xFF →
        el ((k.land { f with i := .vdqmx { o with fmt := t } .fp32 }).rv f.dest) = qnan)

/-- Finite floating-point results are rounded once from the exact result (16_isa_vector.md Table 16-1,
16_isa_vector.md, Floating-point arithmetic, 16_isa_vector.md, Conversions, 16_isa_vector.md, Moving, reducing and
indexing, 09_number_formats.md, Rounding, 09_number_formats.md Table 9-4). For an unpredicated FP32, FP16 or BF16
operation in flight with vector register operands, whose tile fits its shape, with FTZ off and the mode that its rnd
field or FPCTL names: when it lands, each element of VADD, VSUB, VMUL, VFMA, VFMS, VFNMA, VDIV (by a nonzero value)
and VSQRT (of a positive one) of finite operands is the exact result rounded once: the code nearest to it (a tie to
the even code in rne, away from zero in rna), with an infinity where that is nearest, or the neighbour toward zero,
below or above it in rz, rdn and rup, or one of its two neighbours in sr; it has the sign of the exact result, and
an exact zero has the sign that R174 gives. An inexact result sets NX, an infinite one OF and NX, a tiny inexact one
UF. VRND is the integral value that the mode gives; VMIN and VMAX are the smaller and the larger operand. VREDR and
VREDC add a line of finite elements from +0 in ascending order with one rounding per add, and give its largest or
smallest element. VCVT and VPACK to another of these formats round in the same way, VUNPK to FP32 is exact; VCVT to
an integer format is the integer that the mode gives, saturated, and from one the integer rounded. -/
def Obligations.finiteFloatResultsAreRounded : Prop :=
  ∀ (k : Core) (f : Flight) (o : VOp) (m : BitVec 6) (a b c : Tile) (e r q : Nat) (g t : Fmt),
    let rows : Nat := vshRows f.vsh
    let cols : Nat := vshCols f.vsh
    let u : Nat := rows * cols
    let floats : List Fmt := [.fp32, .fp16, .bf16]
    f.prog = 0 → o.d = .v m → (∃ x, o.a = .v x) → (∃ x, o.b = .v x) → (∃ x, o.c = .v x) → f.tA = some a → f.tB = some b →
    f.tC = some c → g ∈ floats → o.fmt = g → o.p = 0 → f.pr = none → f.fpctl.getLsbD 3 = false → f.fpctl.toNat % 8 < 6 →
    u * g.bits ≤ 16384 → u * t.bits ≤ 16384 → e < u → r < rows → q < cols →
    let md : RndK := if o.rnd = .dyn then ([.rne, .rz, .rdn, .rup, .rna, .sr] : List RndK).getD (f.fpctl.toNat % 8) .rne else o.rnd
    -- the codes of a format and their values in units of 2^-149, an infinity as the next power of two
    let mb (g : Fmt) : Nat := match g with | .fp16 => 10 | .bf16 => 7 | _ => 23
    let unit (g : Fmt) : Nat := match g with | .fp16 => 2 ^ 125 | .bf16 => 2 ^ 16 | _ => 1
    let top (g : Fmt) : Nat := match g with | .fp16 => 0x7C00 | .bf16 => 0x7F80 | _ => 0x7F800000
    let sgn (g : Fmt) (s : Bool) : Nat := if s = true then 2 ^ (g.bits - 1) else 0
    let neg (c : Nat) (g : Fmt) : Bool := decide (2 ^ (g.bits - 1) ≤ c)
    let mag (c : Nat) (g : Fmt) : Nat := c % 2 ^ (g.bits - 1)
    let val (c : Nat) (g : Fmt) : Int := (if neg c g = true then -1 else 1) * (((if mag c g < 2 ^ mb g then mag c g
      else (2 ^ mb g + mag c g % 2 ^ mb g) * 2 ^ (mag c g / 2 ^ mb g - 1)) * unit g : Nat) : Int)
    let num (c : Nat) (g : Fmt) : Prop := c < 2 ^ g.bits ∧ mag c g ≤ top g
    let fin (c : Nat) (g : Fmt) : Prop := c < 2 ^ g.bits ∧ mag c g < top g
    -- v is an exact result rounded: `below n` says that n / 2 lies below it, `eq n` that n / 2 is it
    let rounded (g : Fmt) (md : RndK) (below eq : Int → Prop) (v : Nat) : Prop :=
      let up : Prop := v ≠ top g + sgn g true ∧ ∀ u, fin u g → (val u g < val v g ↔ below (2 * val u g))
      let down : Prop := v ≠ top g ∧ ∀ u, fin u g → (val v g < val u g ↔ ¬ below (2 * val u g) ∧ ¬ eq (2 * val u g))
      let near (tie : Nat → Prop) : Prop := ∀ u, num u g →
        (val u g < val v g → below (val u g + val v g) ∨ (eq (val u g + val v g) ∧ tie u))
        ∧ (val v g < val u g → ¬ below (val u g + val v g) ∧ (eq (val u g + val v g) → tie u))
      num v g ∧ (¬ eq 0 → (neg v g = true ↔ ¬ below 0)) ∧ match md with
        | .rne | .dyn => near (fun _ => v % 2 = 0)
        | .rna => near (fun u => (val u g).natAbs < (val v g).natAbs)
        | .rz => fin v g ∧ (¬ below 0 ∧ ¬ eq 0 → up) ∧ (below 0 → down)
        | .rdn => down
        | .rup => up
        | .sr => up ∨ down
    let ratio (n d : Int) (g : Fmt) (md : RndK) (v : Nat) : Prop := rounded g md (fun x => x * d < 2 * n) (fun x => x * d = 2 * n) v
    let integral (x z : Int) : Prop :=
      let U : Int := 2 ^ 149
      match md with
      | .rne | .dyn => 2 * ((x - z * U).natAbs : Int) ≤ U ∧ (2 * ((x - z * U).natAbs : Int) = U → z % 2 = 0)
      | .rna => 2 * ((x - z * U).natAbs : Int) ≤ U ∧ (2 * ((x - z * U).natAbs : Int) = U → (x.natAbs : Int) < z.natAbs * U)
      | .rdn => z * U ≤ x ∧ x < z * U + U
      | .rup => z * U - U < x ∧ x ≤ z * U
      | .rz => 0 ≤ z * x ∧ (z.natAbs : Int) * U ≤ x.natAbs ∧ (x.natAbs : Int) < z.natAbs * U + U
      | .sr => ((x - z * U).natAbs : Int) < U
    let zero (p n : Bool) : Nat := if p = n then sgn g p else sgn g (md == .rdn)   -- an exact sum of zero from these signs
    let el (t : Tile) (e : Nat) : Nat := t.toNat / 2 ^ (g.bits * e) % 2 ^ g.bits
    let x := el a e
    let y := el b e
    let z := el c e
    let X := val x g
    let Y := val y g
    let Z := val z g
    let tile (i : Instr) : Tile := (k.land { f with i := i }).rv f.dest
    let res (i : Instr) : Nat := el (tile i) e
    let flag (i : Instr) (n : Nat) : Prop := (k.land { f with i := i }).sys.fpst.getLsbD n = true
    let gives (i : Instr) (n d : Int) (zero : Nat) : Prop :=
      let v := res i
      (n = 0 → v = zero) ∧ (n ≠ 0 → ratio n d g md v ∧ (2 * val v g * d ≠ 2 * n → flag i 0) ∧ (¬ fin v g → flag i 2 ∧ flag i 0)
        ∧ (0 < mag v g → mag v g < 2 ^ mb g → 2 * val v g * d ≠ 2 * n → flag i 1))
    let add (x y v : Nat) : Prop := (val x g + val y g = 0 → v = zero (neg x g) (neg y g)) ∧
      (val x g + val y g ≠ 0 → ratio (val x g + val y g) 1 g md v)
    let line (n : Nat) (l : Nat → Nat) (i : RedK → Instr) (j : Nat) : Prop := (∀ j < n, fin (l j) g) →
      (md ≠ .sr → ∃ p : Nat → Nat, p 0 = 0 ∧ p n = el (tile (i .add)) j
        ∧ ∀ j < n, (fin (p j) g → add (p j) (l j) (p (j + 1))) ∧ (¬ fin (p j) g → p (j + 1) = p j))
      ∧ (∃ j' < n, el (tile (i .max)) j = l j') ∧ (∀ j' < n, val (l j') g ≤ val (el (tile (i .max)) j) g)
      ∧ (∃ j' < n, el (tile (i .min)) j = l j') ∧ (∀ j' < n, val (el (tile (i .min)) j) g ≤ val (l j') g)
    let conv (i : Instr) (n : Nat) : Nat := (tile i).toNat / 2 ^ (t.bits * n) % 2 ^ t.bits
    let cvt (x v : Nat) : Prop := fin x g → (val x g = 0 → v = sgn t (neg x g)) ∧ (val x g ≠ 0 → ratio (val x g) 1 t md v)
    let signed : Bool := t == .int8 || t == .int16 || t == .int32
    let lo : Int := if signed = true then -2 ^ (t.bits - 1) else 0
    let hi : Int := if signed = true then 2 ^ (t.bits - 1) - 1 else 2 ^ t.bits - 1
    let ti : Int := let v : Nat := a.toNat / 2 ^ (t.bits * e) % 2 ^ t.bits
      if signed = true ∧ 2 ^ (t.bits - 1) ≤ v then (v : Int) - 2 ^ t.bits else v
    let one : Int := 2 ^ 149
    (fin x g → fin y g → gives (.vadd o) (X + Y) 1 (zero (neg x g) (neg y g)) ∧ gives (.vsub o) (X - Y) 1 (zero (neg x g) (!neg y g))
      ∧ gives (.vmul o) (X * Y) one (sgn g (neg x g != neg y g))
      ∧ (Y ≠ 0 → gives (.vdiv o) (X * one * Y.sign) Y.natAbs (sgn g (neg x g != neg y g)))
      ∧ (res (.vmin o) = x ∨ res (.vmin o) = y) ∧ val (res (.vmin o)) g ≤ X ∧ val (res (.vmin o)) g ≤ Y
      ∧ (res (.vmax o) = x ∨ res (.vmax o) = y) ∧ X ≤ val (res (.vmax o)) g ∧ Y ≤ val (res (.vmax o)) g)
    ∧ (fin x g → fin y g → fin z g → let p : Bool := neg x g != neg y g
      gives (.vfma o) (X * Y + Z * one) one (zero p (neg z g)) ∧ gives (.vfms o) (X * Y - Z * one) one (zero p (!neg z g))
      ∧ gives (.vfnma o) (Z * one - X * Y) one (zero (!p) (neg z g)))
    ∧ (fin x g → 0 < X → let N := X * one
      rounded g md (fun n => n < 0 ∨ n * n < 4 * N) (fun n => 0 ≤ n ∧ n * n = 4 * N) (res (.vsqrt o))
      ∧ ((2 * val (res (.vsqrt o)) g) * (2 * val (res (.vsqrt o)) g) ≠ 4 * N → flag (.vsqrt o) 0))
    ∧ (fin x g → neg (res (.vrnd o)) g = neg x g ∧ fin (res (.vrnd o)) g ∧ ∃ n : Int, integral X n ∧ val (res (.vrnd o)) g = n * one)
    ∧ line cols (fun j => el a (r * cols + j)) (.vredr o) (r * cols) ∧ line rows (fun j => el a (j * cols + q)) (.vredc o) q
    ∧ (t ∈ floats → t ≠ g → cvt x (conv (.vcvt o t) e)
      ∧ (2 * u * t.bits ≤ 16384 → cvt x (conv (.vpack o t) e) ∧ cvt y (conv (.vpack o t) (u + e))))
    ∧ (t = .fp32 → 2 * u * g.bits ≤ 16384 → ∀ hi : Bool, let s := el a (if hi = true then u + e else e)
      fin s g → val (conv (.vunpk o hi t) e) t = val s g ∧ neg (conv (.vunpk o hi t) e) t = neg s g)
    ∧ (t.isInt = true → fin x g → ∃ n : Int, integral X n ∧ conv (.vcvt o t) e = ((max lo (min hi n)) % 2 ^ t.bits).toNat)
    ∧ (t.isInt = true → let v := res (.vcvt { o with fmt := t } g)
      (ti = 0 → v = 0) ∧ (ti ≠ 0 → ratio (ti * one) 1 g md v))

/-- Copy and kiln words that act on registers (18_isa_copy_engines.md, Rules for every copy word,
17_isa_kiln_flue.md Table 17-1, 17_isa_kiln_flue.md, Setting registers, 18_isa_copy_engines.md, Signals, waits,
sync, loops and end). In every state in which a copy engine (c) or the M stream issues, every well-formed word
completes one repeat per execution: CNOP and KNOP of n cycles end, after n - 1 idle cycles; CSETL and KSETL set the
register to the sign-extended step, CSETH and KSETH shift 16 bits in or, with bit 16 set, load the 8 bytes of the
own scratchpad that the register addresses, CADV adds the step; the word ends after n repeats, at once for n = 0.
CLOOP and KLOOP end for a register of 0, else decrement it and, unless it is then 0, go v words on. KFMT, KTILE and
KSWAP set their fields of k15 and k14 and the bank pointer; KTILE of an unlawful shape is ILLEGAL. Ending, a word
leaves its engine at the next word, 8 bytes on, all else unchanged. -/
def Obligations.engineWordsOnRegisters : Prop :=
  ∀ (s : State) (w : EW) (n : BitVec 16) (f : BitVec 8) (r : BitVec 4) (c : Bool), (if c = true then s.copies else s.mIssues) →
    let pick (a b : Instr) : Instr := if c = true then a else b
    let en := s.en
    let x := en.rr w.r.toNat
    let beyond (i : Instr) (e : Eng) : Prop := exec i s = .next (s.wordOver e)
    let repeats (i : Instr) (e : Eng) : Prop :=
      (w.n = 0 → beyond i en) ∧ (w.n ≠ 0 → w.n.toNat ≤ (s.ew i).reps + 1 → beyond i e)
      ∧ ((s.ew i).reps + 1 < w.n.toNat → exec i s = .next (s.setMe (s.me.setEng s.ei { e with
          cur := some { s.ew i with reps := (s.ew i).reps + 1, begun := false, left := 0 } })))
    let nop := pick (.cnop n) (.knop n)
    let seth := pick (.cseth w) (.kseth w)
    let loop := pick (.cloop w) (.kloop w)
    let off := x.toNat % 2 ^ 22
    let a := en.rr r.toNat
    let b := en.rr (r.toNat + 1)
    let lawful : Prop := 1 ≤ a.toNat % 2 ^ 16 ∧ a.toNat % 2 ^ 16 ≤ 384 ∧ 1 ≤ a.toNat / 2 ^ 16 % 2 ^ 16 ∧ a.toNat / 2 ^ 16 % 2 ^ 16 ≤ 1536
      ∧ a.toNat / 2 ^ 32 = 0 ∧ b.toNat % 2 ^ 32 ≠ 0 ∧ b.toNat / 2 ^ 32 ≠ 0
    (n.toNat ≤ 1 ∨ (s.ew nop).begun = true → beyond nop en)
    ∧ (1 < n.toNat → (s.ew nop).begun = false → exec nop s = .next (s.wordAt { s.ew nop with begun := true, left := n.toNat - 1 }))
    ∧ repeats (pick (.csetl w) (.ksetl w)) (en.wr w.r.toNat (w.v.signExtend 64))
    ∧ (w.v.toNat < 2 ^ 16 → repeats seth (en.wr w.r.toNat ((x <<< 16) ||| w.v.setWidth 64)))
    ∧ (w.v.toNat = 2 ^ 16 → w.n ≠ 0 →
        (off % 8 ≠ 0 → ∃ t, exec seth s = .next t ∧ t.me.raises = s.me.raises ++ [⟨8, s.cur.src, 0, 0, BitVec.ofNat 64 off, 0xFFFF, false⟩])
        ∧ (off % 8 = 0 → (s.ew seth).begun = false → exec seth s = .next (s.wordAt { s.ew seth with begun := true, left := 3 }))
        ∧ (off % 8 = 0 → (s.ew seth).begun = true → w.n.toNat ≤ (s.ew seth).reps + 1 → s.hub.replay = none → s.me.split = none →
            s.me.banks = [] → off + 8 ≤ 131072 * s.me.gran →
            ∃ t, exec seth s = .next t ∧ t.en = (s.wordOver (en.wr w.r.toNat (BitVec.ofNat 64 (rdN s.me.sp off 8)))).en ∧ t.me.sp = s.me.sp))
    ∧ (c = true → repeats (.cadv w) (en.wr w.r.toNat (x + w.v.signExtend 64)))
    ∧ (w.n = 0 → beyond loop en)
    ∧ (w.n = 1 → (x = 0 → beyond loop en) ∧ (x = 1 → beyond loop (en.wr w.r.toNat 0))
        ∧ (x ≠ 0 → x ≠ 1 → beyond loop { en.wr w.r.toNat (x - 1) with pc := en.pc + w.v.signExtend 64 * 8 - 8 }))
    ∧ (c = false →
        (n = 0 → ((Instr.kfmt f n).wf = true → beyond (.kfmt f n) en) ∧ (r.toNat ≤ 13 → beyond (.ktile r n) en) ∧ beyond (.kswap n) en)
        ∧ (n = 1 → ((Instr.kfmt f n).wf = true → ∃ v : Word, beyond (.kfmt f n) (en.wr 15 v)
              ∧ v.toNat = (en.rr 15).toNat % 2 ^ 32 + f.toNat * 2 ^ 32 + (en.rr 15).toNat / 2 ^ 40 * 2 ^ 40)
          ∧ (r.toNat ≤ 13 → lawful → ∃ v : Word, beyond (.ktile r n) ((en.wr 15 v).wr 14 b)
              ∧ v.toNat = (en.rr 15).toNat / 2 ^ 32 * 2 ^ 32 + a.toNat)
          ∧ (r.toNat ≤ 13 → ¬ lawful → ∃ t, exec (.ktile r n) s = .next t ∧ t.me.raises = s.me.raises ++ [⟨4, 5, 0, 0, 0, 0xFFFF, false⟩])
          ∧ exec (.kswap n) s = .next ((s.modKi (fun k => { k with ptr := 1 - k.ptr })).wordOver en)))

/-- Signals, waits, synchronization and ends of copy and kiln streams (17_isa_kiln_flue.md, Signals, waits, sync and
loops, 18_isa_copy_engines.md, Signals, waits, sync, loops and end, 06_execution_model.md, Flags,
06_execution_model.md, The kiln lease). In every state in which a copy engine (c) or the M stream issues with no
pre-emption pending, outside a replay: CSIG and KSIG complete, adding n to the flag in the engine's place among the
increments of the cycle and carrying the scope of their release, and before a release is met they wait, unchanged.
CWAIT and KWAIT without an acquire of a flag that reaches the low half of the register complete with that half and
code 0 in the register, and else wait, counting SCYC from the word's start; released with a code they complete with
it. CSYNC and KSYNC complete: with no rendezvous at once, CSYNC discarding the shape; with one they arrive and
complete when it is released; KSYNC writes the status word to memory and clears its low bits, and ends the lease, as
its step says, once nothing is draining. CEND ends the stream; KEND ends it with no bank open, and the lease at once
or at the last retirement. An acquire at clu scope or wider advances GEN. -/
def Obligations.engineSignalsWaitsAndSyncs : Prop :=
  ∀ (s : State) (os : OS) (r : BitVec 4) (f : BitVec 6) (n : BitVec 16) (rdv : Bool) (kw : EWO) (c : Bool),
    (if c = true then s.copies else s.mIssues) → s.hub.replay = none → s.me.preempt = none →
    let pick (a b : Instr) : Instr := if c = true then a else b
    let en := s.en
    let beyond (i : Instr) (e : Eng) : Prop := exec i s = .next (s.wordOver e)
    let rel : Bool := os.ord == .rel || os.ord == .ar
    let sig := pick (.csig os f n) (.ksig os f n)
    let wait := pick (.cwait os r f n) (.kwait os r f n)
    let sync : Instr := .csync os rdv n
    let ks : Instr := .ksync kw
    let target : BitVec 32 := (en.rr r.toNat).setWidth 32
    let code (m : Nat) : Eng := en.wr r.toNat (BitVec.ofNat 64 (target.toNat + m * 2 ^ 32))
    let inc : FlagInc := ⟨s.ei, f.toNat, n.setWidth 32, if rel = true then os.scope.code + 1 else 0⟩
    let idle : Prop := ∀ u ∈ s.hub.units, u.src ≠ s.cur.core ∨ u.eng ≠ s.ei
    let a := en.rr kw.r.toNat
    (n = 0 → (os.relOk = true → beyond sig en) ∧ (os.acqOk = true → beyond wait en) ∧ (c = true → os.ok = true → beyond sync en)
      ∧ beyond (pick (.cend n) (.kend n)) en)
    ∧ (os.relOk = true → n ≠ 0 →
        (rel = false ∨ s.engReleased s.who os.scope = true →
          exec sig s = .next ((s.modMe (fun k => { k with incs := incInsert inc k.incs })).wordOver en))
        ∧ (rel = true → s.engReleased s.who os.scope = false → exec sig s = .next s))
    ∧ (os = ⟨.none, .ctx⟩ → n = 1 → en.rel = none →
        (reaches (s.me.flag f.toNat) target = true → ∃ t, exec wait s = .next t ∧ t.en = (s.wordOver (code 0)).en ∧ t.me.flags = s.me.flags)
        ∧ (reaches (s.me.flag f.toNat) target = false →
            exec wait s = .next (s.setMe (s.me.setEng s.ei { en with
              cur := some { s.ew wait with begun := true }, waitFrom := (s.me.scyc.toNat + 1 + 2 ^ 48 - (s.ew wait).issue) % 2 ^ 48 }))))
    ∧ (os.acqOk = true → n = 1 → ∀ m, en.rel = some m → ∃ t, exec wait s = .next t ∧ t.en = (s.wordOver (code (m % 256))).en)
    ∧ (os.ord = .acq → 2 ≤ os.scope.code → n = 1 → en.rel = none → reaches (s.me.flag f.toNat) target = true → s.me.bumpWaits = false →
        ∃ t, exec wait s = .next t ∧ t.me.l1gen = s.me.l1gen + 1)
    ∧ (c = true → os = ⟨.none, .ctx⟩ → n = 1 → idle →
        (rdv = false → beyond sync { en with shape := none })
        ∧ (rdv = true → (s.ew sync).chk < 2 → (s.ew sync).arrived = false →
            exec sync s = .next (s.wordAt { s.ew sync with chk := 1, arrived := true, begun := true }))
        ∧ (rdv = true → (s.ew sync).chk < 2 → (s.ew sync).arrived = true → en.rel.isSome = true → beyond sync { en with shape := none }))
    ∧ (c = true → n = 1 → exec (.cend n) s = .next (s.setMe (s.me.setEng s.ei { en with cur := none, st := .ended })))
    ∧ (c = false → kw.n = 1 → kw.os.ord = .none → s.ki.isDraining = false → ks.wf = true → (s.ew ks).chk = 0 → (s.ew ks).arrived = false →
        (kw.v.toNat = 0 → beyond ks en)
        ∧ (kw.v.toNat = 1 → exec ks s = .next (s.wordAt { s.ew ks with chk := 1, arrived := true }))
        ∧ (kw.v.toNat = 2 → s.ki.isOpen = false → exec ks s = .next ((s.wordOver en).leaseEnd s.kn true))
        ∧ (kw.v.toNat = 4 → a.toNat % 8 = 0 → ∀ s', s.uWr s.who .g a (leBytes 8 s.ki.status.toNat) kw.os 0 = (s', .ok ()) →
            exec ks s = .next (s'.wordOver s'.en))
        ∧ (kw.v.toNat = 12 → a.toNat % 8 = 0 → ∀ s', s.uWr s.who .g a (leBytes 8 s.ki.status.toNat) kw.os 0 = (s', .ok ()) →
            ∃ t, exec ks s = .next t ∧ t.ki.status = s'.ki.status &&& 0x300 ∧ t.en = (s'.wordOver s'.en).en)
        ∧ (kw.v.toNat / 4 % 2 = 1 → a.toNat % 8 ≠ 0 → kw.v.toNat / 2 % 2 = 0 →
            ∃ t, exec ks s = .next t ∧ t.me.raises = s.me.raises ++ [⟨8, 5, 0, 0, a, 0xFFFF, false⟩]))
    ∧ (c = false → n = 1 → s.ki.isOpen = false → ∃ t, exec (.kend n) s = .next t ∧ t.en.st = .ended ∧ t.en.cur = none
        ∧ (s.ki.isDraining = true → t.ki = { s.ki with ending := 1 })
        ∧ (s.ki.isDraining = false → t.ki.holder = none ∧ (∀ h, s.ki.holder = some h → h.toNat = s.cur.core → t.me.lease = false)))
    ∧ (c = false → n = 1 → s.ki.isOpen = true → ∃ t, exec (.kend n) s = .next t
        ∧ t.me.raises = s.me.raises ++ [⟨4, 5, 0, 0, 0, 0xFFFF, false⟩])

/-- Copy words that move data (18_isa_copy_engines.md, Rules for every copy word, 18_isa_copy_engines.md, Moves,
fills, gathers and scatters, 18_isa_copy_engines.md, Engine registers, 18_isa_copy_engines.md, Shape records,
18_isa_copy_engines.md, Scheduled link words). In every state in which a copy engine issues, a well-formed
data-moving word with a lawful control register that is under way or has no acquire to make keeps the registers it
started with and completes a piece of at most 256 bytes in two executions: CMOVE, CGATH and CSCAT read the piece at
the source address of the repeat into the copy buffer, CRECV and CRED take it from the receive channel once enough
bytes are there, CFILL repeats the 8 bytes of its register, CGATH gives zeros for an index of all ones and CSCAT
skips it, CBOX reads the piece's units of the tensor or the dense side; the next execution, unless a key generation
the piece was read under is no more, writes it at the destination address of the repeat (CSEND hands it to the link
as one unit), CRED adding the elements there to it; then follows the next piece, the next repeat or the word's end,
which advances the address registers past the repeats done. CSHAPE takes the record at its address, from the record
cache or from memory, and keeps it there. (A piece read in one execution and written in the next is the model's, log
53, and so is the number of executions of a CSHAPE, log 71.) A unit's read of the own scratchpad below the limit in
force, with no bank taken and no split drain, gives the bytes at the address; its write stores them and changes no
other byte. -/
def Obligations.copyWordsMovePieces : Prop :=
  ∀ (s : State) (w : EWO), s.copies →
    let en := s.en
    let kept (i : Instr) : EWord := if (s.ew i).begun = true then { s.ew i with tags := [] } else { s.ew i with
      begun := true, regs := [0, 1, 2, 3].foldl (fun m j => mset m j (en.rr ((w.r.toNat + j) % 16)))
        (mset (mset [] 14 (en.rr 14)) 15 (en.rr 15)) }
    let at0 (i : Instr) : State := if (s.ew i).begun = true ∧ (s.ew i).tags = [] then s else s.wordAt (kept i)
    let ready (i : Instr) (t : CCtl) : Prop := i.wf = true ∧ w.n ≠ 0 ∧ ((s.ew i).begun = true ∨ w.os.ord = .none ∨ w.os.ord = .rel)
      ∧ s.poisoned s.cur.core (s.ew i).tags = none
      ∧ cctl ((kept i).c 15) = some t ∧ (t.len ≠ 0 ∨ i = .cbox w)
    let ends (s' : State) (l : List (Nat × Word)) : State := s'.wordOver (l.foldl (fun e p => e.wr (p.1 % 16) p.2) s'.en)
    let next (i : Instr) (s' : State) (len : Nat) (l : List (Nat × Word)) : State :=
      if 256 * ((kept i).piece + 1) < len then s'.wordAt { kept i with buf := none, piece := (kept i).piece + 1 }
      else if (kept i).reps + 1 < w.n.toNat then s'.wordAt { kept i with buf := none, piece := 0, reps := (kept i).reps + 1 }
      else ends s' l
    let inBuf (s' : State) (x : EWord) : State := ((s'.wordAt { x with tags := s'.rtag }).untag).farDone s.who
    let reads (i : Instr) (sp : SpaceK) (a : Word) (n : Nat) : Prop := (kept i).buf = none → ∀ s' bs,
      (at0 i).untag.uRd s.who sp a n = (s', .ok bs) → exec i s = .next (inBuf s' { kept i with buf := some bs })
    let writes (i : Instr) (sp : SpaceK) (a : Word) (bs : List Byte) (len : Nat) (l : List (Nat × Word)) : Prop := ∀ s',
      (at0 i).uWr s.who sp a bs w.os 0 = (s', .ok ()) → exec i s = .next (next i s' len l)
    let o (i : Instr) : Word := BitVec.ofNat 64 (256 * (kept i).piece)
    let n (i : Instr) (t : CCtl) : Nat := min 256 (t.len - 256 * (kept i).piece)
    let v := w.v.signExtend 64
    let by' (a : Word) (j : Nat) (st : Word) : Word := a + BitVec.ofNat 64 j * st
    let reps : Nat := w.n.toNat
    let r := w.r.toNat
    (∀ t, ready (.cmove w) t → let i : Instr := .cmove w; let x := kept i
      reads i t.ssp (by' (x.c 0) x.reps v + o i) (n i t)
      ∧ ∀ bs, x.buf = some bs → writes i t.dsp (by' (x.c 1) x.reps (x.c 14) + o i) bs t.len
          [(r, by' (x.c 0) reps v), (r + 1, by' (x.c 1) reps (x.c 14))])
    ∧ (∀ t, ready (.cfill w) t → let i : Instr := .cfill w; let x := kept i
      writes i t.dsp (by' (x.c 0) x.reps v + o i)
        ((List.range (n i t)).map (fun k => BitVec.ofNat 8 ((x.c 1).toNat / 256 ^ (k % 8)))) t.len [(r, by' (x.c 0) reps v)])
    ∧ (∀ t (idx : Word), ready (.cgath w) t → let i : Instr := .cgath w; let x := kept i
      (x.c 2 + BitVec.ofNat 64 (4 * x.reps)).toNat % 4 = 0 → mfind x.regs (32 + x.reps) = some idx →
      let l := [(r + 1, by' (x.c 1) reps v), (r + 2, x.c 2 + BitVec.ofNat 64 (4 * reps))]
      (idx ≠ 0xFFFFFFFF → reads i t.ssp (by' (x.c 0) idx.toNat (x.c 3) + o i) (n i t))
      ∧ (∀ bs, x.buf = some bs → writes i t.dsp (by' (x.c 1) x.reps v + o i) bs t.len l)
      ∧ (x.buf = none → idx = 0xFFFFFFFF → writes i t.dsp (by' (x.c 1) x.reps v + o i) (List.replicate (n i t) 0) t.len l))
    ∧ (∀ t (idx : Word), ready (.cscat w) t → let i : Instr := .cscat w; let x := kept i
      (x.c 2 + BitVec.ofNat 64 (4 * x.reps)).toNat % 4 = 0 → mfind x.regs (32 + x.reps) = some idx →
      let l := [(r + 1, by' (x.c 1) reps v), (r + 2, x.c 2 + BitVec.ofNat 64 (4 * reps))]
      (idx ≠ 0xFFFFFFFF → reads i t.ssp (by' (x.c 1) x.reps v + o i) (n i t)
        ∧ ∀ bs, x.buf = some bs → writes i t.dsp (by' (x.c 0) idx.toNat (x.c 3) + o i) bs t.len l)
      ∧ (idx = 0xFFFFFFFF → x.buf = none → exec i s = .next (next i (at0 i) 0 l)))
    ∧ (∀ t (b : Box), ready (.cbox w) t → let i : Instr := .cbox w; let x := kept i
      boxOf en.shape x (sextN 16 w.v.toNat) = some b → (x.c 2).toNat % b.ub = 0 →
      let size := b.units * b.ub
      let m := min 256 (size - 256 * x.piece)
      let dense := x.c 2 + BitVec.ofNat 64 (x.reps * size + 256 * x.piece)
      let lo := 256 / b.ub * x.piece
      let l := [(r + 2, x.c 2 + BitVec.ofNat 64 (reps * size))]
      (w.v.toNat < 2 ^ 16 → (x.buf = none → ∀ s' bs, boxIn (at0 i).untag b x.reps lo (m / b.ub) = (s', .ok bs) →
          exec i s = .next (inBuf s' { x with buf := some bs }))
        ∧ ∀ bs, x.buf = some bs → writes i t.dsp dense bs size l)
      ∧ (2 ^ 16 ≤ w.v.toNat → reads i t.ssp dense m
        ∧ ∀ bs, x.buf = some bs → ∀ s', boxOut (at0 i) b x.reps lo bs w.os = (s', .ok ()) → exec i s = .next (next i s' size l)))
    ∧ (∀ t, ready (.crecv w) t → let i : Instr := .crecv w; let x := kept i
      let q := mget [] en.chan (w.v.toNat % 8)
      en.slotOk = true → (x.buf = none → n i t ≤ q.length → ∃ t', exec i s = .next t' ∧ t'.en.cur = some { x with buf := some (q.take (n i t)) }
        ∧ mget [] t'.en.chan (w.v.toNat % 8) = q.drop (n i t))
      ∧ ∀ bs, x.buf = some bs → writes i t.dsp (x.c 0 + BitVec.ofNat 64 (x.reps * t.len + 256 * x.piece)) bs t.len
          [(r, x.c 0 + BitVec.ofNat 64 (reps * t.len))])
    ∧ (∀ t, ready (.cred w) t → let i : Instr := .cred w; let x := kept i
      let q := mget [] en.chan (w.v.toNat % 8)
      let fi := (fmtOf t.fin).getD .fp32
      let fo := (fmtOf t.fout).getD .fp32
      en.slotOk = true → t.rnd < 5 → 6 ≤ t.fin ∧ t.fin ≤ 10 → 6 ≤ t.fout ∧ t.fout ≤ 10 → t.len % (fi.bits / 8) = 0 →
      (x.c 0).toNat % (fo.bits / 8) = 0 →
      (x.buf = none → n i t ≤ q.length → ∃ t', exec i s = .next t' ∧ t'.en.cur = some { x with buf := some (q.take (n i t)) }
        ∧ mget [] t'.en.chan (w.v.toNat % 8) = q.drop (n i t))
      ∧ ∀ bs loc s' s'', x.buf = some bs → let m := bs.length / (fi.bits / 8)
          let a := x.c 0 + BitVec.ofNat 64 (x.reps * (t.len / (fi.bits / 8) * (fo.bits / 8)) + 256 / (fi.bits / 8) * x.piece * (fo.bits / 8))
          (at0 i).untag.uRd s.who t.dsp a (m * (fo.bits / 8)) = (s', .ok loc) →
          let s1 := (s'.owe s.who).farDone s.who
          s1.uWr s1.who t.dsp a ((List.zip (chop (fi.bits / 8) bs m) (chop (fo.bits / 8) loc m)).map (fun p =>
            leBytes (fo.bits / 8) (credElem fi fo ((rndOf t.rnd).getD .rne) p.1 p.2))).flatten w.os 0 = (s'', .ok ()) →
          exec i s = .next (next i s'' t.len [(r, x.c 0 + BitVec.ofNat 64 (reps * (t.len / (fi.bits / 8) * (fo.bits / 8))))]))
    ∧ (∀ t, ready (.csend w) t → let i : Instr := .csend w; let x := kept i
      let tg := (x.c 1).toNat
      let ch := w.v.toNat % 8
      let ac : BitVec 10 := BitVec.ofNat 10 (tg / 2 ^ 10)
      en.slotOk = true → tg < 2 ^ 20 →
      reads i t.ssp (x.c 0 + BitVec.ofNat 64 (x.reps * t.len + 256 * x.piece)) (n i t)
      ∧ ∀ bs, x.buf = some bs → s.chanLoad ac (tg % 512) (tg / 512 % 2) ch + n i t ≤ 8192 →
          w.os.ord = .none ∨ s.engReleased s.who w.os.scope = true → s.me.world = 0 →
          ∃ t' u, exec i s = .next t' ∧ t'.hub.units = s.hub.units ++ [u] ∧ u.src = s.cur.core ∧ u.eng = s.ei ∧ u.accel = ac
            ∧ u.core = tg % 512 ∧ u.teng = tg / 512 % 2 ∧ u.chan = ch ∧ u.data = bs ∧ u.len = n i t
            ∧ u.last = decide (t.len ≤ 256 * (x.piece + 1)) ∧ mget 0 t'.en.sent ch = mget 0 en.sent ch + n i t)
    ∧ (let i : Instr := .cshape w
      let a := en.rr r
      let world := s.me.world
      let used (s' : State) (rec : ShapeRec) : Prop := ∃ t, exec i s = .next t ∧ t.en.shape = some rec ∧ t.en.cur = none
        ∧ t.en.pc = s'.en.pc + 8 ∧ t.me.recs = ((a, world, rec) :: s'.me.recs.filter (fun e => !(e.1 == a && e.2.1 == world))).take 16
      i.wf = true → w.n = 1 → a.toNat % 64 = 0 → (s.ew i).begun = true ∨ w.os.ord = .none →
      s.poisoned s.cur.core (s.ew i).tags = none → s.hub.replay = none →
      (∀ e, s.me.recs.find? (fun e => e.1 == a && e.2.1 == world) = some e → used s e.2.2)
      ∧ (s.me.recs.find? (fun e => e.1 == a && e.2.1 == world) = none → ∀ s' bs rec, (at0 i).untag.uRd s.who .g a 64 = (s', .ok bs) →
          shapeOf bs = some rec → s'.hub.replay = none → s'.cur = s.cur → used s' rec))
    ∧ (∀ (a : Word) (len : Nat) (bs : List Byte), s.hub.replay = none → s.me.split = none → s.me.banks = [] → a.toNat < 0x400000 →
      (0 < len → a.toNat + len ≤ 131072 * s.me.gran → ∃ s', s.uRd s.who .sp a len = (s', .ok (rdBs s.me.sp a.toNat len))
        ∧ s'.me.sp = s.me.sp ∧ s'.en = en ∧ s'.cur = s.cur)
      ∧ (bs ≠ [] → a.toNat + bs.length ≤ 131072 * s.me.gran → ∃ s', s.uWr s.who .sp a bs ⟨.none, .ctx⟩ 0 = (s', .ok ())
        ∧ rdBs s'.me.sp a.toNat bs.length = bs ∧ s'.en = en ∧ s'.cur = s.cur
        ∧ ∀ b, (b < a.toNat ∨ a.toNat + bs.length ≤ b) → rdB s'.me.sp b = rdB s.me.sp b))

/-- KZERO, KLDC, KMMA and KDRAIN (17_isa_kiln_flue.md, Banks, 17_isa_kiln_flue.md, KMMA, 17_isa_kiln_flue.md,
KDRAIN, 09_number_formats.md, Kiln accumulation). In every state in which the M stream issues: an opening of an idle
bank with a lawful shape and openings left completes: KZERO after its pacing opens the bank pointed to with all
entries 0, KLDC after its last row with the rows it read, each once a running drain has stored what overlaps it,
taking the shape, the stride and the product table; an open bank makes it ILLEGAL. KMMA of an open bank whose depth
allows its steps starts, its formats and bases kept; with a chunk in place, each execution does one k-step: every
entry (i, j) becomes, for 8-bit integers, the wrapped sum of the entry and the product of row i of A and row j of B,
for the floating pairs that sum rounded once, and the depth grows by one; the last step ends the word and, with bit
0 of the step field, advances both bases past the elements used. KMMA of a bank not open is ILLEGAL, one too deep
KILN_DEPTH (cause 11). KDRAIN of an open bank, the other not draining, with a lawful program in its slot and no load
of the slot under way, completes: the bank drains under that program with the addresses and strides of its
registers; a refused program is ILLEGAL for the flue. (That KLDC reads one row per execution is the model's, log 71,
and that a KMMA of no steps still fetches as one chunk is its reading, log 52.) -/
def Obligations.kilnBanksAccumulate : Prop :=
  ∀ (s : State) (n : BitVec 16) (lw : EWO) (w : EW), s.mIssues →
    let k := s.ki
    let b := k.bank k.ptr
    let en := s.en
    let M : Nat := (en.rr 15).toNat % 2 ^ 16
    let N : Nat := (en.rr 15).toNat / 2 ^ 16 % 2 ^ 16
    let canOpen : Prop := b.st = 0 ∧ k.opens < 8 ∧ 1 ≤ M ∧ M ≤ 384 ∧ 1 ≤ N ∧ N ≤ 1536 ∧ (en.rr 14).toNat % 2 ^ 32 ≠ 0
      ∧ (en.rr 14).toNat / 2 ^ 32 ≠ 0 ∧ (en.rr 15).toNat / 2 ^ 40 = 0
    let opens (t : State) (acc : Map (BitVec 32)) (kind : Option Bool) : Prop :=
      t.ki.bank k.ptr = {
        acc := acc, st := 1, kind := kind, depth := 0, shape := (en.rr 15).setWidth 32, stride := en.rr 14,
        lda := if k.ovr = true then 1 else 0, ltab := (List.range 4).map (fun j => mget 0 k.ltab j) }
      ∧ t.ki.bank (1 - k.ptr) = k.bank (1 - k.ptr) ∧ t.ki.opens = k.opens + 1 ∧ t.ki.ptr = k.ptr
      ∧ t.ki.status = k.status &&& ~~~(1#32 <<< (8 + k.ptr)) ∧ t.en = (s.wordOver en).en
    let kz : Instr := .kzero n
    let kl : Instr := .kldc lw
    let km : Instr := .kmma w
    let kd : Instr := .kdrain w
    let x := s.ew km
    let K : Nat := w.n.toNat
    let illegal (i : Instr) (stream detail : Nat) : Prop := ∃ t, exec i s = .next t
      ∧ t.me.raises = s.me.raises ++ [⟨4, stream, 0, detail, 0, 0xFFFF, false⟩]
    (n = 0 → exec kz s = .next (s.wordOver en))
    ∧ (n = 1 → canOpen → ((s.ew kz).begun = false → exec kz s = .next (s.wordAt { s.ew kz with begun := true, left := 15 }))
        ∧ ((s.ew kz).begun = true → ∃ t, exec kz s = .next t ∧ opens t [] none))
    ∧ (n = 1 → b.st = 1 → illegal kz 5 0)
    ∧ (let base := en.rr lw.r.toNat
      let stride := en.rr (lw.r.toNat + 1)
      let i := (s.ew kl).piece
      kl.wf = true → lw.n = 1 → canOpen → base.toNat % 4 = 0 → stride.toNat % 4 = 0 → (s.ew kl).begun = true →
      s.drainAhead s.kn (base + stride * BitVec.ofNat 64 i).toNat (4 * N) = false → ∀ s' bs, s.untag.uRd s.who .g (base + stride * BitVec.ofNat 64 i) (4 * N) = (s', .ok bs) → s'.cur = s.cur → s'.kilns = s.kilns →
        s'.en = en →
        (i + 1 < M → ∃ t, exec kl s = .next t ∧ t.en.cur = some { s.ew kl with piece := i + 1 } ∧ (t.ki.bank k.ptr).st = 0
          ∧ (i = 0 → ∀ j < N, (mget 0 (t.ki.bank k.ptr).acc j).toNat = leNat ((bs.drop (4 * j)).take 4)))
        ∧ (M ≤ i + 1 → ∃ t acc, exec kl s = .next t ∧ opens t acc (some (lw.v.toNat == 1))
          ∧ (i = 0 → ∀ j < N, (mget 0 acc j).toNat = leNat ((bs.drop (4 * j)).take 4))))
    ∧ (km.wf = true → x.begun = false →
        (b.st = 1 → b.depth + K ≤ 32768 → ∃ t l, exec km s = .next t ∧ l < 64 ∧ t.ki = { k with tf := [], tfNew := {} }
          ∧ t.en.cur = some { x with
              begun := true, left := l,
              regs := mset (mset (mset [] 0 (en.rr w.r.toNat)) 1 (en.rr (w.r.toNat + 1))) 4 (en.rr 15 >>> 32) })
        ∧ (b.st ≠ 1 → illegal km 5 0)
        ∧ (b.st = 1 → 32768 < b.depth + K → ∃ t, exec km s = .next t ∧ t.me.raises = s.me.raises ++ [⟨11, 5, 0, 0, 0, 0xFFFF, false⟩]))
    ∧ (km.wf = true → x.begun = true → K = 0 → x.chk = 1 → ∃ t, exec km s = .next t ∧ t.en = (s.wordOver en).en)
    ∧ (∀ ch rest, km.wf = true → x.begun = true → K ≠ 0 → k.tf = ch :: rest → b.n ≤ 1536 →
        let el (r : Nat) : Nat × Nat := (ch.rows.getD r []).getD (x.reps % 128) (0, 127)
        let int (f c : Nat) : Int := if f = 0 then (BitVec.ofNat 8 c).toInt else ((c % 256 : Nat) : Int)
        let val (f : Nat) (e : Nat × Nat) : FV := mxVal ((fmtOf f).getD .fp32) e.1 e.2
        ∃ t, exec km s = .next t ∧ (t.ki.bank k.ptr).depth = b.depth + 1 ∧ t.ki.bank (1 - k.ptr) = k.bank (1 - k.ptr)
          ∧ (∀ i < b.m, ∀ j < b.n, let old := mget 0 b.acc (1536 * i + j)
              let new := mget 0 (t.ki.bank k.ptr).acc (1536 * i + j)
              (x.fa ≤ 1 → new = BitVec.ofInt 32 (old.toInt + int x.fa (el i).1 * int x.fb (el (b.m + j)).1))
              ∧ (1 < x.fa → x.fa ≠ 12 → new = BitVec.ofNat 32 (finishFP .fp32 .rne false 0 ((fvAdd .rne (valOf .fp32 old.toNat)
                  (fvMul (val x.fa (el i)) (val x.fb (el (b.m + j)))).1).1, 0)).1))
          ∧ (x.reps + 1 < K → t.en.cur = some { x with reps := x.reps + 1 })
          ∧ (K ≤ x.reps + 1 → w.v = 0 → t.en = (s.wordOver en).en)
          ∧ (K ≤ x.reps + 1 → w.v = 1 → let r := w.r.toNat
              let e1 := en.wr r (en.rr r + BitVec.ofNat 64 (K * kbits x.fa / 8))
              t.en = (s.wordOver (e1.wr (r + 1) (e1.rr (r + 1) + BitVec.ofNat 64 (K * kbits x.fb / 8)))).en))
    ∧ (kd.wf = true → w.n = 1 → let slot := w.v.toNat % 8
        (b.st = 1 → (k.bank (1 - k.ptr)).st ≠ 2 → (∀ f ∈ s.me.flights, ∀ o q, f.i ≠ .flueld o q ∨ q.toNat ≠ slot) →
          (∀ p, flueProg (mget [] k.slots slot) = some p → ∃ t d, exec kd s = .next t ∧ t.ki.drain = some d ∧ t.en = (s.wordOver en).en
            ∧ t.ki.bank k.ptr = { b with st := 2 } ∧ t.ki.bank (1 - k.ptr) = k.bank (1 - k.ptr)
            ∧ d.bank = k.ptr ∧ d.slot = slot ∧ d.prog = p ∧ d.mask = w.v.toNat / 8 % 16 ∧ d.d = en.rr w.r.toNat
            ∧ d.stride = en.rr (w.r.toNat + 1) ∧ d.side = (List.range 4).map (fun q => en.rr (w.r.toNat + 2 + q)) ∧ d.row = 0 ∧ d.pc = 0
            ∧ d.acc = s.cur.core)
          ∧ (flueProg (mget [] k.slots slot) = none → illegal kd 6 slot))
        ∧ (b.st ≠ 1 → illegal kd 5 0)
        ∧ (b.st = 1 → (k.bank (1 - k.ptr)).st = 2 → exec kd s = .next s))

/-- Flue arithmetic, activation, statistics, FNOP and FEND (17_isa_kiln_flue.md Table 17-6, 17_isa_kiln_flue.md
Table 17-7, 17_isa_kiln_flue.md, The flue, 09_number_formats.md, Special functions). In every state in which the
flue of a kiln executes an instruction of a drain, every well-formed FADD, FMUL, FFMA, FBIAS, FSCALE, FMAX, FMIN,
FCLAMP and FACT completes: each column of its e register takes the FP32 result of the sources' columns, rounded once
to nearest even (FMAX, FMIN and FCLAMP ordering the zeros and passing NaNs on; relu gives the operand or zero, the
leaky form the product below zero), the register is no longer quantized, and the next instruction follows. FSTAT
writes to its m register the sum from zero, rounded at each step, the maximum, the minimum or the greatest magnitude
of the columns when none is a NaN, else the canonical NaN. FNOP only goes on; FEND goes on to the next row, and
after the last one the drain can complete. No other flue register, no bank, no core and no memory changes. -/
def Obligations.flueColumnsCompute : Prop :=
  ∀ (s : State) (dr : Drain) (o : F2) (o3 : F3) (n : BitVec 8) (act : BitVec 4) (d a : BitVec 4), s.cur.src = 6 → s.fd = some dr →
    let N : Nat := s.fcols
    let x (r : BitVec 4) (j : Nat) : Nat := s.fk.fsrc r j
    let v (r : BitVec 4) (j : Nat) : FV := valOf .fp32 (x r j)
    let r32 (y : FV) : Nat := (finishFP .fp32 .rne false 0 (y, 0)).1
    let same (t : State) : Prop := t.cur = s.cur ∧ t.cores = s.cores ∧ t.mem = s.mem ∧ t.hub = s.hub ∧ t.fk.b0 = s.fk.b0 ∧ t.fk.b1 = s.fk.b1
      ∧ ∀ q, q ≠ s.cur.kiln → t.kiln q = s.kiln q
    let cols (i : Instr) (d : BitVec 4) (f : Nat → Nat) : Prop := i.wf = true → ∃ t, exec i s = .next t ∧ same t
      ∧ t.fd = some { dr with pc := dr.pc + 1 } ∧ (mget {} t.fk.reg d.toNat).q = none
      ∧ (∀ j < N, mget 0 (mget {} t.fk.reg d.toNat).vals j = f j)
      ∧ ∀ r, r ≠ d.toNat → mget {} t.fk.reg r = mget {} s.fk.reg r
    let stat (op : BitVec 2) (w : Nat) : Prop := (Instr.fstat d a op).wf = true → ∃ t, exec (.fstat d a op) s = .next t ∧ same t
      ∧ t.fd = some { dr with pc := dr.pc + 1 } ∧ mget 0 (mget {} t.fk.reg d.toNat).vals 0 = w
      ∧ ∀ r, r ≠ d.toNat → mget {} t.fk.reg r = mget {} s.fk.reg r
    let lane := (List.range N).map (x a)
    let nan : Prop := ∃ c ∈ lane, fvIsNan (valOf .fp32 c) = true
    cols (.fadd o) o.d (fun j => r32 (fvAdd .rne (v o.a j) (v o.b j)).1)
    ∧ cols (.fmul o) o.d (fun j => r32 (fvMul (v o.a j) (v o.b j)).1)
    ∧ cols (.ffma o3) o3.d (fun j => r32 (fvFma .rne (v o3.a j) (v o3.b j) (v o3.c j)).1)
    ∧ cols (.fbias o3) o3.d (fun j => r32 (fvAdd .rne (fvAdd .rne (v o3.a j) (v o3.b j)).1 (v o3.c j)).1)
    ∧ cols (.fscale o3 n) o3.d (fun j => r32 (fvScale n.toInt (fvMul (fvMul (v o3.a j) (v o3.b j)).1 (v o3.c j)).1))
    ∧ cols (.fmax o) o.d (fun j => fp32Max (x o.a j) (x o.b j))
    ∧ cols (.fmin o) o.d (fun j => (fvMinMax .fp32 false false (x o.a j) (x o.b j)).1)
    ∧ cols (.fclamp o3) o3.d (fun j => (fvMinMax .fp32 false false (fp32Max (x o3.a j) (x o3.b j)) (x o3.c j)).1)
    ∧ cols (.fact o act) o.d (fun j => if act = 0 then
          (if fvIsNan (v o.a j) = true then 0x7FC00000 else if fvLt (.fin false 0 0) (v o.a j) = true then x o.a j else 0)
        else if act = 6 then (if fvIsNan (v o.a j) = true then 0x7FC00000
          else if fvLt (v o.a j) (.fin false 0 0) = true then r32 (fvMul (v o.a j) (v o.b j)).1 else x o.a j)
        else (factOf act.toNat (x o.a j) (x o.b j)).1)
    ∧ (nan → ∀ op, stat op 0x7FC00000)
    ∧ (¬ nan → stat 0 (lane.foldl fp32Add 0) ∧ stat 3 ((lane.map (fun c => c % 2 ^ 31)).foldl max 0)
        ∧ (∀ c l, lane = c :: l → stat 1 (l.foldl fp32Max c) ∧ stat 2 (l.foldl (fun y z => (fvMinMax .fp32 false false y z).1) c)))
    ∧ exec .fnop s = .next (s.modFd (fun q => { q with pc := q.pc + 1 }))
    ∧ (∃ t, exec .fend s = .next t ∧ t.fd = some { dr with row := dr.row + 1, pc := 0, cnt := none } ∧ t.cores = s.cores ∧ t.mem = s.mem
        ∧ t.fk.reg = s.fk.reg ∧ (dr.row + 1 < (s.fk.bank dr.bank).m → t.script = s.script)
        ∧ ((s.fk.bank dr.bank).m ≤ dr.row + 1 → t.script = .attempt .drainComplete { idx := s.cur.kiln } :: s.script))

/-- FLD, FQ and FST (17_isa_kiln_flue.md Table 17-6, 17_isa_kiln_flue.md, The flue, 09_number_formats.md, Block
scaling). In every state in which the flue of a kiln executes an instruction of a drain: FLD of a side address
aligned to its elements completes once its read goes through, each column taking the element converted to FP32; FQ
in a mode other than sr completes: each block of 32 columns takes the scale of its values and each column its
quantized element under it, and the register is quantized; FST completes once its write of the packed row, each
element converted (the element itself from a register quantized in that format), goes through at the row's address
of the destination or of the side operand, or of the one value of an m register, and then the scale codes of a
quantized row, one byte per block of 32 columns. The next instruction follows. A misaligned address is an ALIGN stop
of the flue. -/
def Obligations.flueMovesRows : Prop :=
  ∀ (s : State) (dr : Drain) (d f a : BitVec 4) (j kd : BitVec 2) (r : BitVec 3), s.cur.src = 6 → s.fd = some dr →
    let N : Nat := s.fcols
    let who : Who := whoFlue dr.acc dr.slot
    let fm : Fmt := (fmtOf f.toNat).getD .fp32
    let row : Word := BitVec.ofNat 64 dr.row
    let side : Word := nthW dr.side j.toNat
    let ld : Instr := .fld d f j
    let st : Instr := .fst a kd j r f
    let la := side + row * dr.stride
    let x := mget {} s.fk.reg a.toNat
    let own : Bool := x.q == some fm && kd != 2
    let rnd : RndK := (rndOf r.toNat).getD .rne
    let sa : Word := if kd = 2 then side + row * BitVec.ofNat 64 (fm.bits / 8) else (if kd = 0 then dr.d else side) + row * dr.stride
    let elems : List Nat := (List.range (if kd = 2 then 1 else N)).map (fun c =>
      if own = true then mget 0 x.vals c else (cvtElem .fp32 fm rnd false false 0 (s.fk.fsrc a c)).1)
    let scales : List Byte := (List.range ((N + 31) / 32)).map (fun b => BitVec.ofNat 8 (mget 128 x.scal b - 1))
    let stop (i : Instr) (ea : Word) : Prop := ∃ t, exec i s = .next t ∧ t.fd = some dr
      ∧ (t.core dr.acc).raises = (s.core dr.acc).raises ++ [⟨8, 6, 0, 0, ea, 0xFFFF, true⟩]
    let on (s' t : State) : Prop := t.fd = s'.fd.map (fun q => { q with pc := q.pc + 1 })
    (ld.wf = true → (la.toNat % (fm.bits / 8) ≠ 0 → stop ld la)
      ∧ (la.toNat % (fm.bits / 8) = 0 → ∀ s' bs, s.untag.uRd who .g la (N * fm.bits / 8) = (s', .ok bs) → s'.cur = s.cur → s'.kilns = s.kilns →
        ∃ t, exec ld s = .next t ∧ on s' t ∧ (mget {} t.fk.reg d.toNat).q = none
          ∧ ∀ c < N, mget 0 (mget {} t.fk.reg d.toNat).vals c =
              (cvtElem fm .fp32 .rne false false 0 (leNat ((bs.drop (fm.bits / 8 * c)).take (fm.bits / 8)))).1))
    ∧ ((Instr.fq d a r f).wf = true → rnd ≠ .sr →
        let src (c : Nat) : FV := valOf .fp32 (s.fk.fsrc a c)
        let block (b : Nat) : List FV := ((List.range N).drop (32 * b)).take 32 |>.map src
        ∃ t, exec (.fq d a r f) s = .next t ∧ on s t ∧ t.cores = s.cores ∧ t.mem = s.mem ∧ (mget {} t.fk.reg d.toNat).q = some fm
          ∧ (∀ b < (N + 31) / 32, mget 128 (mget {} t.fk.reg d.toNat).scal b = (mxScale fm (block b)).1 + 1)
          ∧ (∀ c < N, mget 0 (mget {} t.fk.reg d.toNat).vals c = (mxElem fm rnd 0 (mxScale fm (block (c / 32))).1 (src c)).1))
    ∧ (st.wf = true → (sa.toNat % max 1 (fm.bits / 8) ≠ 0 → stop st sa)
      ∧ (sa.toNat % max 1 (fm.bits / 8) = 0 → ∀ s', s.uWr who .g sa (packElems fm.bits elems) ⟨.none, .ctx⟩ 0 = (s', .ok ()) →
        (¬ (own = true ∧ kd = 0) → ∃ t, exec st s = .next t ∧ on s' t ∧ t.cores = s'.cores ∧ t.mem = s'.mem)
        ∧ (own = true → kd = 0 → ∀ s'', s'.uWr who .g (side + row * BitVec.ofNat 64 ((N + 31) / 32)) scales ⟨.none, .ctx⟩ 0 = (s'', .ok ()) →
            ∃ t, exec st s = .next t ∧ on s'' t ∧ t.cores = s''.cores ∧ t.mem = s''.mem)))

/-- Holds, drains and sweeps of a core (10_stops_and_embers.md, Holds, 07_memory_hierarchy.md, Translation,
07_memory_hierarchy.md, Bank rules, 07_memory_hierarchy.md, The SRAM split, 06_execution_model.md, The exposed
pipeline, 07_memory_hierarchy.md, L1). For the core the event names: with pages missing and its issue possible it is
held 12 cycles for each 32 distinct pages, and a free time more where the last-level TLB lacks one; at that hold's
end a page that the tables map is in the core's TLB, nothing is missing and nothing else of the core changes. A
context about to issue holds the core one cycle where a bank it needs was taken in the cycle, one cycle where a
vector source lies in the bank being refreshed, and for what is left of the split drain where its scratchpad access
meets a granule that is moving; the turn of that context and of the later ones follows the hold. A split drain with
no cycle left ends, and in the last cycle of a sweep the unlocked L1 lines whose tag differs from GEN in bit 7 are
gone. (How misses and holds of one cycle join is the model's reading, log 42.) -/
def Obligations.holdsFreezeACore : Prop :=
  ∀ (s : State), let c := s.inp.core.toNat
    let k := s.core c
    let y := s.inp.idx
    let seen := s.nextSyls c y
    let k' := seen.1.core c
    let free : Prop := k'.runs = true ∧ k'.hold = none ∧ (k'.stop = none ∨ k'.hmode = true)
    let later : List Nat := (List.range 3).filter (fun z => y ≤ z)
    (k.issues = true → k.miss ≠ [] →
      let pages := (k.miss.map (·.2 / 65536)).eraseDups
      let held (n : Nat) (t : State) : Prop := t.core c = { k with hold := some ⟨.tlb, n⟩, todo := [] } ∧ t.mem = s.mem
      let base : Nat := 12 * ((pages.length + 31) / 32)
      ((∀ p ∈ pages, (tlbFind (mget [] s.ltlb (dieOf c)) k.world.toNat (65536 * p)).isSome = true) →
        ∃ t, exec .tlbMissHold s = .next t ∧ held base t)
      ∧ ∃ t n, exec .tlbMissHold s = .next t ∧ base ≤ n ∧ held n t)
    ∧ (∀ x p e, k.hold = some ⟨.tlb, 0⟩ → k.miss = [(x, p)] → x ≤ 2 → k.flights = [] →
        tlbFind (mget [] s.ltlb (dieOf c)) k.world.toNat p = none → s.walk k.world.toNat p = .leaf e →
        ∃ t, exec .translationHoldEnd s = .next t ∧ t.core c = { k with hold := none, miss := [], tlb := tlbAdd 128 k.tlb e }
          ∧ (0 < e.size → tlbFind (t.core c).tlb e.world.toNat e.va = some e))
    ∧ (y ≤ 2 → free →
        ((∃ b ∈ k'.passBanks c y ++ (seen.2.map (fun e => k'.sylBanks c y e.2)).flatten, ∃ a ∈ k'.banks, a.1 ≤ 2 ∧ a.2 = b) →
          exec .bankConflictHold s = .next (seen.1.setCore c { k' with hold := some ⟨.bank, 1⟩, todo := later }))
        ∧ ((∃ e ∈ seen.2, ∃ v ∈ e.2.vSrc, k'.scyc.toNat % 256 % 32 = 0 ∧ k'.vphys v % 8 = k'.scyc.toNat % 256 / 32) →
            k'.refr = false → k'.hmode = false →
          exec .refreshHold s = .next (seen.1.setCore c { k' with hold := some ⟨.refresh, 1⟩, todo := later, refr := true }))
        ∧ (∀ old left, k'.split = some (old, left) →
            (∃ e ∈ seen.2, ∃ off, k'.spUse c y e.2 = some off ∧ off < 0x400000 ∧ 131072 * old < off + e.2.accSize k'.sys.vsh
              ∧ off + e.2.accSize k'.sys.vsh ≤ 131072 * k'.gran) →
          exec .splitGranuleHold s = .next (seen.1.setCore c { k' with hold := some ⟨.split, left⟩, todo := later })))
    ∧ (∀ old, k.split = some (old, 0) → k.job = none ∨ k.starting = false →
        exec .splitDrainEnd s = .next (s.setCore c { k with split := none }))
    ∧ (k.sweep = 1 → ∃ t, exec .genbumpSweepEnd s = .next t ∧ t = s.setCore c { k with sweep := 0, l1 := (t.core c).l1 }
        ∧ ∀ e, e ∈ (t.core c).l1 ↔ e ∈ k.l1 ∧ (k.lockedPa e.1 = true ∨ e.2.gen.getLsbD 7 = k.l1gen.getLsbD 7))

/-- Reads, writes, replies and remote increments at their homes (14_isa_scalar_control.md, System instructions,
0x70–0x7A, 07_memory_hierarchy.md, Instruction fetch, 08_memory_model.md, The mechanism behind the axioms,
08_memory_model.md, Axioms, 07_memory_hierarchy.md, L2, 06_execution_model.md, The exposed pipeline,
06_execution_model.md, Flags, 03_trust.md, Rotation and issue-time keys). A read of one line range of local HBM by a
job of world 0 that its home serves, with no earlier read, atomic or write of the core in its way and no line whose
clock its die has still to meet, completes on its way back with the bytes as the core's die sees memory, memory
unchanged. The oldest write of a core's write path that waits for no read and for no remote FINC of its stream and
whose dies have applied what its clock names completes: to local HBM in world 0 each byte of memory takes its data
and every other byte is as before, to a neighbour's scratchpad likewise, and a remote FINC leaves for its target. A
reply whose key generation is live, or a neighbour's whose earlier writes are applied and reads bound, is captured
and lands in the next cycle, ESTAT's with the engine's state and ICINV's after invalidating. A served ICLOCK locks
the lines of its range in ascending order, up to the last one, up to the 1,024 lines a core may lock, or up to one
that cannot be fetched, which stops it as a fetch does with the lines before it locked; else it is captured with the
bytes of the range that are locked; a remote FINC whose clock its target's die has met, at a core that runs a job of
its world, joins the increments of the cycle, and elsewhere is only counted. -/
def Obligations.accessesReachTheirHomes : Prop :=
  ∀ (s : State), let c := s.inp.core.toNat
    let k := s.core c
    let got (f : Flight) (t : State) (g : Flight → Flight) : Prop :=
      t = s.setCore c (k.modFlight f.id (fun x => g { x with phase := .captured, remain := 1, live := true }))
    (∀ f, k.flight s.inp.idx = some f →
      (f.phase = .served → f.space ≠ .nb → f.gen = 0 ∨ k.world = 0 ∨ (s.world k.world.toNat).genLive (f.gen - 1) = true →
        ∃ t, exec .variableLatencyCompletion s = .next t ∧ got f t id)
      ∧ (f.phase = .served → f.space = .nb → f.gen = 0 ∨ ((s.core (nbTarget c f.ea).1).observed f.gen = true ∧ (s.core (nbTarget c f.ea).1).bound f.gen = true) →
        ∃ t, exec .variableLatencyCompletion s = .next t ∧ got f t id)
      ∧ (∀ xd n, f.phase = .sent → f.i = .estat xd n →
        ∃ t, exec .variableLatencyCompletion s = .next t ∧ got f t (fun x => { x with data := (k.eng n.toNat).estat.toNat }))
      ∧ (∀ xd scope, f.phase = .sent → f.i = .icinv xd scope → ∃ t, exec .variableLatencyCompletion s = .next t
        ∧ t = (s.icInvalidate scope c k.world).modCore c (fun k => k.modFlight f.id (fun x => { x with
            phase := .captured, remain := 1, live := true, data := 0 })))
      ∧ (f.phase = .served → f.space ≠ .nb → f.gen ≠ 0 → k.world ≠ 0 → (s.world k.world.toNat).genLive (f.gen - 1) = false →
        ∃ t r, exec .variableLatencyCompletion s = .next t ∧ (t.core c).raises = k.raises ++ [r] ∧ r.cause = 6 ∧ r.addr = f.ea))
    ∧ (∀ f o, k.flight s.inp.idx = some f → f.phase = .sent → f.i = .iclock o →
        (k.ilock.flatMap (fun e => (List.range e.2).map (e.1 + ·))).Nodup →
        let a := (nthW f.ops 0).toNat
        let lo := a / 128
        let n := (a + (nthW f.ops 1).toNat + 127) / 128 - lo
        ∃ t m, exec .variableLatencyCompletion s = .next t ∧ m ≤ n
          ∧ (∀ l, (t.core c).ilocked l = true ↔ k.ilocked l = true ∨ (lo ≤ l ∧ l < lo + m))
          ∧ (((m = n ∨ 1024 ≤ (t.core c).ilines) ∧ (t.core c).raises = k.raises ∧ ∃ g, (t.core c).flight f.id = some g
                ∧ g.phase = .captured ∧ g.remain = 1
                ∧ g.data = 128 * (((List.range n).map (lo + ·)).filter (fun l => (t.core c).ilocked l)).length)
            ∨ (m < n ∧ ∃ r, (t.core c).raises = k.raises ++ [r] ∧ (r.cause = 6 ∨ r.cause = 7) ∧ r.addr = BitVec.ofNat 64 (128 * (lo + m)))))
    ∧ (∀ f x n sx, k.flight s.inp.idx = some f → f.i.load = some (x, n, sx) → f.phase = .sent → f.space = .g → f.os.ord = .none →
        k.readReady f = true → f.pa < 2 ^ 40 → f.ea.toNat % n = 0 → f.pa % n = 0 → k.world = 0 → k.wq = [] → k.cntcfg.getLsbD 8 = false →
        s.homeCheck 1 c 0 f.pa n false = (s, true) → s.readWaits (dieOf c) f.pa n = false →
        ∃ t f', exec .readServedAtHome s = .next t ∧ (t.core c).flight f.id = some f' ∧ f'.phase = .served ∧ f'.data = rdN (s.viewAt (dieOf c) f.pa n).mem f.pa n
          ∧ f'.live = true ∧ f'.gen = 0 ∧ t.mem = s.mem)
    ∧ (∀ w rest, k.wq = w :: rest → w.after = [] → 2 < w.stream ∨ s.fincsGone c w.stream = true → s.applyReady c w = true →
        let gone := s.setCore c { k with wq := rest }
        (w.kind = 0 → w.atom = none → w.world = 0 → w.data ≠ [] → w.addr + w.data.length ≤ 2 ^ 40 → k.cntcfg.getLsbD 8 = false →
          gone.homeCheck (w.req c).1 (w.req c).2 0 w.addr w.data.length true = (gone, true) →
          ∃ t, exec .storeApplyAtHome s = .next t ∧ (t.core c).wq = rest ∧ t.hostMem = s.hostMem ∧ t.peerMem = s.peerMem
            ∧ (∀ j < w.data.length, rdB t.mem (w.addr + j) = w.data.getD j 0)
            ∧ ∀ a, (a < w.addr ∨ w.addr + w.data.length ≤ a) → rdB t.mem a = rdB s.mem a)
        ∧ (w.kind = 1 → w.atom = none → w.core ≠ c → let d := s.core w.core
          d.runsIn w.world = true → w.addr < 0x400000 → w.addr + w.data.length ≤ 131072 * d.gran → d.split = none → d.banks = [] →
          ∃ t, exec .storeApplyAtHome s = .next t ∧ (t.core c).wq = rest ∧ t.mem = s.mem
            ∧ (∀ j < w.data.length, rdB (t.core w.core).sp (w.addr + j) = w.data.getD j 0)
            ∧ ∀ a, (a < w.addr ∨ w.addr + w.data.length ≤ a) → rdB (t.core w.core).sp a = rdB d.sp a)
        ∧ (w.kind = 2 → ∃ t n, exec .storeApplyAtHome s = .next t ∧ (t.core c).wq = rest ∧ t.mem = s.mem ∧ t.hub.fincs = s.hub.fincs ++
            [⟨4 * c + w.stream, w.core, w.addr, BitVec.ofNat 32 (leNat w.data), w.world, w.cmp.toNat, w.clk, n⟩]))
    ∧ (∀ f, s.hub.fincs[s.inp.idx]? = some f →
        let gone : State := { s with hub := { s.hub with fincs := s.hub.fincs.eraseIdx s.inp.idx } }
        let d := s.core f.core
        s.clkMet (dieOf f.core) f.clk = true →
        (d.runsIn f.world = true → exec .remoteFincArrival s = .next (gone.setCore f.core { d with
          incs := incInsert ⟨3 + 4 * (f.src / 4) + f.src % 4, f.flag, f.val, f.wide⟩ d.incs }))
        ∧ (d.runsIn f.world = false → ∃ t, exec .remoteFincArrival s = .next t ∧ t.hub.fincs = gone.hub.fincs
          ∧ (t.core f.core).flags = d.flags ∧ (t.core f.core).incs = d.incs))

/-- The hub answers the requests of a core (14_isa_scalar_control.md, Groups, launch and the M stream, 0x48–0x4C,
14_isa_scalar_control.md, Sample-group and tournament instructions, 0x50–0x58, 14_isa_scalar_control.md Table 14-4,
04_scheduler.md, Device-side launch, 05_samples_tournaments.md, Sample groups, 05_samples_tournaments.md Table 5-2,
05_samples_tournaments.md, Tournament scopes). A request at the hub that is the first of its context there
completes: it is gone from the hub and its operation is on its way back with the answer. LAUNCH, once the core's
earlier writes are applied and seen by every die and its context's write ports have drained, answers 2 for a queue
number from 4,096 on or a disabled queue, 3 for a queue of another world, 4 for a block that is not a multiple of
256, 5 for a ring entry that cannot be written, 1 for a full ring, with the queue unchanged, and else 0, with the
block's address in the ring entry at WIDX and a mapped queue's WIDX one further. FORK answers 5 from a sibling, 6
from a job whose block has no FLAGS[2], 1 for no sibling or more than MAXSIB, 2 for a bound slot, 3 and 4 with no
free sample group or entry, and else 0, with the group running, its siblings pending and its entry of kind 3 bound
at the slot. SGCANCEL of a parent answers 3 without a group, 2 for an index too large, 1 for a sibling that has
ended, else 0, that sibling being cancelled; of all, 0 if one was cancelled. SREWARD outside a sibling answers 1; a
sibling's reward and its own SGCANCEL, once its writes are done, end it as REWARDED with the reward, as NONFINITE,
or as CANCELLED. TSCORE of a rival sets its score and answers 0, else 1. SGINFO, TINFO and TGROW give the values of
Table 14-4, all ones or 0 where they do not apply, TGROW of a rival writing the 64 bytes of its group's members. -/
def Obligations.hubAnswersRequests : Prop :=
  ∀ (s : State) (r : HubReq), s.hub.reqs[s.inp.idx]? = some r →
    (∀ q ∈ s.hub.reqs.take s.inp.idx, ¬ (q.core = r.core ∧ q.ctx = r.ctx)) →
    let k := s.core r.core
    let gone : State := { s with hub := { s.hub with reqs := s.hub.reqs.eraseIdx s.inp.idx } }
    let tells (base : State) (n : Nat) : Prop := ∃ m, exec .hubRequestArrival s = .next (({ base with free := base.free + 1 }).setCore r.core
      ((base.core r.core).modFlight r.flight (fun f => { f with phase := .served, remain := m, live := true, gen := 0, data := n })))
    let sib (q : Option JobKind) : Prop := ∃ n i, q = some (.sibling n i)
    let rival (q : Option JobKind) : Prop := ∃ n j, q = some (.rival n j)
    let settled : Prop := k.observed r.flight = true ∧ k.draining r.ctx = false ∧ s.seenAll r.core = true
      ∧ ∀ f ∈ s.hub.fincs, f.src / 4 ≠ r.core
    let ones : Nat := 2 ^ 64 - 1
    (∀ o, r.i = .launch o → settled → let u := s.uq r.a.toNat
      let W : BitVec 32 := (s.qIdx r.a.toNat).1
      let R : BitVec 32 := (s.qIdx r.a.toNat).2.1
      let at' : Nat := u.d.base.toNat + 8 * (W.toNat % 2 ^ u.d.log)
      let qd : Nat := s.qdAddr r.a.toNat
      (4096 ≤ r.a.toNat ∨ u.en = false → tells gone 2)
      ∧ (r.a.toNat < 4096 → u.en = true → (u.d.world.toNat ≠ r.world.toNat → tells gone 3)
        ∧ (u.d.world.toNat = r.world.toNat → (r.b.toNat % 256 ≠ 0 → tells gone 4)
          ∧ (r.b.toNat % 256 = 0 → (s.hubWritable r.world.toNat at' 8 = false →
              ∃ t, tells t 5 ∧ t.hub.queues = s.hub.queues ∧ t.hub.hslots = s.hub.hslots)
            ∧ (s.hubWritable r.world.toNat at' 8 = true → (2 ^ u.d.log < (W + 1 - R).toNat → tells gone 1)
              ∧ ((W + 1 - R).toNat ≤ 2 ^ u.d.log → W - R ≠ BitVec.allOnes 32 → ∃ t, tells t 0
                ∧ (∀ n h, u.slot = some n → mfind s.hub.hslots n = some h → mfind t.hub.hslots n = some { h with widx := W + 1 })
                ∧ (∀ pa, r.world = 0 → s.trHub 0 at' { w := true } = .ok pa → pa + 8 ≤ 2 ^ 40 → at' % 65536 + 8 ≤ 65536 → s.rangesHit pa 8 = [] →
                    pa + 8 ≤ qd + 16 ∨ qd + 32 ≤ pa → rdN t.mem pa 8 = r.b.toNat)))))))
    ∧ (∀ xd (g : BitVec 2) xb (j : Job) (o : Opb), r.i = .fork xd g xb → settled → k.job = some j → s.opb j.opb = some o → let cnt := r.a.toNat
      (sib k.kind → tells gone 5)
      ∧ (¬ sib k.kind → j.kind ≠ .step ∨ tbit o.flags 2 = false → tells gone 6)
      ∧ (∀ d, j.kind = .step → tbit o.flags 2 = true → s.hubRd j.world.toNat o.sgdesc.toNat 64 = some d → let most := leNat ((d.drop 6).take 1)
        (cnt = 0 ∨ most < cnt → tells gone 1)
        ∧ (1 ≤ cnt → cnt ≤ most → (k.grpAt g.toNat ≠ none → tells gone 2)
          ∧ ((∀ p, (s.core p).grpAt g.toNat = none) → (∀ v ∈ s.hub.saved, v.keep.grpAt g.toNat = none) →
            ((∀ n < 64, mfind s.hub.sgrps n ≠ none) → tells gone 3)
            ∧ ((∃ n < 64, mfind s.hub.sgrps n = none) → (∀ e < 256, mfind s.hub.groups e ≠ none) → tells gone 4)
            ∧ ((∃ n < 64, mfind s.hub.sgrps n = none) → (∃ e < 256, mfind s.hub.groups e = none) → ∃ t n e q y, tells t 0
              ∧ mfind s.hub.sgrps n = none ∧ mfind t.hub.sgrps n = some q ∧ q.n = cnt ∧ q.st = 0 ∧ q.run = 0 ∧ q.grp = e
              ∧ (∀ i, (q.sib i).st = 0) ∧ t.hub.sibq = s.hub.sibq ++ (List.range cnt).map (fun i => (n, i))
              ∧ mfind s.hub.groups e = none ∧ mfind t.hub.groups e = some y ∧ y.kind = 3 ∧ y.slot = g.toNat ∧ y.count = cnt ∧ y.arrived = 0
              ∧ y.world = j.world ∧ (t.core r.core).grpAt g.toNat = some e)))))
    ∧ (∀ o, r.i = .sreward o → (¬ sib r.kind → tells gone 1)
        ∧ ∀ n i q, r.kind = some (.sibling n i) → s.sibQuiet n i = true → s.sg n = some q → (q.sib i).st = 0 →
          ∃ t q', exec .hubRequestArrival s = .next t ∧ t.sg n = some q' ∧ (q'.sib i).reward = r.a.setWidth 32
            ∧ (q'.sib i).st = if r.a.toNat / 2 ^ 23 % 2 ^ 8 = 255 then 5 else 1)
    ∧ (∀ xd (g : BitVec 2) xb, r.i = .sgcancel xd g xb →
        (¬ sib r.kind → let ix := r.a.toNat
          ((k.grpAt g.toNat).bind s.sgAt = none → tells gone 3)
          ∧ ∀ n q, (k.grpAt g.toNat).bind s.sgAt = some (n, q) →
            (ix ≠ ones → q.n ≤ ix → tells gone 2) ∧ (ix ≠ ones → ix < q.n → (q.sib ix).st ≠ 0 → tells gone 1)
            ∧ (ix ≠ ones → ix < q.n → (q.sib ix).st = 0 → s.rewHeld n ix = false → ∃ t q', tells t 0 ∧ t.sg n = some q' ∧ (q'.sib ix).st = 2)
            ∧ (ix = ones → (∀ i < q.n, (q.sib i).st ≠ 0) → tells gone 1)
            ∧ (ix = ones → (∃ i < q.n, (q.sib i).st = 0 ∧ s.rewHeld n i = false) → ∃ t, tells t 0))
        ∧ ∀ n i q, r.kind = some (.sibling n i) → s.sibQuiet n i = true → s.sg n = some q → (q.sib i).st = 0 →
          ∃ t q', exec .hubRequestArrival s = .next t ∧ t.sg n = some q' ∧ (q'.sib i).st = 2)
    ∧ (∀ xd (g sel : BitVec 2), r.i = .sginfo xd g sel →
        (∀ n i, sel = 3 → k.kind = some (.sibling n i) → tells gone (i % 2 ^ 64)) ∧ (sel = 3 → ¬ sib k.kind → tells gone ones)
        ∧ (sel ≠ 3 → (k.grpAt g.toNat).bind s.sgAt = none → tells gone ones)
        ∧ ∀ n q, (k.grpAt g.toNat).bind s.sgAt = some (n, q) → let past := (List.range q.n).filter (fun i => (q.sib i).st ≠ 0)
          (sel = 0 → tells gone ((q.n + 2 ^ 8 * past.length + 2 ^ 16 * q.st) % 2 ^ 64))
          ∧ (sel = 1 → tells gone (if q.deadline = 0 then ones else (q.deadline - q.run) % 2 ^ 64))
          ∧ (sel = 2 → tells gone ((past.map (2 ^ ·)).sum % 2 ^ 64)))
    ∧ (∀ o, r.i = .tscore o → (¬ rival r.kind → tells gone 1)
        ∧ ∀ n j x y, r.kind = some (.rival n j) → s.tour n = some x → x.riv j = some y →
          ∃ t, tells t 0 ∧ ((t.tour n).bind (fun x => x.riv j)).map (·.score) = some r.a)
    ∧ (∀ xd (sel : BitVec 2), r.i = .tinfo xd sel → (¬ rival k.kind → tells gone ones)
        ∧ ∀ n j x y, k.kind = some (.rival n j) → s.tour n = some x → x.riv j = some y →
          (sel = 0 → tells gone (x.round % 2 ^ 64)) ∧ (sel = 1 → tells gone ((x.a0 * 2 ^ x.round - s.rivParcels n j) % 2 ^ 64))
          ∧ (sel = 2 → tells gone ((if x.round = 0 then 0xFF else y.rank) % 2 ^ 64)) ∧ (sel = 3 → tells gone (j % 2 ^ 64)))
    ∧ (∀ o, r.i = .tgrow o → (¬ rival k.kind → tells gone 0)
        ∧ ∀ n j x y f pa, k.kind = some (.rival n j) → s.tour n = some x → x.riv j = some y → k.flight r.flight = some f → f.id = r.flight →
          k.world = 0 → r.a.toNat < 2 ^ 56 → s.trL1 r.core r.a.toNat { w := true } = .ok pa → paKind s.hub.accid pa = .hbm → pa + 64 ≤ 2 ^ 40 →
          s.owns 0 pa 64 = true → s.rangesHit pa 64 = [] →
          ∃ t f', exec .hubRequestArrival s = .next t ∧ (t.core r.core).flight r.flight = some f' ∧ f'.phase = .served ∧ f'.data = y.cores.length
            ∧ rdN t.mem pa 64 = ((s.grp y.grp).members ||| (s.grp y.grp).newMem).toNat)

/-- Ports, lease grants, tile fetches, flue rows and channel units (15_isa_memory.md, Stream ports, 0x14–0x16,
06_execution_model.md, The kiln lease, 17_isa_kiln_flue.md, KDRAIN, 17_isa_kiln_flue.md, KMMA,
18_isa_copy_engines.md, Scheduled link words, 03_trust.md, Clearing between worlds). A transfer unit that may work
completes a cycle: a read port with its pattern read, room and a next tile of one run of at most 512 bytes that its
read gives ends with that tile as its newest (an acquire binding's transfer advancing GEN), a write port passes its
oldest tile on, without the bytes that later stores of its context have covered, once its writes go through, and an
unbinding port with nothing left is unbound; a full read port waits. A free kiln with one requesting core, which no
pre-emption holds, and no clear due is granted to it: the core holds the lease and requests none, a parked M stream
runs, the counts and the bank pointer start at 0; with a clear due the kiln is cleared and ready 1,536 cycles later.
A chunk of a KMMA under way whose rows are fetched is in place. The flue starts the next row of a drain with e0 the
row of the bank and m0 its number; after the last row the bank is idle again and one more retirement counted. A unit
of a job's own module whose clock the target's die has met, and before which no write of its stream to a scratchpad
or out of the module waits, reaches a channel with room of a core that runs a job of its world; a link word whose
slot has come may begin. -/
def Obligations.unitsMoveTheirData : Prop :=
  ∀ (s : State), let c := s.inp.core.toNat
    let k := s.core c
    let n := s.inp.idx
    let kl := s.kiln n
    (∀ x pt, mfind k.ports n = some x → x.pat = some pt → x.wait = false → k.portReady x = true → k.stop = none → k.hmode = false →
      let len := pt.tileLen
      let who := whoPort c n x
      let back (s' : State) : State := let s1 := s'.untag.farDone who; if x.bumps = true then s1.modCore c Core.genbump else s1
      (∀ a s' bs, x.wr = false → x.bumps = false ∨ k.bumpWaits = false → x.moved < pt.tiles → x.tiles.length < 4 → x.part = [] → 0 < len → len ≤ 512 → len % pt.ub = 0 →
        pt.runs (x.moved * pt.tileUnits) (len / pt.ub) = [(some a, len)] → s.untag.uRd who pt.space a len = (s', .ok bs) →
        bs.length = len → mfind (s'.core c).ports n = some x →
        exec .portTileTransfer s = .next ((back s').setCore c { (back s').core c with ports := mset (s'.core c).ports n { x with
          tags := x.tags ++ s'.rtag, tiles := x.tiles ++ [BitVec.ofNat 16384 (leNat bs)], moved := x.moved + 1, fresh := x.fresh + 1 } }))
      ∧ (∀ a s' tile rest, x.wr = true → x.tiles = tile :: rest → x.endReq = false → x.part = [] → 0 < len → len ≤ 512 → len % pt.ub = 0 →
        pt.runs (x.moved * pt.tileUnits) (len / pt.ub) = [(some a, len)] →
        let bs := leBytes len tile.toNat
        (x.snap = [] → x.left s c pt.space a len = [(a, 0, len)]) ∧ ((x.left s c pt.space a len).foldl (fun (q : State × Except UErr Unit) r =>
          match q with
          | (s, .ok ()) => s.uWr who pt.space r.1 ((bs.drop r.2.1).take r.2.2) x.os x.pol
          | e => e) (s, .ok ()) = (s', .ok ()) → mfind (s'.core c).ports n = some x →
        exec .portTileTransfer s = .next (s'.setCore c { s'.core c with ports := mset (s'.core c).ports n { x with
          tiles := rest, moved := x.moved + 1 } })))
      ∧ (x.wr = true → x.tiles = [] → x.part = [] → x.endReq = true →
        exec .portTileTransfer s = .next (s.setCore c { k with ports := mdel k.ports n }))
      ∧ (x.wr = false → 4 ≤ x.tiles.length → exec .portTileTransfer s = .next s))
    ∧ (∀ j m, kl.holder = none → kl.req = [(j, m + 1)] → j < 4 → s.clearNeeded n (4 * n + j) = false → 4 * n + j < 512 →
        (s.core (4 * n + j)).preempt = none →
        let d := 4 * n + j
        ∃ t, exec .kilnLeaseGrant s = .next t ∧ (t.kiln n).holder = some (BitVec.ofNat 9 d) ∧ (t.core d).lease = true
          ∧ (t.core d).leaseReq = false ∧ (t.kiln n).ptr = 0 ∧ (t.kiln n).opens = 0 ∧ (t.kiln n).rets = 0 ∧ (t.kiln n).req = []
          ∧ (t.core d).em.st = if (s.core d).em.st = .parked then .running else (s.core d).em.st)
    ∧ (∀ d, kl.holder = none → kl.gwait = 0 → s.leaseNext n = some d → s.clearNeeded n d = true → ∃ t, exec .kilnWorldClear s = .next t
        ∧ (t.kiln n).b0 = {} ∧ (t.kiln n).b1 = {} ∧ (t.kiln n).slots = [] ∧ (t.kiln n).reg = [] ∧ (t.kiln n).status = 0
        ∧ (t.kiln n).drain = none ∧ (t.kiln n).clearDue = false ∧ (t.kiln n).lastWorld = none ∧ (t.kiln n).gwait = 1536)
    ∧ (∀ x w, k.em.cur = some x → x.i = .kmma w → k.em.st = .running → x.begun = true → k.stop = none → x.chk ≤ x.reps / 128 + 2 →
        128 * x.chk < w.n.toNat →
        let q := s.kiln (kilnOf c)
        let b := q.bank q.ptr
        let ca := (mget 0 x.regs 4).toNat % 16
        let cb := (mget 0 x.regs 4).toNat / 16 % 16
        let fit (code base ld : Nat) : Prop := base % kunit code = 0 ∧ ld % kunit code = 0
        let x' : EWord := { x with regs := mset (mset x.regs 2 (BitVec.ofNat 64 ca)) 3 (BitVec.ofNat 64 cb) }
        let start : State := { s with cur := { core := c, src := 5, pc := k.em.pc } }.setCore c { k with em := { k.em with cur := some x' } }
        x.chk = 0 ∨ (mfind x.regs 2 = some (BitVec.ofNat 64 ca) ∧ mfind x.regs 3 = some (BitVec.ofNat 64 cb)) → kpairOk ca cb = true → ca ≠ 11 → cb ≠ 11 → fit ca (mget 0 x.regs 0).toNat (b.stride.toNat % 2 ^ 32) →
        fit cb (mget 0 x.regs 1).toNat (b.stride.toNat / 2 ^ 32) → b.kind ≠ some (!pairInt ca) → b.n ≤ pairMax ca →
        ∀ s', start.chunkRows (whoM c) x' b (128 * x.chk) (min 128 (w.n.toNat - 128 * x.chk)) false false 1921 = (s', .ok ()) →
          s'.cur = start.cur → (s'.core c).em.cur = some x' →
          ∃ t, exec .tileFetchChunkArrival s = .next t ∧ t.cur = s.cur ∧ (t.core c).em.cur = some { x' with chk := x.chk + 1 }
            ∧ (t.kiln (kilnOf c)).tf = (s'.kiln (kilnOf c)).tf ++ [(s'.kiln (kilnOf c)).tfNew] ∧ (t.kiln (kilnOf c)).tfNew = {})
    ∧ (∀ d, kl.drain = some d → let b := kl.bank d.bank
        (d.pc = 0 → d.bdone = true → d.row < b.m → ∃ t, exec .flueRowRun s = .next t ∧ (t.kiln n).drain.map (·.pc) = some 1
          ∧ (∀ j < b.n, b.kind = some false → mget 0 (mget {} (t.kiln n).reg 0).vals j = (mget 0 b.acc (1536 * d.row + j)).toNat)
          ∧ (mget {} (t.kiln n).reg 0).q = none
          ∧ (∀ e, 1 ≤ e → e < 8 → mget {} (t.kiln n).reg e = {})
          ∧ mget 0 (mget {} (t.kiln n).reg 12).vals 0 = (cvtElem .uint32 .fp32 .rne false false 0 d.row).1
          ∧ (flueSr d.prog = true → d.cnt = none → (t.kiln n).drain.map (·.cnt) = some (some (s.core d.acc).sys.srcnt)
              ∧ (t.core d.acc).sys.srcnt = (s.core d.acc).sys.srcnt + 1)
          ∧ t.mem = s.mem)
        ∧ (b.m ≤ d.row → kl.ending = 0 → kl.rets < 7 → ∃ t, exec .drainComplete s = .next t ∧ (t.kiln n).bank d.bank = {}
          ∧ (t.kiln n).drain = none ∧ (t.kiln n).rets = kl.rets + 1 ∧ (t.kiln n).holder = kl.holder ∧ t.cores = s.cores))
    ∧ (∀ u, s.hub.units[n]? = some u → s.inp.accel = s.hub.accid → u.accel = s.hub.accid → u.world = 0 →
        (∀ v ∈ s.hub.units.take n, v.chan ≠ u.chan) → s.clkMet (dieOf u.core) u.clk = true →
        (∀ w ∈ (s.core u.src).wq, w.stream = 3 + u.eng → w.id < u.id → w.kind = 0 ∧ w.no ≠ 0) → let d := s.core u.core
        let e := d.eng u.teng
        d.runsIn u.world = true → (mget [] e.chan u.chan).length + u.data.length ≤ 8192 → mget 0 e.chFrom u.chan = 0 →
        ∃ t, exec .channelUnitArrival s = .next t ∧ t.hub.units = s.hub.units.eraseIdx n
          ∧ mget [] ((t.core u.core).eng u.teng).chan u.chan = mget [] e.chan u.chan ++ u.data)
    ∧ (∀ x, n < 2 → (k.eng n).cur = some x → (∃ w, x.i = .csend w ∨ x.i = .crecv w ∨ x.i = .cred w) → x.begun = true →
        (k.eng n).slotOk = false → (x.c 2).toNat ≤ s.hub.podTime.toNat →
        exec .linkWordSlotReached s = .next (s.setCore c (k.setEng n { k.eng n with slotOk := true })))

/-- Taking, capturing, routing and leaving a stop (10_stops_and_embers.md, Stops, 10_stops_and_embers.md, The stop
image, 10_stops_and_embers.md, Ember records, 10_stops_and_embers.md, Containment, 01_package_links.md, Zeldan host
link). On an edge the core takes the one raised cause with the least priority, stream, slot and detail (of
breakpoint hits of one cause the one of the lowest index), causes of issue before later ones: the stop holds it, no
cause is left raised and SCYC stays; in handler mode the core is contained instead. With no operation in flight and
nothing of the core on its way the capture writes the image, with magic, cause, stream, counts 0, detail, SCYC,
address, PCs and x registers at their offsets, and the route follows: PREEMPT waits, HALTREQ and a debugger's cause
halt, every other cause but PAGE enters K at TVEC or, with TVEC 0, contains the core. RESUME with a valid bay
without records reloads the PCs, x registers, VSH, TVEC and RRB of the image, leaves handler mode and changes no
vector register, flag or scratchpad byte; with an invalid bay it contains the core. An uncorrectable core error
contains the core: its streams end and its OPB fails with code 8. A host read unanswered for 2,000,000 ns stops its
core with ACCESS. (The causes kept behind another stop are the model's reading, log 44, and so is the entry of a
containment without a job, log 61.) -/
def Obligations.stopsAreTakenCapturedAndLeft : Prop :=
  ∀ (s : State), let c := s.inp.core.toNat
    let k := s.core c
    (∀ r ∈ k.raises, k.runs = true → k.hold = none → (r.late = false ∨ ∀ q ∈ k.raises, q.late = true) →
        (∀ q ∈ k.raises, q ≠ r → q.late = r.late → if r.hit = true ∧ q.hit = true ∧ q.cause = r.cause then r.detail < q.detail
          else Raise.key r < Raise.key q) →
        (k.hmode = true → exec .coreStop s = .next (s.contain c 2 r.cause))
        ∧ (k.hmode = false → k.stop = none → ∃ t st, exec .coreStop s = .next t ∧ (t.core c).stop = some st ∧ st.r = r
            ∧ st.written = false ∧ (t.core c).raises = [] ∧ (t.core c).scyc = k.scyc ∧ (t.core c).hmode = false
            ∧ (t.core c).v = k.v ∧ (t.core c).flights = k.flights))
    ∧ (∀ st, k.stop = some st → st.written = false → k.hmode = false → k.flights = [] → k.far = [] → k.wq = [] → k.va = [] → k.vb = [] → k.lease = false →
        k.e0.cur = none → k.e1.cur = none → k.em.cur = none →
        ∃ u : State, let b := (u.core c).bay
          u.core c = { k with bay := b, stop := some { st with written := true } } ∧ u.mem = s.mem
          ∧ rdN b 0 4 = 0x49454C50 ∧ rdN b 4 1 = st.r.cause % 256 ∧ rdN b 5 1 = st.r.stream % 256 ∧ rdN b 6 2 = 0 ∧ rdN b 8 1 = 0
          ∧ rdN b 9 1 = st.r.detail % 256 ∧ rdN b 0x10 8 = k.scyc.toNat ∧ rdN b 0x18 8 = st.r.addr.toNat
          ∧ (∀ x ≤ 2, rdN b (0x40 + 8 * x) 8 = (k.ctx x).pc.toNat
              ∧ ∀ r : XReg, rdN b (0x80 + 256 * x + 8 * r.toNat) 8 = ((k.ctx x).rx r).toNat)
          ∧ (let goes (t : State) : Prop := exec .stopCaptureComplete s = .next t
             let halts : Prop := goes (u.setCore c { u.core c with halted := true })
             let out (n : Nat) : Prop := st.r.cause = n
             (out 14 → goes u) ∧ (out 15 → halts) ∧ (out 1 ∨ out 2 → k.attached = true → halts)
             ∧ (¬ (out 14 ∨ out 15 ∨ out 7) → ((out 1 ∨ out 2) → k.attached = false) →
                 (k.sys.tvec = 0 → goes (u.contain c 7 st.r.cause))
                 ∧ (k.sys.tvec ≠ 0 → ∃ t, goes t ∧ (t.core c).hmode = true ∧ (t.core c).ck.pc = k.sys.tvec
                     ∧ (t.core c).ck.st = .running ∧ (t.core c).ck.x = k.ck.x ∧ (t.core c).scyc = k.scyc
                     ∧ (t.core c).cl = k.cl ∧ (t.core c).cs = k.cs ∧ (t.core c).v = k.v))))
    ∧ (s.cur.src = 1 → let d := s.cur.core
        let kd := s.core d
        kd.hmode = true →
        (kd.bayOk = false → exec .resume s = .next (s.contain d 3 0))
        ∧ ∀ st, kd.bayOk = true → kd.stop = some st → kd.bayN 6 2 = 0 → kd.lease = false → kd.flights = [] →
            ∃ t, exec .resume s = .next t ∧ let k' := t.core d
              k'.stop = none ∧ k'.hmode = false ∧ k'.raises = st.pend ∧ k'.scyc = kd.scyc ∧ k'.flights = [] ∧ k'.v = kd.v
              ∧ k'.flags = kd.flags ∧ k'.sp = kd.sp ∧ k'.sys.tvec = BitVec.ofNat 64 (kd.bayN 0x78 8)
              ∧ k'.sys.vsh = BitVec.ofNat 32 (kd.bayN 0x24 4) ∧ k'.sys.rrb = kd.bayN 0x20 2 % 64 % 48 ∧ t.mem = s.mem
              ∧ (∀ x ≤ 2, (k'.ctx x).pc = BitVec.ofNat 64 (kd.bayN (0x40 + 8 * x) 8)
                  ∧ ∀ r : XReg, r ≠ 0 → (k'.ctx x).rx r = BitVec.ofNat 64 (kd.bayN (0x80 + 256 * x + 8 * r.toNat) 8)))
    ∧ (exec .eccUncorrectableError s = .next (s.contain c 1 0)
        ∧ (k.job = none → ∃ t : State, s.contain c 1 0 = t.setCore c { k with clearing := true } ∧ t.cores = s.cores ∧ t.mem = s.mem
          ∧ mfind t.hub.log (s.hub.errpos + 1).toNat = some ⟨8, reqCode 1 c, s.hub.podTime.toNat, 0, 256, 0, 0⟩)
        ∧ ∀ j o, k.job = some j → j.kind = .step → s.opb j.opb = some o → s.parentOf c = [] → let t := s.contain c 1 0
            (t.core c).failed = true ∧ (t.core c).clearing = true ∧ (t.core c).ended = true ∧ (t.core c).ports = []
            ∧ (∀ x ≤ 2, ((t.core c).ctx x).st.isRun = false ∧ ((t.core c).eng x).st.isRun = false)
            ∧ (∃ o', t.opb j.opb = some o' ∧ o'.stopCl = true ∧ j.step ∈ o'.bad ∧ (o.failed = 0 → o'.failed = 8))
            ∧ mfind t.hub.log (s.hub.errpos + 1).toNat = some ⟨8, reqCode 1 c, s.hub.podTime.toNat, 0, 256, j.world.toNat, 0⟩)
    ∧ (∀ f, s.inp.idx2 = 0 → k.flight s.inp.idx = some f → f.phase = .sent → isRead f.i = true →
        (f.pa / 2 ^ 54 = 2 ∨ f.pa / 2 ^ 54 = 3) → f.sentAt + 2000000 ≤ s.hub.podTime.toNat →
        ∃ t, exec .moduleHostReadTimeout s = .next t ∧ (t.core c).raises = k.raises ++ [⟨6, f.src, f.slot, 0, f.ea, 0xFFFF, true⟩]
          ∧ t.mem = s.mem ∧ mfind t.hub.log (s.hub.errpos + 1).toNat = some ⟨5, reqCode 1 c, s.hub.podTime.toNat, f.ea, 0, k.world.toNat, 0⟩)

/-- Watchdogs, deadlines, pre-emption and the context switch (06_execution_model.md, Progress and the watchdog,
10_stops_and_embers.md, Pre-emption and context switch, 05_samples_tournaments.md, Sample groups,
05_samples_tournaments.md, Tournament scopes, 02_host_interface.md, Interface states, 04_scheduler.md, Rack
scheduler nodes). A running core whose watchdog has run out raises WATCHDOG, with the countdown at 2^WDOG again; a
barrier whose watchdog has run out is released with code 3. A request to pre-empt reaches the core of a step,
started or not, and every such core of a tournament scope, which is frozen. A core that has stopped at its safe
point, with its writes done and no tile left to write, is switched out: its save area with magic 0x53434C50 and the
safe-mask index is written to the memory of its world at the scheduler's address and the core is idle; a round's
stop leaves the core and joins the rival's stopped cores. A saved step comes back on its own core when that is idle
and needs no clear. A rival that has reached its allowance is asked to stop: one of one core at once, of several
each core a free time later; at a group's deadline every open sibling whose reward is not at the hub ends with
status 3. An error in hub state or the management watchdog puts the interface in ERROR with cause 4 or 5. A
reservation ends at its time. (That a step comes back on the core it left, and that the request names the core, is
the model's choice, log 57; where the save area stands and that it keeps all registers without a safe point is its
reading, log 24; the free times are log 5.) -/
def Obligations.watchdogsAndPreemptionAct : Prop :=
  ∀ (s : State), let c := s.inp.core.toNat
    let k := s.core c
    let calm (d : Nat) : Prop := ((s.core d).runs = true ∨ (s.core d).starting = true) ∧ ∀ st, (s.core d).stop = some st → st.r.cause ≠ 14
    (∀ j, k.job = some j → k.runs = true → k.stop = none → k.wdleft = 0 → exec .jobWatchdogExpiry s = .next (s.setCore c { k with
        raises := k.raises ++ [⟨16, 7, 0, 0, 0, 0xFFFF, true⟩], wdleft := 2 ^ j.wdog }))
    ∧ ((s.grp s.inp.idx).left = some 0 → (s.grp s.inp.idx).arrived ≠ 0 →
        exec .barrierWatchdogExpiry s = .next (s.barRelease s.inp.idx 3 0))
    ∧ (∀ j, k.job = some j → k.runs = true ∨ k.starting = true → k.preempt ≠ some 0 →
        (j.kind = .step → calm c → exec .preemptRequest s = .next (s.setCore c { k with preempt := some 0 }))
        ∧ (∀ n i, j.kind = .rival n i → ∃ t, exec .preemptRequest s = .next t
            ∧ (∀ x, s.tour n = some x → t.tour n = some { x with frozen := true })
            ∧ ∀ d ∈ s.coresWith (isRivalIn n), calm d → t.core d = { s.core d with preempt := some 0 }))
    ∧ (∀ st j, k.stop = some st → k.job = some j → st.r.cause = 14 → st.written = true →
        (∀ n r x v, st.r.detail = 1 → j.kind = .rival n r → s.tour n = some x → x.riv r = some v → c ∉ v.stopped →
          ∃ t, exec .preemptStop s = .next t ∧ t.core c = { k with preempt := if k.preempt = some 0 then some 0 else none }
            ∧ t.tour n = some (x.modRiv r (fun v => { v with stopped := v.stopped ++ [c] })))
        ∧ (let a := (s.saveArea c j st.r.idx).1
          let pa := s.inp.addr.toNat
          st.r.detail ≠ 1 → k.wq = [] → k.ports = [] → k.lease = false → s.areaOk j.world.toNat pa a.length = true →
          ∃ t v, exec .preemptStop s = .next t ∧ t.hub.saved = s.hub.saved ++ [v] ∧ v.core = c ∧ v.keep.job = some j
            ∧ v.keep.stop = some st ∧ v.pa = pa ∧ v.len = a.length ∧ fld a 0 4 = 0x53434C50 ∧ fld a 4 2 = st.r.idx % 65536
            ∧ (j.world = 0 → s.hub.rranges = [] → rdBs t.mem pa a.length = a ∧ ∀ b, (b < pa ∨ pa + a.length ≤ b) → rdB t.mem b = rdB s.mem b)
            ∧ (t.core c).job = none ∧ (t.core c).ended = false ∧ (t.core c).stop = none ∧ (t.core c).lastWorld = some j.world
            ∧ (t.core c).attached = k.attached ∧ v.keep.e0.shape = none ∧ v.keep.e1.shape = none))
    ∧ (∀ v j st, s.hub.saved[s.inp.idx]? = some v → v.keep.job = some j → j.kind = .step → v.keep.stop = some st →
        let d := s.core v.core
        d.job = none → d.clearing = false → d.prep = 0 → d.split = none → d.wq = [] →
        (d.lastWorld = none ∨ d.lastWorld = some v.keep.world) →
        exec .contextSwitchIn s = .next (({ s with hub := { s.hub with saved := s.hub.saved.filter (fun x => x != v) } }).switchIn v))
    ∧ (∀ x r, s.tour s.inp.idx = some x → x.riv s.inp.idx2 = some r → r.st = 1 → x.last = false → x.bound = false →
        x.frozen = false → r.asked = false → r.yield = false → x.allow ≤ s.rivParcels s.inp.idx s.inp.idx2 →
        ∃ t, exec .allowanceReached s = .next t
          ∧ t.tour s.inp.idx = some (x.modRiv s.inp.idx2 (fun r => { r with asked := true }))
          ∧ let l := s.coresWith (isRivalOf s.inp.idx s.inp.idx2)
            (∀ d, l = [d] → t.core d = { s.core d with preempt := some ((s.core d).preempt.getD 1) })
            ∧ (1 < l.length → t.cores = s.cores ∧ ∀ d ∈ l, ∃ n, 2 ≤ n ∧ (s.inp.idx, s.inp.idx2, d, n) ∈ t.hub.stopAsks))
    ∧ (∀ g, s.sg s.inp.idx = some g → g.deadline ≠ 0 → g.deadline ≤ g.run → g.st = 0 →
        s.sgOpen s.inp.idx ≠ [] → ∃ t, exec .sampleDeadlineExpiry s = .next t
          ∧ ∀ i ∈ s.sgOpen s.inp.idx, ∃ g', t.sg s.inp.idx = some g' ∧ (g'.sib i).st = 3 ∧ (g'.sib i).running = false)
    ∧ (∃ t, exec .hubStateUncorrectableError s = .next t ∧ t.hub.hif = 4 ∧ (s.hub.hif ≠ 4 → t.hub.cause = 4))
    ∧ (∃ t, exec .managementCoreWatchdogExpiry s = .next t ∧ t.hub.hif = 4 ∧ (s.hub.hif ≠ 4 → t.hub.cause = 5))
    ∧ (mget 0 s.hub.resv c ≠ 0 → mget 0 s.hub.resv c ≤ s.hub.podTime.toNat + 1 →
        exec .reservationExpiry s = .next { s with hub := { s.hub with
          resv := mdel s.hub.resv c, resvFor := mdel s.hub.resvFor c } })

/-- Resets, trip, throttle, pod time and UALink (01_package_links.md, Reset, 01_package_links.md, Power and cooling,
01_package_links.md, Clocks, 01_package_links.md, Pod time, 01_package_links.md, UALink, 02_host_interface.md,
Interface states). A cold reset leaves the reset state with nothing in memory; a warm reset, refused in RESET, after
a trip and while a sealed world is live, keeps HBM, without what only L2 held of a written line. The reset steps
follow one another: step 1 enters BOOT, steps 3 and 4 complete when every image verifies and extend their
measurement registers, step 5 enters READY and starts pod time; a step that misses its bound of Table 1-2 gives
ERROR with cause 1 and its number, the images it had verified being measured. A trip gives cause 2, turns the rails
off and leaves no key. THROTTLE_DOWN, and after 50 ms without it UP, move the clock one step, counted and logged. A
measured offset goes to PTSTAT with SYNC for at most 20 ns, LOST beyond, and the correction slewed; a write to
PTSTAT makes the module a source or a follower. A failed port goes down and is logged; with the last one a follower
loses SYNC. A peer's read or write that has waited 2,000,000 ns is an ACCESS stop, the write dropped, and so is a
channel unit on its way to a peer. A peer module reads, writes and does atomics of world 0 at the home, and is
refused outside READY and RUN. (The status of a refused warm reset is log 36; that the signature check is a free
function of key, hash and image is log 38; the numbers of the clock steps and the 50 ms are log 64.) -/
def Obligations.resetPowerTimeAndLinks : Prop :=
  ∀ (s : State), let h := s.hub
    let kept (t : State) : Prop := t.hostMem = s.hostMem ∧ t.peerMem = s.peerMem ∧ t.cores = [] ∧ t.kilns = [] ∧ t.l2 = [] ∧ t.fmts = []
    (∃ t, exec .coldReset s = .next t ∧ kept t ∧ t.mem = [] ∧ t.gens = [] ∧ t.hub = State.reset.hub ∧ t.out = s.out)
    ∧ (h.hif ≠ 0 → ¬ (h.hif = 4 ∧ h.cause = 2) → (∀ e ∈ h.worlds, e.1 = 0 ∨ e.2.st = 0) →
        ∃ t, exec .warmReset s = .next t ∧ kept t ∧ t.hub = { State.reset.hub with warm := true }
          ∧ (∀ a, (∀ e ∈ s.l2, e.1 % 9 = 0 → e.2.hbm ≠ none → a / 128 ≠ e.1 / 9) → rdB t.mem a = rdB s.mem a)
          ∧ (∀ n x b, s.l2 = [(9 * n, x)] → x.hbm = some b → rdBs t.mem (128 * n) 128 = leBytes 128 b.toNat)
          ∧ t.out = s.out ++ [.mgmt s.inp.tag .ok []])
    ∧ (h.hif = 0 ∨ (h.hif = 4 ∧ h.cause = 2) ∨ (∃ e ∈ h.worlds, e.1 ≠ 0 ∧ e.2.st ≠ 0) →
        exec .warmReset s = .next ((s.logErr 1 (reqCode 0 0) 0 0 0 5).send (.mgmt s.inp.tag (.refused 5) [])))
    ∧ (h.hif ≤ 1 → h.rails = .on → h.wall ≤ resetBound h.rstep →
        let goes (g : Hub) : Prop := exec .resetStepComplete s = .next { s with hub := { g with rstep := h.rstep + 1 } }
        let ext (i : Nat) (x : List Byte) (m : Map (BitVec 512)) : Map (BitVec 512) :=
          mset m i (sha512N (beBytes 64 (mget 0 m i).toNat ++ beBytes 64 (sha512N x).toNat))
        let good (x : List Byte) : Prop := Config.verifies Config.imageKey (sha512N x) x = true
        (h.rstep = 1 → goes { h with hif := 1 }) ∧ (h.rstep = 2 → goes h)
        ∧ (∀ x y z, h.rstep = 3 → s.inp.images = [x, y, z] →
            (good x ∧ good y ∧ good z → goes { h with meas := ext 2 z (ext 1 y (ext 0 x h.meas)) })
            ∧ (¬ (good x ∧ good y ∧ good z) → exec .resetStepComplete s = .fault .notEnabled))
        ∧ (∀ x, h.rstep = 4 → s.inp.images = [x] → (good x → goes { h with meas := ext 3 x h.meas })
            ∧ (¬ good x → exec .resetStepComplete s = .fault .notEnabled))
        ∧ (h.rstep = 5 → s.inp.ok = true → goes { h with hif := 2, ptRun := true, ptSync := true, podTime := s.inp.val, phase := 0 })
        ∧ (h.rstep = 5 → s.inp.ok = false → goes { h with hif := 2, ptRun := true, ptSync := false }))
    ∧ (h.hif ≤ 1 → h.rstep ≤ 5 → resetBound h.rstep < h.wall →
        let seen : List (List Byte) := s.inp.images.takeWhile (fun x => Config.verifies Config.imageKey (sha512N x) x)
        let got : List (Nat × List Byte) := if h.rstep = 3 then List.zip [0, 1, 2] seen
          else if h.rstep = 4 then List.zip [3] seen else []
        ∃ t, exec .resetStepTimeout s = .next t ∧ t.hub.hif = 4 ∧ t.hub.cause = 1 ∧ t.hub.badstep = h.rstep
          ∧ t.hub.meas = got.foldl (fun m x => mset m x.1 (sha512N (beBytes 64 (mget 0 m x.1).toNat ++ beBytes 64 (sha512N x.2).toNat))) h.meas)
    ∧ (∃ t, exec .moduleTrip s = .next t ∧ t.hub.hif = 4 ∧ t.hub.cause = 2 ∧ t.hub.rails = .off
        ∧ ∀ e ∈ t.hub.worlds, e.2.k0 = 0 ∧ e.2.k1 = 0 ∧ e.2.live0 = false ∧ e.2.live1 = false)
    ∧ (let step (i : Instr) (hot n : Nat) : Prop := exec i s = .next (({ s with hub := { h with
          hot := hot, clkstep := n, thrott := h.thrott + 1 } }).logErr 4 (reqCode 4 0) 0 (BitVec.ofNat 32 n) 0 0)
       (h.clkstep < 3 → step .throttleDown h.wall (h.clkstep + 1))
       ∧ (3 ≤ h.clkstep → exec .throttleDown s = .next { s with hub := { h with hot := h.wall } })
       ∧ (h.clkstep ≠ 0 → h.hot + 50000000 * 1020000 ≤ h.wall → step .throttleUp h.hot (h.clkstep - 1)))
    ∧ (let z := s.inp.val.toInt
       h.ptRun = true → h.ptSrc = false → h.ports ≠ 0 → -32768 ≤ z → z < 32768 → exec .podTimeOffsetMeasure s = .next { s with hub := { h with
          ptOffs := BitVec.ofInt 16 z, ptSync := decide (z.natAbs ≤ 20), ptLost := h.ptLost || !decide (z.natAbs ≤ 20),
          ptSlew := -(z * 1020000) } })
    ∧ (s.mmioGate false 0x50010 = 0 → (h.blk 5).lock = false →
        let done (g : Hub) : Prop := exec .ptstatWrite s = .next (({ s with hub := g }).send (.status s.inp.fn 0 0))
        (s.inp.val.getLsbD 2 = true → done { h with ptSrc := true, ptSync := true, ptLost := false, ptSlew := 0 })
        ∧ (s.inp.val.getLsbD 2 = false → done { h with
            ptSrc := false, ptSync := h.ptSync && !h.ptSrc, ptLost := h.ptLost && !s.inp.val.getLsbD 3 }))
    ∧ (s.inp.idx < 16 → h.ports.getLsbD s.inp.idx = true → 
        let up := h.ports &&& ~~~(1#16 <<< s.inp.idx)
        let lost : Prop := up = 0 ∧ h.ptSrc = false
        exec .ualinkPortFail s = .next (({ s with hub := { h with
          ports := up, ptSync := if lost then false else h.ptSync, ptSlew := if lost then 0 else h.ptSlew } }).logErr 3 (reqCode 4 0) 0 (BitVec.ofNat 32 s.inp.idx) 0 0))
    ∧ (let c := s.inp.core.toNat
       let k := s.core c
       (∀ f, s.inp.idx2 = 0 → k.flight s.inp.idx = some f → f.phase = .sent → isRead f.i = true → (∃ p ∈ f.parts, paKind h.accid p.1 = .peer) →
          f.sentAt + 2000000 ≤ h.podTime.toNat → ∃ t, exec .ualinkDeliveryTimeout s = .next t
            ∧ (t.core c).raises = k.raises ++ [⟨6, f.src, f.slot, 0, f.ea, 0xFFFF, true⟩])
       ∧ (∀ w rest, s.inp.idx2 = 16 → k.wq = w :: rest → w.kind = 0 → w.atom = none → paKind h.accid w.addr = .peer →
          w.sentAt + 2000000 ≤ h.podTime.toNat → ∃ t, exec .ualinkDeliveryTimeout s = .next t ∧ (t.core c).wq = rest ∧ t.peerMem = s.peerMem ∧ t.mem = s.mem
            ∧ (k.runsIn w.world = true → w.dead = none →
                (t.core c).raises = k.raises ++ [⟨6, w.stream, 0, 0, BitVec.ofNat 64 w.va, 0xFFFF, true⟩]))
       ∧ (∀ u, s.inp.idx2 = 20 → h.units[s.inp.idx]? = some u → u.accel ≠ h.accid → u.sentAt + 2000000 ≤ h.podTime.toNat →
            ∃ t, exec .ualinkDeliveryTimeout s = .next t ∧ u ∉ t.hub.units ∧ t.peerMem = s.peerMem
              ∧ ((s.core u.src).runsIn u.world = true → (t.core u.src).raises
                  = (s.core u.src).raises ++ [⟨6, 3 + u.eng, 0, 0, u.target, 0xFFFF, true⟩])))
    ∧ (let a := s.inp.addr.toNat
       let id := s.inp.accel.toNat
       let tells (t : State) (d : Option (List Byte)) : Prop := exec .peerModuleRequest s = .next t ∧ t.out = s.out ++ [.peer d]
       let unit (n : Nat) : Prop := (n = 64 ∨ n = 128 ∨ n = 256) ∧ a % n = 0
       h.ports ≠ 0 → (h.hif ≠ 2 → h.hif ≠ 3 → ∃ t, tells t none ∧ t.mem = s.mem)
       ∧ (h.hif = 2 ∨ h.hif = 3 → s.inp.world = 0 → a < 2 ^ 40 →
          (∀ n, s.inp.peer = .read n → unit n → s.homeCheck 5 id 0 a n false = (s, true) →
            ∃ t, tells t (some (rdBs s.mem a n)) ∧ t.mem = s.mem)
          ∧ (∀ bs, s.inp.peer = .write bs → unit bs.length → s.homeCheck 5 id 0 a bs.length true = (s, true) →
            s.inp.wide = BitVec.allOnes 256 → ∃ t, tells t (some []) ∧ (∀ j < bs.length, rdB t.mem (a + j) = bs.getD j 0)
              ∧ ∀ x, (x < a ∨ a + bs.length ≤ x) → rdB t.mem x = rdB s.mem x)
          ∧ (∀ op x y, s.inp.peer = .atomic op x y → a % AtomK.size op = 0 →
            s.homeCheck 5 id 0 a (AtomK.size op) true = (s, true) →
            ∃ t, tells t (some (rdBs s.mem a (AtomK.size op)))
              ∧ ∀ v, atomNew op (rdN s.mem a (AtomK.size op)) x.toNat y.toNat = some v →
                  rdN t.mem a (AtomK.size op) = v % 2 ^ (8 * AtomK.size op))))

/-- Host memory accesses, the MMIO gate, register writes, BLKCTL, format ranges and LTAB (02_host_interface.md,
Interface states, 02_host_interface.md, Function blocks, 02_host_interface.md, Error responses and the error log,
03_trust.md, Where plaintext exists, 07_memory_hierarchy.md, Format ranges and scale sidecars, 09_number_formats.md,
LNS6, 03_trust.md, Boot measurement and attestation). An MMIO request is refused with NOTREADY outside READY and
RUN, but for the block HIF in ERROR and its reads in BOOT, and with DENIED for a function other than 0 but at notify
registers and, for hub general cores, at PAGING. A write of no register answers 1, of a read-only one 7; QTBASE,
WBUF, WFUNC, ACCID, RLSEL and DBGSEL take a legal value, QTBASE refuses a change of its field under lock with 2 and
a reserved bit with 7. HIFSTAT and PTCOUNT read as they stand. A host read or write of world 0 reaches HBM, with
every other byte unchanged by the write; outside READY and RUN the read is answered NOTREADY and the write is
dropped with vector 0. BLKCTL sets EXPERT, and LOCK with the digests of the block's registers, beside those it
holds, and measurement 4 extended; a locked block refuses a change with 2. A format range takes BASE, LEN, SCALE and
CTL while it is off and may be turned off; the table override needs EXPERT, and refuses zero, infinite and NaN
codes. The byte string that measurement 4 is extended with is the model's choice (log 27), and so are the order of
the checks (log 26) and what becomes of a posted write that the interface state refuses (log 35). -/
def Obligations.hostRequestsReachMemoryAndRegisters : Prop :=
  ∀ (s : State), let h := s.hub
    let fn := s.inp.fn
    let v := s.inp.val.toNat
    let w := s.inp.val
    let off : Nat := s.inp.addr.toNat
    let tells (i : Instr) (o : Nat) (t : State) (st : Nat) : Prop := exec i s = .next (t.mmioDone o st 0)
    let up : Prop := h.hif = 2 ∨ h.hif = 3
    (∀ (rd : Bool) (o : Nat), let b : Nat := o / 65536
      let free : Prop := up ∨ (b = 0 ∧ (h.hif = 4 ∨ (rd = true ∧ h.hif = 1)))
      (¬ free → s.mmioGate rd o = 5) ∧ (free → (fn = 0 ∨ b = 2 ∨ (s.inp.ok = true ∧ b = 10)) → s.mmioGate rd o = 0)
      ∧ (free → fn ≠ 0 → b ≠ 2 → ¬ (s.inp.ok = true ∧ b = 10) → s.mmioGate rd o = 3))
    ∧ (∀ (o : Nat) (d : Word), s.mmioDone o 0 d = s.send (.status fn 0 d)
        ∧ ∀ st, st ≠ 0 → (s.mmioDone o st d).out = s.out ++ [.status fn st 0] ∧ (s.mmioDone o st d).hub.errpos = h.errpos + 1)
    ∧ (regAt off s.inp.len = none →
        (s.mmioGate false off = 0 → tells .registerWrite off s 1) ∧ (s.mmioGate false off ≠ 0 → tells .registerWrite off s (s.mmioGate false off)))
    ∧ (∀ r, regAt off s.inp.len = some r → s.mmioGate false off = 0 →
        let puts (g : Hub) : Prop := tells .registerWrite off { s with hub := g } 0
        (r ∈ [.hifstat, .errpos, .qstat, .wstat, .wkeypub, .rlcnt, .rlhead, .ptcount, .dbgstat, .trwr, .trdrop, .rpstat, .fqhead,
            .fqopen, .fqstat] → tells .registerWrite off s 7)
        ∧ (let same : Prop := bits h.qtbase.toNat 18 38 = bits v 18 38
           r = .qtbase → ((h.blk 1).lock = false → v % 2 ^ 18 = 0 → v < 2 ^ 56 →
              (same → tells .registerWrite off s 0) ∧ (¬ same → puts { h with qtbase := w }))
            ∧ ((h.blk 1).lock = true → ¬ same → tells .registerWrite off s 2)
            ∧ (same ∨ (h.blk 1).lock = false → v % 2 ^ 18 ≠ 0 ∨ 2 ^ 56 ≤ v → tells .registerWrite off s 7))
        ∧ (r = .wbuf → v % 256 = 0 → puts { h with wbuf := w }) ∧ (r = .wbuf → v % 256 ≠ 0 → tells .registerWrite off s 7)
        ∧ (∀ f, r = .wfunc f → (h.blk 3).lock = false → v < 1024 → (mget 0 h.wfunc f).toNat ≠ v →
            puts { h with wfunc := mset h.wfunc f (BitVec.ofNat 10 v) })
        ∧ (r = .accid → (h.blk 5).lock = false → v < 1024 → puts { h with accid := BitVec.ofNat 10 v })
        ∧ (r = .rlsel → v < 2 ^ 15 → v % 8 ≠ 7 → puts { h with rlsel := BitVec.ofNat 32 v })
        ∧ (r = .dbgsel → v < 512 → puts { h with trc := { h.trc with sel := BitVec.ofNat 32 v } }))
    ∧ (let pa : Nat := s.normPa off
       linkReq pa s.inp.len = true → paKind h.accid pa = .mmio →
        exec .hostMemoryRead s = .next (s.mmioRd (pa % 2 ^ 24) s.inp.len)
        ∧ (s.mmioGate true 4 = 0 → s.mmioRd 4 4 = s.mmioDone 4 0 (h.hifstat.setWidth 64))
        ∧ (s.mmioGate true 0x50018 = 0 → s.mmioRd 0x50018 8 = s.mmioDone 0x50018 0 h.podTime))
    ∧ (off + 256 < 2 ^ 40 → linkReq off s.inp.len = true →
        (up → s.fnWorld fn = 0 → s.homeCheckS 0 fn.toNat 0 off s.inp.len false 4 = (s, true) →
          ∃ t, exec .hostMemoryRead s = .next t ∧ t.out = s.out ++ [.hostRead fn (some (rdBs s.mem off s.inp.len))] ∧ t.mem = s.mem)
        ∧ (¬ up → ∃ t, exec .hostMemoryRead s = .next t ∧ t.out = s.out ++ [.hostRead fn none, .status fn 5 0] ∧ t.mem = s.mem))
    ∧ (off + 256 < 2 ^ 40 → let n : Nat := s.inp.data.length
        linkReq off n = true →
        (up → s.fnWorld fn = 0 → s.homeCheckS 0 fn.toNat 0 off n true 0 = (s, true) →
          ∃ t, exec .hostMemoryWrite s = .next t ∧ t.out = s.out ∧ (∀ j < n, rdB t.mem (off + j) = s.inp.data.getD j 0)
            ∧ ∀ x, (x < off ∨ off + n ≤ x) → rdB t.mem x = rdB s.mem x)
        ∧ (¬ up → ∃ t, exec .hostMemoryWrite s = .next t ∧ t.out = s.out ++ [.irq 0 0] ∧ t.mem = s.mem))
    ∧ (let b := s.inp.idx
       let x := h.blk b
       let o : Nat := 65536 * b
       b ≠ 2 → b < 11 → s.mmioGate false o = 0 →
        (x.lock = true → tells .blkctlWrite o s (if w.getLsbD 0 = x.expert then 0 else 2))
        ∧ (x.lock = false → w.getLsbD 1 = false →
            tells .blkctlWrite o { s with hub := { h with blks := mset h.blks b { x with expert := w.getLsbD 0 } } } 0)
        ∧ (x.lock = false → w.getLsbD 1 = true → ∃ t, tells .blkctlWrite o t 0
            ∧ t.hub.blk b = ⟨true, w.getLsbD 0, h.podTime.toNat, (lkRegs b).map (fun e => (e.1, sha512N (s.lkBytes e.2))) ++ x.digs⟩
            ∧ mget 0 t.hub.meas 4 = sha512N (beBytes 64 (mget 0 h.meas 4).toNat
                ++ beBytes 64 (sha512N ((lkRegs b).flatMap (fun e => s.lkBytes e.2))).toNat)))
    ∧ (∀ i, s.mmioGate false off = 0 →
        let r := mget {} s.fmts i
        let put (r : FmtRange) : Prop := tells .formatRangeWrite off { s with fmts := mset s.fmts i r } 0
        let at' (g : Reg) : Prop := regAt off s.inp.len = some g
        let off' : Prop := (h.blk 9).lock = false ∧ r.ctl.getLsbD 31 = false
        (at' (.fmbase i) → (off' → v % 2 ^ 21 = 0 → put { r with base := w })
          ∧ ((h.blk 9).lock = false → r.ctl.getLsbD 31 = true → tells .formatRangeWrite off s 7)
          ∧ ((h.blk 9).lock = true → r.base ≠ w → tells .formatRangeWrite off s 2))
        ∧ (at' (.fmlen i) → off' → v % 2 ^ 21 = 0 → v ≠ 0 → put { r with len := w })
        ∧ (at' (.fmscale i) → off' → v % 4096 = 0 → put { r with scale := w })
        ∧ (at' (.fmctl i) → (h.blk 9).lock = false → bits v 8 23 = 0 → bits v 2 2 = 0 → v < 2 ^ 32 → bits v 4 4 < 14 → bits v 0 2 ≠ 3 →
            (v < 2 ^ 31 → put { r with ctl := BitVec.ofNat 32 v })
            ∧ (2 ^ 31 ≤ v → r.ctl.getLsbD 31 = false → (s.fmtOk i r v = true → put { r with ctl := BitVec.ofNat 32 v })
                ∧ (s.fmtOk i r v = false → tells .formatRangeWrite off s 7))))
    ∧ (∀ k, s.mmioGate false off = 0 → (h.blk 6).lock = false →
        let kl := s.kiln k
        (∀ i, regAt off s.inp.len = some (.ltab k i) →
          ((h.blk 6).expert = false → tells .kilnLtabWrite off s 6)
          ∧ ((h.blk 6).expert = true → bits v 23 8 ≠ 255 → v % 2 ^ 31 ≠ 0 →
              tells .kilnLtabWrite off (s.setKiln k { kl with ltab := mset kl.ltab i (BitVec.ofNat 32 v) }) 0)
          ∧ ((h.blk 6).expert = true → (bits v 23 8 = 255 ∨ v % 2 ^ 31 = 0) → tells .kilnLtabWrite off s 7))
        ∧ (regAt off s.inp.len = some (.lnsctl k) → (h.blk 6).expert = true → v < 2 →
            tells .kilnLtabWrite off (s.setKiln k { kl with ovr := w.getLsbD 0 }) 0))

/-- SUMMARY, SPDM, certificate slots and the image cache (02_host_interface.md, SUMMARY, 02_host_interface.md,
Interface states, 03_trust.md, Boot measurement and attestation, 12_assembly_and_objects.md, The sealed image
cache). In RESET every message is refused with NOTREADY. SUMMARY writes its buffer, which begins with magic
0x4D534C50, to host memory and nothing else there, and owes the reply with its length; it answers busy while another
is in progress and short, with the length needed, for a small buffer. GET_VERSION answers 1.3; NEGOTIATE_ALGORITHMS
agrees to P-521 with SHA-512 or is invalid; GET_DIGESTS gives the mask and digests of the populated slots,
GET_CERTIFICATE a piece of one, GET_MEASUREMENTS one register or all sixteen, signed on request; CHALLENGE keeps the
slot's contents and the nonce for its response; any other request is unsupported. Function 0 writes slots 1 to 7,
held while a challenge names the slot and applied at the latest 100,000,000 ns after it. In READY and RUN function 0
may have an entry sealed, checked, or a world's instruction caches invalidated, one message at a time. The SPDM
error codes and flag bits are presumed (log 8); what SUMMARY does at any buffer address is the model's choice (log
65), and so are the contents of a CHALLENGE response and the answer for an empty slot (log 66). -/
def Obligations.managementChannelAnswers : Prop :=
  ∀ (s : State), let h := s.hub
    let i := s.inp
    let p := h.spdm
    let no (x : Instr) (st : Nat) : Prop := exec x s = .next (s.mgmtRefuse st)
    let tells (x : Instr) (st : MgmtSt) (d : List Byte) : Prop := exec x s = .next (s.send (.mgmt i.tag st d))
    let sets (x : Instr) (q : Spdm) : Prop := exec x s = .next { s with hub := { h with spdm := q } }
    let live : Prop := h.hif = 2 ∨ h.hif = 3
    (∀ st, (s.mgmtRefuse st).out = s.out ++ [.mgmt i.tag (.refused st) []])
    ∧ (h.hif = 0 → ∀ x ∈ [Instr.summary, .getVersion, .getCapabilities, .negotiateAlgorithms, .getDigests, .getCertificate, .challenge,
        .getMeasurements, .spdmUnsupportedRequest, .certificateSlotWrite, .imgseal, .imgcheck], no x 5)
    ∧ (h.hif ≠ 0 →
        (h.sumRep = none → s.summary.length ≤ i.len → ∃ t n, exec .summary s = .next t
            ∧ t.hub = { h with sumRep := some ⟨i.tag, 0, leBytes 4 s.summary.length, n⟩ } ∧ t.mem = s.mem ∧ t.out = s.out
            ∧ (∀ j < s.summary.length, rdB t.hostMem (i.addr.toNat + j) = s.summary.getD j 0)
            ∧ ∀ a, (a < i.addr.toNat ∨ i.addr.toNat + s.summary.length ≤ a) → rdB t.hostMem a = rdB s.hostMem a)
        ∧ (h.sumRep ≠ none → tells .summary .busy [])
        ∧ (h.sumRep = none → i.len < s.summary.length → tells .summary .short (leBytes 4 s.summary.length))
        ∧ fld s.summary 0 4 = 0x4D534C50 ∧ fld s.summary 6 1 = h.hif % 256 ∧ fld s.summary 8 8 = h.podTime.toNat
        ∧ tells .getVersion .ok [0x13] ∧ tells .getCapabilities .ok (leBytes 4 0x16)
        ∧ (i.idx.testBit 8 = true → i.idx2.testBit 2 = true → tells .negotiateAlgorithms .ok (leBytes 4 0x100 ++ leBytes 4 4))
        ∧ (i.idx.testBit 8 = false ∨ i.idx2.testBit 2 = false → tells .negotiateAlgorithms spdmInvalid [])
        ∧ (let l := (List.range 8).filterMap (fun n => (p.slot n).map (fun b => (n, b)))
           tells .getDigests .ok (leBytes 1 (l.map (fun e => 2 ^ e.1)).sum ++ l.flatMap (fun e => sha512 e.2)))
        ∧ (∀ b, p.slot i.idx = some b → tells .getCertificate .ok ((b.drop i.idx2).take i.len)
            ∧ ∃ t n, exec .challenge s = .next t ∧ t.out = s.out ∧ t.hub = { h with spdm := { p with
                chal := p.chal ++ [⟨i.tag, i.idx, h.podTime.toNat, b, i.wide, n⟩] } })
        ∧ (p.slot i.idx = none → tells .getCertificate spdmInvalid [] ∧ tells .challenge spdmInvalid [])
        ∧ (let m (j : Nat) : List Byte := beBytes 64 (mget 0 h.meas j).toNat
           let meas (b : List Byte) : Prop := (i.ok = false → tells .getMeasurements .ok b)
             ∧ (i.ok = true → tells .getMeasurements .ok (b ++ Config.sign (b ++ leBytes 32 i.wide.toNat)))
           (1 ≤ i.idx → i.idx ≤ 16 → meas (m (i.idx - 1))) ∧ (i.idx = 0xFF → meas ((List.range 16).flatMap m))
           ∧ (i.idx = 0 ∨ (16 < i.idx ∧ i.idx ≠ 0xFF) → tells .getMeasurements spdmInvalid []))
        ∧ tells .spdmUnsupportedRequest spdmUnsupported []
        ∧ (i.fn ≠ 0 → no .certificateSlotWrite 3)
        ∧ (i.fn = 0 → (i.idx = 0 ∨ 7 < i.idx → tells .certificateSlotWrite spdmInvalid [])
            ∧ (i.idx ≠ 0 → i.idx ≤ 7 →
                let held : Prop := ∃ x ∈ p.chal, x.slot = i.idx
                let puts (q : Spdm) : Prop :=
                  exec .certificateSlotWrite s = .next (({ s with hub := { h with spdm := q } }).send (.mgmt i.tag .ok []))
                (held → puts { p with held := mset p.held i.idx i.data })
                ∧ (¬ held → puts { p with slots := mset p.slots i.idx i.data })))
        ∧ (∀ b x, mfind p.held i.idx = some b → x ∈ p.chal → x.slot = i.idx → x.time + 100000000 ≤ h.podTime.toNat →
            sets .certificateWriteDeferralExpiry { p with slots := mset p.slots i.idx b, held := mdel p.held i.idx }))
    ∧ (h.hif ≠ 2 → h.hif ≠ 3 → no .imgseal 5 ∧ no .imgcheck 5 ∧ no .icinvw 5)
    ∧ (live → i.fn ≠ 0 → no .imgseal 3 ∧ no .imgcheck 3 ∧ no .icinvw 3)
    ∧ (live → i.fn = 0 → h.imgRep ≠ none → tells .imgseal .busy [] ∧ tells .imgcheck .busy [] ∧ tells .icinvw .busy [])
    ∧ (live → i.fn = 0 → h.imgRep = none →
        let b := rdBs s.hostMem (i.addr.toNat) i.len
        let owes (x : Instr) (k : Nat) (d : List Byte) : Prop := ∃ t n, exec x s = .next t
          ∧ t.hub = { h with imgRep := some ⟨i.tag, k, d, n⟩ } ∧ t.mem = s.mem ∧ t.cores = s.cores
        owes .imgseal 1 (imgTag b)
        ∧ (64 ≤ b.length → b.drop (b.length - 64) = imgTag (b.take (b.length - 64)) → owes .imgcheck 2 [])
        ∧ ((b.length < 64 ∨ b.drop (b.length - 64) ≠ imgTag (b.take (b.length - 64))) → owes .imgcheck 3 [])
        ∧ (1023 < i.idx → tells .icinvw .badWorld [])
        ∧ (i.idx ≤ 1023 → ∃ t n, exec .icinvw s = .next t ∧ t.hub.imgRep = some ⟨i.tag, 4, [], n⟩
            ∧ (let w := BitVec.ofNat 10 i.idx
               (∀ e ∈ s.cores, e.2.ilock = []) → t.mem = s.mem ∧ ∀ e ∈ s.cores, e.2.runsIn w = true ∨ e.2.lastWorld = some w →
                (t.core e.1).icache = [])))

/-- QCTL, notifies, the mapping of queues and launch packets (02_host_interface.md, User queues, 04_scheduler.md,
Dispatch order, 04_scheduler.md, Rack scheduler nodes, 04_scheduler.md, Device-side launch). A QCTL write is refused
with 5 while BUSY and with 7 for reserved bits. ENABLE refuses an enabled queue with 5 and an invalid descriptor
with 7; else the queue holds the descriptor's fields, is ready exactly when it has entries, and READY becomes RUN.
DISABLE stops the queue and writes RIDX and CIDX of a mapped one back, never WIDX; DRAIN also sets BUSY while OPBs
are in flight. A notify with V in the window writes WIDX to the descriptor and to the slot of a mapped queue, and
makes an unmapped one ready; outside the window it stops the queue with 7; a disabled queue answers 5, a function of
another world 3. The ready queue of highest PRIO, the earliest among equals, takes the lowest free slot, ready no
more; an invalid descriptor stops it. A launch packet is answered with a report of status 5 from a source not
admitted, 4 when malformed, 2 for a queue number of 4,096 or more, else that of the launch, and reserves as many
idle cores as it asks for and its OPB's placement allows until its time; the report goes out on the link the packet
came on. That the reservation is chosen step by step is the model's choice (log 67). -/
def Obligations.queuesTakeNotifiesAndSlots : Prop :=
  ∀ (s : State), let h := s.hub
    let fn := s.inp.fn
    let v := s.inp.val.toNat
    let q : Nat := bits v 0 12
    let u := s.uq q
    let tells (i : Instr) (t : State) (st : Nat) : Prop := exec i s = .next (t.mmioDone 0x10010 st 0)
    let raw := s.qdRaw q
    (s.mmioGate false 0x10010 = 0 → ∀ e ∈ [(1, Instr.queueEnable), (2, .queueDisable), (3, .queueDrain)], bits v 28 4 = e.1 →
        (h.qbusy = true → tells e.2 s 5)
        ∧ (h.qbusy = false → (bits v 12 16 ≠ 0 ∨ 2 ^ 32 ≤ v) → tells e.2 s 7))
    ∧ (s.mmioGate false 0x10010 = 0 → h.qbusy = false → bits v 12 16 = 0 → v < 2 ^ 32 →
        (bits v 28 4 = 1 → (u.en = true → tells .queueEnable s 5)
          ∧ (u.en = false → s.qDescOk raw = false → tells .queueEnable s 7)
          ∧ (u.en = false → s.qDescOk raw = true → h.qtbase.toNat < 2 ^ 40 → ∃ t, tells .queueEnable t 0 ∧ (t.uq q).en = true
              ∧ (t.uq q).d = qDescOf raw ∧ (t.uq q).slot = none ∧ (t.uq q).opbs = u.opbs
              ∧ ((t.uq q).ready = true ↔ fld raw 0x10 4 ≠ fld raw 0x14 4) ∧ t.hub.hif = (if h.hif = 2 then 3 else h.hif)))
        ∧ (bits v 28 4 = 2 → tells .queueDisable (s.qDisable q) 0)
        ∧ (bits v 28 4 = 3 → ∃ t, tells .queueDrain t 0 ∧ (t.uq q).en = false ∧ t.hub.qid = q ∧ t.hub.qbusy = !u.opbs.isEmpty))
    ∧ (((s.qDisable q).uq q).en = false ∧ ((s.qDisable q).uq q).ready = false
        ∧ ∀ n x, u.slot = some n → mfind h.hslots n = some x → h.qtbase.toNat < 2 ^ 40 → let b := (s.qDisable q).qdRaw q
            ((s.qDisable q).uq q).slot = none ∧ fld b 0x14 4 = x.ridx.toNat ∧ fld b 0x18 4 = x.cidx.toNat
            ∧ fld b 0x10 4 = fld raw 0x10 4)
    ∧ (∀ q, s.inp.idx = q → q < 4096 →
        let u := s.uq q
        let o : Nat := 0x20000 + 8 * q
        let done (t : State) (st : Nat) : Prop := exec .notifyWrite s = .next (t.send (.status fn st 0))
        let val : BitVec 32 := s.inp.val.setWidth 32
        let d : Nat := (val - (s.qIdx q).2.1).toNat
        let legal : Prop := s.qPending q ≤ d ∧ d ≤ 2 ^ u.d.log
        let mine : Prop := s.mmioGate false o = 0 ∧ (fn = 0 ∨ s.qWorld q = s.fnWorld fn)
        (s.mmioGate false o ≠ 0 → exec .notifyWrite s = .next (s.mmioDone o 5 0))
        ∧ (s.mmioGate false o = 0 → fn ≠ 0 → s.qWorld q ≠ s.fnWorld fn → exec .notifyWrite s = .next (s.mmioDone o 3 0))
        ∧ (mine → v < 2 ^ 32 →
            (u.en = false → ∃ t, done t 5 ∧ t.hub.queues = h.queues ∧ t.mem = s.mem)
            ∧ (u.en = true → ¬ legal → ∃ t, done t 7 ∧ (t.uq q).en = false ∧ (t.uq q).ready = false)
            ∧ (u.en = true → legal → h.qtbase.toNat < 2 ^ 40 → ∃ t, done t 0 ∧ fld (t.qdRaw q) 0x10 4 = v ∧ (t.uq q).en = true
                ∧ (∀ n x, u.slot = some n → mfind h.hslots n = some x → mfind t.hub.hslots n = some { x with widx := val })
                ∧ (u.slot = none → 0 < d → (t.uq q).ready = true) ∧ (u.slot = none → d = 0 → (t.uq q).ready = u.ready))))
    ∧ (let m := s.idleMarks
       ∀ q, m.nextReady = some q →
        (∃ x, (q, x) ∈ m.hub.queues ∧ x.en = true ∧ x.ready = true ∧ x.slot = none ∧ ∀ e ∈ m.hub.queues, e.2.en = true →
            e.2.ready = true → e.2.slot = none → e.2.d.prio ≤ 7 → x.d.prio ≤ 7 → e.2.since < 2 ^ 64 → x.since < 2 ^ 64 →
            e.2.d.prio ≤ x.d.prio ∧ (e.2.d.prio = x.d.prio → x.since ≤ e.2.since))
        ∧ ∀ n < 64, mfind m.hub.hslots n = none → (∀ k < n, mfind m.hub.hslots k ≠ none) → (m.uq q).slot = none →
            (m.qDescOk (m.qdRaw q) = true → ∃ t x, exec .queueMap s = .next t ∧ (t.uq q).slot = some n ∧ (t.uq q).ready = false
              ∧ (t.uq q).d = qDescOf (m.qdRaw q) ∧ mfind t.hub.hslots n = some x ∧ x.q = q ∧ x.widx = (m.qIdx q).1
              ∧ x.ridx = (m.qIdx q).2.1 ∧ x.cidx = (m.qIdx q).2.2 ∧ x.idle = none)
            ∧ (m.qDescOk (m.qdRaw q) = false → ∃ t, exec .queueMap s = .next t ∧ (t.uq q).en = false))
    ∧ (let d := padTo 64 s.inp.data
       let good : Prop := s.inp.data.length = 64 ∧ fld d 0 4 = 0x504C4C50 ∧ fld d 4 2 = 1 ∧ fld d 6 2 < 2
         ∧ fld d 0x14 2 ≤ 512 ∧ fld d 0x16 2 = 0 ∧ fld d 0x28 24 = 0 ∧ (fldW d 0x18).toNat % 256 = 0
       let tells (t : State) (st : Nat) : Prop := ∃ b : List Byte, exec .launchPacket s = .next (t.send (.report s.inp.idx b)) ∧ fld b 0 4 = 0x52524C50
         ∧ fld b 6 2 = st ∧ fld b 8 8 = fld d 8 8 ∧ fld b 16 8 = h.podTime.toNat
       (s.inp.ok = false → tells s 5) ∧ (s.inp.ok = true → ¬ good → tells s 4)
       ∧ (s.inp.ok = true → good → 4096 ≤ fld d 0x10 2 → tells s 2)
       ∧ (s.inp.ok = true → good → fld d 0x10 2 < 4096 → ∀ t st, s.launchAt (fld d 0x10 2) (fld d 0x12 2) (fldW d 0x18) = (t, st) →
          (st ≠ 0 → tells t (if st = 5 then 6 else st)) ∧ (st = 0 → fld d 6 2 = 0 → tells t 0)
          ∧ (st = 0 → fld d 6 2 = 1 → let q := fld d 0x10 2
              let w := BitVec.ofNat 10 (fld d 0x12 2)
              let idle := t.idleCores (some (q, fldW d 0x18))
              let o := match t.opbCheck q 0 (fldW d 0x18) w (t.uq q).d.prio with | .ok o => some o | .error _ => none
              let l := t.pickResv o w 513 (fld d 0x14 2) idle
              ∃ t' : State, tells t' 0 ∧ t'.hub.queues = t.hub.queues ∧ l.length ≤ fld d 0x14 2
              ∧ (∀ c ∈ l, c ∈ idle ∧ mget 0 t'.hub.resv c = fld d 0x20 8 + 1 ∧ mfind t'.hub.resvFor c = some (q, fldW d 0x18))
              ∧ ∀ c, c ∉ l → mget 0 t'.hub.resv c = mget 0 t.hub.resv c)))

/-- From the ring entry to the completion of a block (04_scheduler.md, The operator parameter block,
04_scheduler.md, Dispatch order, 04_scheduler.md, Wait and completion counters, 04_scheduler.md, Expanding an OPB
into tile steps, 04_scheduler.md, Placement, 06_execution_model.md, Jobs, 03_trust.md, Clearing between worlds,
02_host_interface.md, Completion and host visibility). A ring entry that may be fetched is read once with RIDX moved
on: an address outside the space is refused with 5, a misaligned one with 4, an invalid block with its code, each
stopping the queue; a valid block is in flight, last of its queue. A wait counter that has reached its target is
satisfied, else it is read again 10,000 ns later. A head claims its next step, or counts it done where its PROGRESS
bit is set. The only turn that can be placed is placed: each core of a plain step gets the job with its rank and
arguments. A core is cleared of all a world left in 4,096 cycles. A job starts at SCYC 0 with PCs from its image,
the registers set for its step, nothing else of an earlier program but the scratchpad, GEN bumped and the watchdog
full. A quiet core whose job has ended is freed; its step is finished with the last core. A finished step sets its
PROGRESS bit. A block with all steps done advances CIDX, interrupts once per queue and hub cycle, and leaves; a
failed one stops its queue. (That an interrupt carries function 0 is log 58; that a job's image record is read again
at its start is log 59.) -/
def Obligations.blocksAreFetchedPlacedAndCompleted : Prop :=
  ∀ (s : State), let c := s.inp.core.toNat
    let k := s.core c
    let n := s.inp.idx
    let now := s.hub.podTime.toNat
    let refused (q code : Nat) (a : Nat) (t : State) : Prop := (t.uq q).en = false ∧ ∃ m e, mfind t.hub.log m = some e ∧ e.cls = 2
      ∧ e.addr = BitVec.ofNat 64 a ∧ (q < 4096 → e.detail.toNat = code * 2 ^ 16 + 3 * 2 ^ 12 + q)
    let stopped (i : Instr) (q : Nat) : Prop := ∃ t, exec i s = .next t ∧ (t.uq q).en = false
    (∀ m x, s.fetchable n = true → (s.uq n).slot = some m → mfind s.hub.hslots m = some x →
        let u := s.uq n
        let a : Nat := u.d.base.toNat + 8 * (x.ridx.toNat % 2 ^ u.d.log)
        (s.hubRd u.d.world.toNat a 8 = none → stopped .opbFetch n)
        ∧ ∀ b, s.hubRd u.d.world.toNat a 8 = some b →
            (2 ^ 56 ≤ leNat b → ∃ t, exec .opbFetch s = .next t ∧ refused n 5 (leNat b) t)
            ∧ (leNat b < 2 ^ 56 → leNat b % 256 ≠ 0 → ∃ t, exec .opbFetch s = .next t ∧ refused n 4 (leNat b) t)
            ∧ (leNat b < 2 ^ 56 → leNat b % 256 = 0 →
                let r := (s.hubSees u.d.world.toNat a 8).setRidx n (x.ridx + 1)
                (∀ e, r.opbCheck n x.ridx (BitVec.ofNat 64 (leNat b)) u.d.world u.d.prio = .error e →
                  exec .opbFetch s = .next ((r.opbReads u.d.world.toNat (leNat b)).qStop n 3 e (reqCode 4 0) (BitVec.ofNat 64 (leNat b)) u.d.world.toNat 0)
                    ∧ stopped .opbFetch n)
                ∧ ∀ o, r.opbCheck n x.ridx (BitVec.ofNat 64 (leNat b)) u.d.world u.d.prio = .ok o →
                  ∃ t, exec .opbFetch s = .next t ∧ t.opb s.hub.nextOpb = some o ∧ (t.uq n).opbs = u.opbs ++ [s.hub.nextOpb]
                    ∧ (t.qIdx n).2.1 = x.ridx + 1 ∧ t.hub.nextOpb = s.hub.nextOpb + 1))
    ∧ (∀ o a g j, s.opb n = some o → s.inp.idx2 = j → o.waits[j]? = some (a, g) → j ∉ o.sat → mget 0 o.retry j ≤ now + 1 →
        let next (p : Opb) : Prop := let r := s.hubSees o.world.toNat a.toNat 8
          exec .waitCounterReread s = .next { r with hub := { r.hub with opbs := mset s.hub.opbs n p } }
        (∀ b, s.hubRd o.world.toNat a.toNat 8 = some b → g.toNat ≤ leNat b → next { o with sat := o.sat ++ [j] })
        ∧ (∀ b, s.hubRd o.world.toNat a.toNat 8 = some b → leNat b < g.toNat → next { o with retry := mset o.retry j (now + 10001) }))
    ∧ (∀ o b, s.opb n = some o → (s.headOf o.q).map (·.1) = some n → s.headReady o.q (n, o) = true → o.next < o.n → o.claimed = [] →
        s.hubRd o.world.toNat (o.progress.toNat + o.next / 8) 1 = some b →
        let next (p : Opb) : Prop := let r := s.hubSees o.world.toNat (o.progress.toNat + o.next / 8) 1
          exec .stepClaim s = .next { r with hub := { r.hub with opbs := mset s.hub.opbs n p } }
        ((leNat b).testBit (o.next % 8) = true → next { o with next := o.next + 1, done := o.done + 1 })
        ∧ ((leNat b).testBit (o.next % 8) = false → next { o with next := o.next + 1, claimed := [o.next] }))
    ∧ (∀ sl q l cost t, s.turns = [(sl, q, l)] → s.plan q = some (cost, t) → cost ≤ 8 → ∃ t', exec .dispatchOpportunity s = .next t'
        ∧ t'.cores = t.cores ∧ t'.mem = t.mem ∧ t'.hub.oc = s.hub.oc + 1 ∧ t'.hub.opbs = t.hub.opbs ∧ t'.hub.groups = t.hub.groups)
    ∧ (∀ q m o i rest cs, s.hub.sibq = [] → s.hub.sgrps = [] → s.headOf q = some (m, o) → s.headReady q (m, o) = true → o.claimed = i :: rest →
        o.flags.testBit 1 = false → o.flags.testBit 3 = false → o.groups = [] → s.pickStep o (s.idleCores (some (o.q, o.addr))) = some cs → cs.Nodup →
        s.opb m = some o → ∃ t, s.plan q = some (1, t) ∧ (∀ r d, cs[r]? = some d → (t.core d).starting = true ∧ (t.core d).job =
            some (mkJob .step m i o.prio o [] (initX (stepIdx o.ext i) i r o.cps o.addr o.args)))
          ∧ ∃ o', t.opb m = some o' ∧ o'.running = o.running ++ [i] ∧ i ∉ o'.claimed)
    ∧ (k.prep = 0 → k.job = none → k.clearing = true → ∃ t, exec .coreWorldClear s = .next t ∧ t.core c = { k with
        cl := {}, ck := {}, cs := {}, v := [], p := [], queues := [], ports := [], flags := [], fhist := [], flagOs := [], incs := [],
        va := [], vb := [], e0 := {}, e1 := {}, em := {}, recs := [], sp := [], bay := [], l1 := [], tlb := [], icache := [],
        ilock := [], lastWorld := none, clearing := false, prep := 4096 } ∧ t.mem = s.mem)
    ∧ (∀ j b, k.job = some j → k.starting = true → k.clearFirst = false → k.prep = 0 → k.split = none → k.gran = 32 - j.l1g →
        k.bumpWaits = false → s.hubRd j.world.toNat j.image.toNat 128 = some b → ∃ t, exec .jobStart s = .next t
          ∧ (let d := t.core c
             d.scyc = 0 ∧ d.starting = false ∧ d.l1gen = k.l1gen + 1 ∧ d.wdleft = 2 ^ j.wdog ∧ d.v = [] ∧ d.p = [] ∧ d.flags = []
             ∧ d.queues = [] ∧ d.sys = {} ∧ d.flights = [] ∧ d.stop = none ∧ d.lastWorld = some j.world ∧ d.sp = k.sp ∧ d.recs = [] ∧ d.mute = k.mute
             ∧ (∀ x ≤ 2, (d.ctx x).x = j.init ∧ (d.ctx x).pc = fldW b (8 + 8 * x) ∧ (d.ctx x).loops = []
                 ∧ (d.ctx x).st = (if fldW b (8 + 8 * x) = 0 then .notStarted else .running))
             ∧ (∀ x ≤ 1, (d.eng x).pc = fldW b (0x20 + 8 * x) ∧ (d.eng x).r = []
                 ∧ (d.eng x).st = (if fldW b (0x20 + 8 * x) = 0 then .notStarted else .running))
             ∧ d.em.st = .notStarted))
    ∧ (∀ j o, k.job = some j → k.ended = true → s.jobQuiet c = true → j.kind = .step → j.slots = [] → s.opb j.opb = some o →
        let same (i : Job) : Bool := i.kind == .step && i.opb == j.opb && i.step == j.step
        s.coresWith same = [c] → s.savedWith same = [] → ∃ t, exec .jobCompletionRelease s = .next t ∧ (t.core c).job = none
          ∧ t.opb j.opb = some { o with
              running := o.running.filter (fun i => i != j.step), bad := o.bad.filter (fun i => i != j.step),
              finish := if o.bad.contains j.step then o.finish else o.finish ++ [j.step] })
    ∧ (∀ o i rest pa, s.opb n = some o → o.finish = i :: rest → o.page = none → o.world = 0 →
        let va : Nat := o.progress.toNat + i / 8
        s.trHub 0 va { r := true, w := true } = .ok pa → pa < 2 ^ 40 →
        s.homeCheck 4 0 0 pa 1 true = (s, true) → ∃ t o', exec .stepComplete s = .next t ∧ t.opb n = some o' ∧ o'.done = o.done + 1
          ∧ o'.finish = rest ∧ (rdB t.mem pa).toNat = (rdB s.mem pa).toNat ||| 2 ^ (i % 8)
          ∧ ∀ x, x ≠ pa → rdB t.mem x = rdB s.mem x)
    ∧ (∀ o, s.opb n = some o → o.running = [] → o.finish = [] → o.page = none →
        (o.failed ≠ 0 → ∃ t, exec .opbComplete s = .next t ∧ t.opb n = none ∧ (t.uq o.q).en = false
          ∧ (∃ m e, mfind t.hub.log m = some e ∧ e.cls = 2 ∧ e.addr = o.addr))
        ∧ (∀ m x, o.failed = 0 → o.n ≤ o.done → (o.cdone = 0 ∨ o.cinc = 0) → (s.uq o.q).slot = some m → mfind s.hub.hslots m = some x →
            o.index = x.cidx → (s.uq o.q).doneIx = [] → ∃ t, exec .opbComplete s = .next t ∧ t.opb n = none
              ∧ (t.qIdx o.q).2.2 = x.cidx + 1 ∧ n ∉ (t.uq o.q).opbs
              ∧ t.out = s.out ++ (if (s.uq o.q).d.irq ∧ o.q ∉ s.hub.irqd then [.irq 0 (s.uq o.q).d.vec] else [])))

/-- World commands, teardown, the walkers and watched ranges (03_trust.md, World control and key slots, 03_trust.md,
Rotation and issue-time keys, 03_trust.md, Scrub receipts, 03_trust.md, Range logs, 03_trust.md, Locked-register
walker, 03_trust.md, Boot measurement and attestation, 02_host_interface.md, Interface states). A write to WCMD
answers 5 while BUSY and 7 for reserved bits; an accepted command ends with its ERR in WSTAT. CREATE of a free world
with a blob that unwraps and free ranges makes it CREATED under generation 0, with measurement 5 extended, else ERR
1, 2 or 3. LOCKCFG makes CREATED LOCKED. ROTATE of a LOCKED world with one live generation installs the new key
under the other parity and leaves the old one; RETIRE destroys the key of an old live generation. TEARDOWN, refused
with ERR 4 while an OPB of the world is in flight, leaves no key, no L2 line and zeros in its ranges, every other
byte as before, the cores keeping their last world, and stays BUSY until the receipt is written. The re-encryption
walker starts when no write under the old key is left, takes the lines of the ranges one by one, leaving those it
has passed under the current generation, and ends with every line under it. RLCTL turns a free range on with its
counters at 0. A register that differs from its digest puts the interface in ERROR with cause 3. The byte string
that measurement 5 is extended with is the model's choice (log 27), as is where the root of a sealed world's page
tables comes from (log 45). -/
def Obligations.worldsAreCreatedRotatedAndDestroyed : Prop :=
  ∀ (s : State), let h := s.hub
    let v := s.inp.val.toNat
    let w : Nat := bits v 32 10
    let x := s.world w
    let done (i : Instr) (st : Nat) : Prop := exec i s = .next (s.mmioDone 0x30010 st 0)
    let ends (i : Instr) (u : State) (err : Nat) (busy : Bool) : Prop := exec i s = .next (({ u with hub := { u.hub with
        wstat := BitVec.ofNat 32 (w * 1024 + err * 4 + (if busy then 1 else 2)) } }).mmioDone 0x30010 0 0)
    let all : List (Nat × Instr) := [(1, .create), (2, .rotate), (3, .retire), (4, .lockcfg), (5, .teardown)]
    (s.mmioGate false 0x30010 = 0 → (∀ e ∈ all, bits v 60 4 = e.1 →
        (h.wstat.getLsbD 0 = true → done e.2 5)
        ∧ (h.wstat.getLsbD 0 = false → (bits v 42 18 ≠ 0 ∨ w = 0 ∨ (e.1 ≠ 3 ∧ bits v 0 32 ≠ 0)) → done e.2 7)))
    ∧ (s.mmioGate false 0x30010 = 0 → h.wstat.getLsbD 0 = false → bits v 42 18 = 0 → w ≠ 0 →
        (bits v 60 4 = 1 → bits v 0 32 = 0 → let d := s.rawRd h.wbuf.toNat 0x508
          (x.st ≠ 0 → ends .create s 1 false)
          ∧ (x.st = 0 → unwrapBlob (d.take 256) w = none → ends .create s 2 false)
          ∧ ∀ key, x.st = 0 → unwrapBlob (d.take 256) w = some key →
            (descRanges d = none → ends .create s 3 false)
            ∧ ∀ l, descRanges d = some l → (s.rangesFree l = false → ends .create s 3 false)
              ∧ (s.rangesFree l = true → ∃ u, ends .create u 0 false ∧ u.mem = s.mem
                  ∧ u.world w = { st := 1, root := s.inp.addr, live0 := true, k0 := key, ranges := l, born := h.podTime.toNat }
                  ∧ mget 0 u.hub.meas 5 = sha512N (beBytes 64 (mget 0 h.meas 5).toNat
                      ++ beBytes 64 (sha512N (leBytes 2 w ++ (d.drop 0x108).take 1024)).toNat)))
        ∧ (bits v 60 4 = 2 → bits v 0 32 = 0 → let key := unwrapBlob (s.rawRd h.wbuf.toNat 256) w
          (x.st ≠ 2 → ends .rotate s 1 false)
          ∧ (x.st = 2 → x.live0 = true → x.live1 = true → ends .rotate s 5 false)
          ∧ (x.st = 2 → (x.live0 = false ∨ x.live1 = false) → (key = none → ends .rotate s 2 false)
              ∧ ∀ k, key = some k → ∃ u, ends .rotate u 0 false ∧ u.mem = s.mem ∧ let y := u.world w
                  y.st = 3 ∧ y.count = x.count + 1 ∧ y.key y.cur = k ∧ y.live y.cur = true ∧ y.key x.cur = x.key x.cur
                  ∧ y.live x.cur = x.live x.cur ∧ y.ranges = x.ranges))
        ∧ (bits v 60 4 = 3 → let g : Nat := bits v 0 32
          (x.st = 3 → ends .retire s 7 false)
          ∧ (x.st ≠ 3 → ¬ (x.st = 2 ∧ g ≠ x.count ∧ x.genLive g = true) → ends .retire s 6 false)
          ∧ (x.st = 2 → g ≠ x.count → x.genLive g = true → ∃ u, ends .retire u 0 false ∧ let y := u.world w
              y.key (decide (g % 2 = 1)) = 0 ∧ y.live (decide (g % 2 = 1)) = false ∧ y.key x.cur = x.key x.cur ∧ y.live x.cur = x.live x.cur
              ∧ y.st = 2 ∧ y.count = x.count))
        ∧ (bits v 60 4 = 4 → bits v 0 32 = 0 → (x.st ≠ 1 → ends .lockcfg s 1 false)
          ∧ (x.st = 1 → ∃ u, ends .lockcfg u 0 false ∧ u.world w = { x with st := 2, lockAt := h.podTime.toNat }))
        ∧ (bits v 60 4 = 5 → bits v 0 32 = 0 → (x.st = 0 ∨ x.st = 4 → ends .teardown s 1 false)
          ∧ (x.st ≠ 0 → x.st ≠ 4 → (∃ o ∈ h.opbs, o.2.world.toNat = w) → ends .teardown s 4 false)
          ∧ (x.st ≠ 0 → x.st ≠ 4 → (∀ o ∈ h.opbs, o.2.world.toNat ≠ w) → ∃ u, ends .teardown u 0 true ∧ (u.world w).st = 4
              ∧ (u.world w).k0 = 0 ∧ (u.world w).k1 = 0 ∧ (u.world w).live0 = false ∧ (u.world w).live1 = false
              ∧ (∀ e ∈ u.l2, e.2.world.toNat ≠ w) ∧ ((s.cores.map (·.1)).Nodup → ∀ c, (s.core c).clearing = false → (u.core c).lastWorld = (s.core c).lastWorld) ∧ (∀ a, rdB u.mem a = if inRanges x.ranges a then 0 else rdB s.mem a))))
    ∧ (let w := s.inp.world.toNat
       let x := s.world w
       (x.st = 4 → w ≠ 0 → ∃ t, exec .scrubComplete s = .next t ∧ mfind t.hub.worlds w = none
          ∧ t.hub.wstat = BitVec.ofNat 32 (w * 1024 + 2) ∧ fld (s.receipt w) 0 4 = 0x52534C50
          ∧ (x.wbuf.toNat < 2 ^ 40 → ∀ j < (s.receipt w).length, rdB t.mem (x.wbuf.toNat + j) = (s.receipt w).getD j 0))
       ∧ (x.st = 3 → x.walk = false → s.oldWrites w = false → exec .reencryptWalkerStart s = .next { s with hub := { h with
            worlds := mset h.worlds w { x with walk := true, wpos := 0 } } })
       ∧ (x.st = 3 → x.walk = true → let walked (t : State) : Prop := (∀ i pa, i < (t.world w).wpos → rangeLine x.ranges i = some pa →
              t.lineBit pa = x.cur);
            (walked s → walked (s.walkStep w))
            ∧ (∀ pa, rangeLine x.ranges x.wpos = some pa → (∀ i ∈ s.invs, i.line ≠ pa / 128) →
                (s.walkStep w).world w = { x with wpos := x.wpos + 1 } ∧ (s.walkStep w).lineBit pa = x.cur)
            ∧ (rangeLine x.ranges x.wpos = none → ∃ t, exec .reencryptWalkerComplete s = .next t
                ∧ t.world w = { x with st := 2, walk := false }
                ∧ (walked s → ∀ r ∈ x.ranges, ∀ j < r.2 / 128, t.lineBit (r.1 + 128 * j) = x.cur))))
    ∧ (s.mmioGate false 0x40030 = 0 → bits v 23 8 = 0 → bits v 10 5 = 0 → v < 2 ^ 32 →
        let here : Nat := bits h.rlsel.toNat 3 12
        let r := h.rsel
        let puts (r : RRange) : Prop := exec .rlctlWrite s = .next (({ s with hub := { h with
          rranges := mset h.rranges here r } }).mmioDone 0x40030 0 0)
        (v < 2 ^ 31 → puts { r with ctl := BitVec.ofNat 32 v })
        ∧ (2 ^ 31 ≤ v → r.ctl.getLsbD 31 = false → r.len ≠ 0 → r.base + r.len ≤ 2 ^ 40 →
            (∀ a, r.base / 2 ^ 21 ≤ a → a ≤ (r.base + r.len - 1) / 2 ^ 21 → s.owner (a * 2 ^ 21) = bits v 0 10) →
            (∀ e ∈ h.rranges, e.1 ≠ here → e.2.ctl.getLsbD 31 = false) → puts { r with ctl := BitVec.ofNat 32 v, cnt := [] })
        ∧ (2 ^ 31 ≤ v → (r.ctl.getLsbD 31 = true ∨ r.len = 0 ∨ 2 ^ 40 < r.base + r.len) →
            exec .rlctlWrite s = .next (s.mmioDone 0x40030 7 0)))
    ∧ (h.walkAt + 900000 ≤ h.podTime.toNat →
        let right (e : Nat × Blk) (r : Nat × Reg) : Prop := mfind e.2.digs r.1 = some (sha512N (s.lkBytes r.2))
        ((∀ e ∈ h.blks, e.2.lock = true → e.2.since ≤ h.walkAt → ∀ r ∈ lkRegs e.1, right e r) →
          (∀ d ∈ (h.blk 3).digs, 65536 ≤ d.1 → (s.world (d.1 - 65536)).lockAt ≤ h.walkAt → d.2 = sha512N (s.world (d.1 - 65536)).rangeBytes) →
          exec .lockedRegisterWalkPass s = .next { s with hub := { h with walkAt := h.podTime.toNat } })
        ∧ (∀ e ∈ h.blks, ∀ r ∈ lkRegs e.1, e.2.lock = true → e.2.since ≤ h.walkAt → ¬ right e r →
          ∃ t, exec .lockedRegisterWalkPass s = .next t ∧ t.hub.hif = 4 ∧ (h.hif ≠ 4 → t.hub.cause = 3)))

/-- The fault ring, FQDONE, TLB invalidation and the debug commands (10_stops_and_embers.md, Paging faults,
07_memory_hierarchy.md, Translation, 11_debug_trace.md, Halts and breakpoints). A waiter's fault on a page with an
entry joins its waiters; else, with room, an entry with the next sequence number, flags, address, time and the
waiter is written to the ring, FQHEAD moves on and the hub cores are signalled; without room the fault waits. FQDONE
frees its entry: with OK a waiting core resumes from its bay, an engine, port or hub write tries again; with FAIL
the waiting core, or that of the engine or port, is contained. Another value answers 7. An invalidation removes
exactly the entries that overlap, in every TLB. ATTACH refuses a running job of a sealed world with 4; DETACH, HALT,
RESUME, COPYOUT and COPYIN answer 5 where the core is not attached or not halted, else they drop the breakpoints,
raise HALTREQ, resume the core (ending a replay on it first with ERR 1), or move bay, vector registers and flags to
and from the buffer. Every command answers 5 while one on the selected core is BUSY, and one that acts leaves BUSY
for a free time (log 70). A breakpoint is written only while attached and only with a legal value. That an entry
counts every waiter is the model's choice (log 30); that ATTACH is allowed on an idle core, and that STREAM of a
breakpoint of another kind is not looked at, is its reading (log 37). -/
def Obligations.pagingServiceAndDebuggerAct : Prop :=
  ∀ (s : State), let h := s.hub
    let i := s.inp
    let v := i.val.toNat
    (let w : Nat × Nat := (if i.idx = 8 then i.idx2 else i.core.toNat, i.idx)
     let world : BitVec 10 := if i.idx = 8 then i.world else (s.core i.core.toNat).world
     let va : Word := BitVec.ofNat 64 (i.addr.toNat / 65536 * 65536)
     let ent (n : BitVec 32) : FaultEnt := ⟨n, world, v, va, h.podTime.toNat, [w]⟩
     s.waits w = true → (∀ e ∈ h.faults ++ h.fwait, w ∉ e.waiters) →
      (∀ e, h.faults = [e] → e.world = world → e.va = va → ∃ t, exec .faultEnqueue s = .next t
          ∧ t.hub = { h with faults := [{ e with waiters := e.waiters ++ [w] }] } ∧ t.out = s.out)
      ∧ ((∀ e ∈ h.faults, ¬ (e.world = world ∧ e.va = va)) → h.fwait = [] →
          (h.fqRoom = false → exec .faultEnqueue s = .next { s with hub := { h with fwait := [ent 0] } })
          ∧ (h.fqRoom = true → ∃ t, exec .faultEnqueue s = .next t ∧ t.out = s.out ++ [.hubIrq]
              ∧ t.hub = { h with faults := h.faults ++ [ent (h.fqhead + 1)], fqhead := h.fqhead + 1 }
              ∧ (h.fqbase.toNat < 2 ^ 40 → rdBs t.mem (h.fqbase.toNat + 32 * (h.fqhead.toNat % 4096)) 32
                  = (ent (h.fqhead + 1)).bytes))))
    ∧ (∀ x : Nat × Nat, let c := x.1
        s.mmioGate false 0xA0020 = 0 → h.fwait = [] →
        let free : State := { s with hub := { h with faults := [] } }
        let k := free.core c
        let ok (t : State) : Prop := exec .fqdoneOk s = .next (t.mmioDone 0xA0020 0 0)
        let fail (t : State) : Prop := exec .fqdoneFail s = .next (t.mmioDone 0xA0020 0 0)
        (v < 2 ^ 32 → (∀ e ∈ h.faults, e.seq.toNat ≠ v) → exec .fqdoneOk s = .next (s.mmioDone 0xA0020 7 0))
        ∧ ∀ e, h.faults = [e] → e.waiters = [x] → free.waits x = true →
          (v = e.seq.toNat →
            (x.2 = 0 → ok ((free.resumeCore c).fqPump 4096))
            ∧ (x.2 = 1 ∨ x.2 = 2 → ok (free.setCore c (k.setEng (x.2 - 1) { k.eng (x.2 - 1) with page := false })))
            ∧ (∀ o, x.2 = 8 → free.opb c = some o → ok { free with hub := { free.hub with opbs := mset h.opbs c { o with page := none } } })
            ∧ (∀ p, 4 ≤ x.2 → x.2 < 8 → mfind k.ports (x.2 - 4) = some p →
                ok (free.setCore c { k with ports := mset k.ports (x.2 - 4) { p with wait := false } })))
          ∧ (v = 2 ^ 32 + e.seq.toNat → x.2 ≠ 8 → fail ((free.contain c 4 (if x.2 = 0 then 7 else 0)).fqPump 4096)))
    ∧ (let beyond (e : TlbEnt) : Prop := e.world = i.world ∧ e.va < i.addr.toNat + i.len ∧ i.addr.toNat < e.va + e.size
       (∀ e ∈ s.cores, e.2.usesPage i.world i.addr.toNat i.len = false) → ∃ t, exec .pagingTlbInvalidation s = .next t ∧ t.mem = s.mem
        ∧ (∀ c e, e ∈ (t.core c).tlb ↔ e ∈ (s.core c).tlb ∧ ¬ beyond e)
        ∧ (∀ d e, e ∈ mget [] t.ltlb d ↔ e ∈ mget [] s.ltlb d ∧ ¬ beyond e))
    ∧ (let c := s.dbgCore
       let k := s.core c
       let tells (x : Instr) (t : State) (st : Nat) : Prop := exec x s = .next (t.mmioDone 0x70018 st 0)
       let does (x : Instr) (t : State) : Prop := tells x { t with
          free := t.free + 1, hub := { t.hub with dbgBusy := mset t.hub.dbgBusy c (Config.latency t.free) } } 0
       let goes (t : State) : State := match h.replay with
          | some p => (if (if p.kiln = true then kilnOf c = p.eng else c = p.core) then t.replayBack p 1 else t).resumeCore c
          | none => t.resumeCore c
       let op (n : Nat) : Prop := bits v 28 4 = n
       (s.mmioGate false 0x70018 = 0 → mget 0 h.dbgBusy c ≠ 0 → ∀ e ∈ [(1, Instr.attach), (2, .detach), (3, .debugHalt), (4, .debugResume), (5, .copyout),
          (6, .copyin)], op e.1 → tells e.2 s 5)
       ∧ (s.mmioGate false 0x70018 = 0 → mget 0 h.dbgBusy c = 0 → v % 2 ^ 28 = 0 → v < 2 ^ 32 →
        (op 1 → (k.runs = true → k.world ≠ 0 → tells .attach s 4)
          ∧ ((k.runs = false ∨ k.world = 0) → does .attach (s.setCore c { k with attached := true })))
        ∧ (op 2 → (k.attached = false → tells .detach s 5)
          ∧ (k.attached = true → let t := s.setCore c { k with attached := false, bps := [], bpskip := [], hreq := false }
              does .detach (if k.halted = true then goes t else t)))
        ∧ (op 3 → (k.attached = false ∨ k.halted = true → tells .debugHalt s 5)
          ∧ (k.attached = true → k.halted = false → does .debugHalt (s.setCore c { k with hreq := true })))
        ∧ (op 4 → (k.halted = false → tells .debugResume s 5) ∧ (k.halted = true → does .debugResume (goes s)))
        ∧ (op 5 → (k.halted = false → tells .copyout s 5)
          ∧ (k.halted = true → h.trc.buf.toNat < 2 ^ 40 → ∃ t : State, does .copyout t ∧ t.cores = s.cores
              ∧ rdBs t.mem h.trc.buf.toNat 196864 = k.copyBytes))
        ∧ (op 6 → (k.halted = false → tells .copyin s 5)
          ∧ (k.halted = true → h.trc.buf.toNat < 2 ^ 40 → ∃ d : Core, does .copyin (s.setCore c d) ∧ d.scyc = k.scyc
              ∧ (rdBs s.mem h.trc.buf.toNat 196864 = k.copyBytes → (∀ a < 65536, rdB d.bay a = rdB k.bay a)
                  ∧ (∀ n < 64, d.rv n = k.rv n ∧ d.flag n = k.flag n))
              ∧ ∀ a < 65536, rdB d.bay a = rdB s.mem (h.trc.buf.toNat + a)))))
    ∧ (let o : Nat := i.addr.toNat
       let c := s.dbgCore
       let k := s.core c
       let tells (t : State) (st : Nat) : Prop := exec .breakpointWrite s = .next (t.mmioDone o st 0)
       ∀ n, s.mmioGate false o = 0 →
        let put (b : Bp) : Prop := tells (s.setCore c { k with bps := mset k.bps n b, bpskip := k.bpskip.filter (fun x => x != n) }) 0
        let bp := mget {} k.bps n
        (regAt o i.len = some (.bpctl n) → (k.attached = false → tells s 5)
          ∧ (k.attached = true → bits v 0 25 = 0 → bits v 28 3 < 5 → (bits v 28 3 = 0 → bits v 25 3 < 6) → v < 2 ^ 32 →
              put { bp with ctl := BitVec.ofNat 32 v })
          ∧ (k.attached = true → (bits v 0 25 ≠ 0 ∨ 5 ≤ bits v 28 3) → tells s 7))
        ∧ (regAt o i.len = some (.bpval n) → k.attached = true → put { bp with val := i.val }))

/-- TRCTL, CNTVAL, SAMPLE records and the start and end of a replay (11_debug_trace.md, The trace buffer,
11_debug_trace.md, Counters, 11_debug_trace.md, Single-engine replay). A write to TRCTL answers 7 for reserved bits;
turning EN on starts the buffer afresh, a LOST record still owed staying owed, and bit 29 is cleared by a written 1.
A write to CNTVAL clears the counter of CNTSEL, for the events of the cycle too. A due sample of a running core
writes a SAMPLE record with the PCs and stream states at the write offset, which moves on by 48; with EN off nothing
is written. A replay descriptor that is misaligned or invalid ends with ERR 2, a core that is not halted on a
world-0 job, or whose engine runs, with ERR 1, and a second replay is refused with 5; else the engine runs from the
first word with the descriptor's registers, and RPSTAT shows BUSY. When a replay has ended the engine, but for what
its channels hold, and the core's stochastic state are as before it, and RPSTAT shows the words done and ERR. (What
arrives in the channels meanwhile and how NWORDS counts is the model's reading, log 31.) -/
def Obligations.traceCountersAndReplayRegisters : Prop :=
  ∀ (s : State), let h := s.hub
    let v := s.inp.val.toNat
    let r := h.trc
    let puts (x : Instr) (o : Nat) (t : Trc) : Prop := exec x s = .next (({ s with hub := { h with trc := t } }).mmioDone o 0 0)
    (s.mmioGate false 0x70120 = 0 →
        ((bits v 24 5 ≠ 0 ∨ bits v 16 4 ≠ 0 ∨ 2 ^ 32 ≤ v) → exec .trctlWrite s = .next (s.mmioDone 0x70120 7 0))
        ∧ (bits v 24 5 = 0 → bits v 16 4 = 0 → v < 2 ^ 32 → ∃ ctl : BitVec 32,
            (∀ b < 32, b ≠ 29 → ctl.getLsbD b = v.testBit b) ∧ ctl.getLsbD 29 = (r.ctl.getLsbD 29 && !v.testBit 29)
            ∧ (2 ^ 31 ≤ v → r.ctl.getLsbD 31 = false →
                puts .trctlWrite 0x70120 { r with ctl := ctl, wr := 0, rd := 0, seq := 0 })
            ∧ (v < 2 ^ 31 ∨ r.ctl.getLsbD 31 = true → puts .trctlWrite 0x70120 { r with ctl := ctl })))
    ∧ (s.mmioGate false 0x70138 = 0 → ∃ t : State, exec .cntvalWrite s = .next (t.mmioDone 0x70138 0 0)
        ∧ t.counter s.cntCore s.cntIdx = 0 ∧ (s.cntIdx = 8 → t.hub.fqclr = true) ∧ (s.cntIdx ≠ 8 → s.cntIdx ∈ (t.core s.cntCore).cclr) ∧ t.mem = s.mem
        ∧ ∀ c n, n < 8 → (c ≠ s.cntCore ∨ n ≠ s.cntIdx) → t.counter c n = s.counter c n)
    ∧ (let c := s.inp.core.toNat
       let k := s.core c
       s.sampleDue c = true → k.runs = true →
        (r.ctl.getLsbD 31 = false → exec .traceSample s = .next s)
        ∧ (r.ctl.getLsbD 31 = true → r.ctl.getLsbD 21 = true → r.ctl.getLsbD 30 = true → r.lost = 0 → k.world = 0 →
            r.base.toNat < 2 ^ 40 → r.wr + 48 ≤ r.size.toNat → ∃ t, exec .traceSample s = .next t
            ∧ rdBs t.mem (r.base.toNat + r.wr) 48 = trBytes r.seq 3 c k.scyc.toNat 0 0
                (leBytes 8 k.cl.pc.toNat ++ leBytes 8 k.ck.pc.toNat ++ leBytes 8 k.cs.pc.toNat ++ k.streamStates ++ leBytes 2 0)
            ∧ t.hub.trc = { r with seq := (r.seq + 1) % 4096, wr := (r.wr + 48) % r.size.toNat }
            ∧ ∀ a, (a < r.base.toNat + r.wr ∨ r.base.toNat + r.wr + 48 ≤ a) → rdB t.mem a = rdB s.mem a))
    ∧ (s.mmioGate false 0x70180 = 0 → v < 2 ^ 40 →
        let d := rdBs s.mem v 80
        let wins := (List.range (fld d 0x14 1)).map (fun j => winOf (s.rawRd (s.normPa (fld d 0x20 8 + 32 * j)) 32))
        let good : Prop := v % 16 = 0 ∧ rpDescOk d = true ∧ wins.all Win.ok = true
        let fails (e : Nat) : Prop := puts .replayStart 0x70180 { r with rpstat := rpstat 0 e true false }
        let c : Nat := fld d 6 2 / 2
        let e : Nat := fld d 6 2 % 2
        let k := s.core c
        let able : Prop := k.halted = true ∧ k.job.isSome = true ∧ k.world = 0 ∧ (k.eng e).st.isRun = false
        (h.replay ≠ none → exec .replayStart s = .next (s.mmioDone 0x70180 5 0))
        ∧ (h.replay = none → ¬ good → fails 2)
        ∧ (h.replay = none → good → fld d 5 1 = 0 → ¬ able → fails 1)
        ∧ (h.replay = none → good → fld d 5 1 = 0 → able → ∃ (t : State) (p : Replay), exec .replayStart s = .next (t.mmioDone 0x70180 0 0)
            ∧ t.hub.replay = some p ∧ p.kiln = false ∧ p.core = c ∧ p.eng = e ∧ p.words = fld d 8 8 ∧ p.nwords = fld d 0x10 4
            ∧ p.wins = wins ∧ p.fin = none ∧ p.saveE = k.eng e ∧ t.hub.trc.rpstat = rpstat 0 0 false true
            ∧ ((t.core c).eng e).st = .running ∧ ((t.core c).eng e).pc = BitVec.ofNat 64 (fld d 8 8)
            ∧ ((t.core c).eng e).cur = none ∧ (∀ n < 16, ((t.core c).eng e).rr n
                = BitVec.ofNat 64 (leNat (s.rawRd (s.normPa (fld d 0x18 8 + 8 * n)) 8)))
            ∧ (t.core c).sys.srseed = BitVec.ofNat 32 (fld d 0x40 4) ∧ (t.core c).sys.srcnt = BitVec.ofNat 32 (fld d 0x44 4)))
    ∧ (∀ p err, h.replay = some p → p.fin = some err → p.kiln = false → p.eng < 2 → (s.core p.core).halted = true →
        ∃ t, exec .replayEnd s = .next t ∧ t.hub.replay = none ∧ t.hub.trc.rpstat = rpstat p.done err true false
          ∧ (let e := (s.core p.core).eng p.eng; (t.core p.core).eng p.eng = { p.saveE with chan := e.chan, chFrom := e.chFrom }) ∧ (t.core p.core).sys.srseed = p.seed ∧ (t.core p.core).sys.srcnt = p.cnt
          ∧ (err = 0 → t.mem = s.mem))

/-- Decoding an encoded instruction gives the instruction (13_isa_formats_map.md, Syllable formats,
13_isa_formats_map.md, Engine words and flue instructions, 13_isa_formats_map.md, Opcode maps). For every
well-formed instruction that has an encoding, of all six classes (SC, MC and VC syllables, copy words, kiln words,
flue instructions), with every operand at every value its field admits, decoding its word in its class gives exactly
that instruction; no two instructions share a word of a class; and its engine word, read back from its slot, is
below 2^48. -/
def Obligations.encodedInstructionsDecodeToThemselves : Prop :=
  (∀ (i : Instr) (c : Cls) (w : Nat), encode i = some (c, w) → decode c w = .ok i)
  ∧ (∀ (i j : Instr) (c : Cls) (w : Nat), encode i = some (c, w) → encode j = some (c, w) → i = j)
  ∧ (∀ (i : Instr) (c : Cls) (w : Nat), encode i = some (c, w) → c = .copy ∨ c = .kiln → decodeSlot c w = .ok i)

/-- No bit of a word is dropped by decoding (13_isa_formats_map.md, Syllable formats, 13_isa_formats_map.md, Opcode
maps, 13_isa_formats_map.md Table 13-10). A word of its class's width (56 bits for a syllable, 48 for an engine
word, 32 for a flue instruction) that decodes is exactly the word its instruction is encoded to, so a word with any
reserved or unused bit set decodes to nothing; an opcode that the maps do not assign is rejected as a reserved
opcode, and any other word that decodes to nothing as a bad field; an engine slot with one of bits [63:48] set is
rejected. -/
def Obligations.decodedWordsEncodeToThemselves : Prop :=
  (∀ (c : Cls) (w : Nat) (i : Instr),
    w < (match c with | .sc | .mc | .vc => 2 ^ 56 | .copy | .kiln => 2 ^ 48 | .flue => 2 ^ 32) →
    decodeOpt c w = some i → encodeFields i = some (c, w))
  ∧ (∀ (c : Cls) (w : Nat), c.assigned (c.opcode w) = false → decode c w = .error .reservedOpcode)
  ∧ (∀ (c : Cls) (w : Nat), c.assigned (c.opcode w) = true → decodeOpt c w = none → decode c w = .error .badField)
  ∧ (∀ (c : Cls) (w : Nat), 2 ^ 48 ≤ w → decodeSlot c w = .error .slotBits)

/-- Words written out from the tables decode to their instructions (13_isa_formats_map.md, Syllable formats,
13_isa_formats_map.md, Engine words and flue instructions, 13_isa_formats_map.md, Opcode maps). One word per class,
laid out by hand from the field tables, decodes to its instruction: ADD x3, x1, x2; ADDI x1, x2, -1; FWAIT x20, f3,
x21; LDD x5 from the scratchpad at x2 + 8; VFMA in FP32; a CMOVE; a KMMA; an FFMA. SC opcode 0x2F is reserved, and
FADD with a third source is a bad field. -/
def Obligations.writtenOutWordsDecode : Prop :=
  decode .sc 0x010C1080000000 = .ok (.add ⟨3, 1, 2⟩)
  ∧ decode .sc 0x2004203FFFFFFF = .ok (.addi ⟨1, 2, -1⟩)
  ∧ decode .sc 0x45503540000000 = .ok (.fwait 20 3 21)
  ∧ decode .mc 0x07142016800008 = .ok (.ldd ⟨5, ⟨2, 0, .acq, .die, .sp, 8⟩⟩)
  ∧ decode .vc 0x04080414006000 = .ok (.vfma ⟨.fp32, .rne, .v 4, .v 1, .v 2, .s 0, 0⟩)
  ∧ decode .copy 0x166000050007 = .ok (.cmove ⟨⟨.rel, .die⟩, 0, 5, 7⟩)
  ∧ decode .kiln 0x1C1000010003 = .ok (.kmma ⟨8, 1, 3⟩)
  ∧ decode .flue 0x2091A000 = .ok (.ffma ⟨1, 2, 3, 4⟩)
  ∧ decode .sc 0x2F000000000000 = .error .reservedOpcode
  ∧ decode .flue 0x10918800 = .error .badField

/-- The state after reset (01_package_links.md, Reset, 02_host_interface.md, Interface states). Right after reset
the host interface is in RESET with no cause, the first reset step is in progress, pod time does not run, no world
is live, no queue is enabled or has a block, no core has a job and no kiln a holder, and every scalar, vector,
engine and flag register of every core reads 0; each memory is in canonical form. That a byte of memory, for which
the spec gives no reset content, reads 0 is the model's choice (log 1). -/
def Obligations.resetLeavesTheModuleClear : Prop :=
  let s := State.reset
  s.hub.hif = 0 ∧ s.hub.cause = 0 ∧ s.hub.rstep = 1 ∧ s.hub.ptRun = false ∧ s.hub.worlds = [] ∧ s.hub.queues = [] ∧ s.hub.opbs = []
  ∧ (∀ q, (s.uq q).en = false ∧ (s.uq q).opbs = [])
  ∧ (∀ c, (s.core c).job = none ∧ (s.core c).runs = false ∧ (s.core c).stop = none)
  ∧ (∀ n, (s.kiln n).holder = none ∧ (s.kiln n).drain = none)
  ∧ (∀ c x, ∀ r : XReg, ((s.core c).ctx x).rx r = 0) ∧ (∀ c n, (s.core c).rv n = 0) ∧ (∀ c e n, ((s.core c).eng e).rr n = 0)
  ∧ (∀ c f, (s.core c).flag f = 0)
  ∧ (∀ a, rdB s.mem a = 0) ∧ s.memOk

/-- Every step keeps the memories in canonical form (07_memory_hierarchy.md, Storage that programs see,
08_memory_model.md, Axioms). In every state whose local, host and peer memories list their bytes in rising order and
list no byte that reads as an unlisted one does, whatever act or outside event comes next, the state after the step
has the same form, so that two memories with the same contents are the same data. What an unlisted byte reads as is
the model's choice (log 1). -/
def Obligations.everyStepKeepsMemoryCanonical : Prop :=
  ∀ s t : State, s.memOk → step s = .next t → t.memOk

/-- A step executes what the bits at its place decode to (13_isa_formats_map.md, Parcels, 13_isa_formats_map.md,
Reading a parcel, 13_isa_formats_map.md, Engine words and flue instructions, 06_execution_model.md, The six
streams). A table word that decodes to i, put at the place of the next fetch, is executed by the next step. The
flue's step executes what the word at its program counter decodes to. A parcel's step, where nothing makes the
parcel wait, hold or stop, executes what its syllables decode to, the live ones in slot order, each at its slot, and
then ends the parcel. A step of C0, C1 or M that starts a word executes what the 8 bytes at its program counter
decode to, and one with a word in progress executes that word; after an M word the tile fetch goes on. An outside
event's step executes the event with its data; an event of the module's own is executed and counts only if it can
occur. How a program is put there is the model's choice (log 11), the script of acts as well (log 10). -/
def Obligations.aStepRunsTheDecodedInstruction : Prop :=
  (∀ (s : State) (w : Nat) (i : Instr), decodeTableWord 32 w = some i →
    step (s.withFetchWord 32 w) = exec i { s.withFetchWord 32 w with
      script := s.script, cur := { core := 0, src := 6, kiln := 0, slot := 0, pc := 0 } })
  ∧ (∀ (s : State) (kn : Nat) (rest : List Act) (d : Drain) (w : BitVec 32) (i : Instr), s.script = .flue kn :: rest →
    (s.kiln kn).drain = some d → d.prog[d.pc - 1]? = some w → decodeOpt .flue w.toNat = some i →
    step s = exec i { s with script := rest, cur := { core := d.acc, src := 6, kiln := kn, slot := d.slot, pc := d.kpc } })
  ∧ (∀ (s : State) (i : Instr) (inp : Inp) (rest : List Act),
      (s.script = .event i inp :: rest → step s = exec i { s with script := rest, inp := inp })
      ∧ (s.script = .attempt i inp :: rest →
          (∀ t, exec i { s with script := rest, inp := inp } = .next t → step s = .next t)
          ∧ ((∀ t, exec i { s with script := rest, inp := inp } ≠ .next t) → step s = .next { s with script := rest })))
  ∧ (∀ (s r u v : State) (c x w : Nat) (rest : List Act), s.script = .parcel c x false :: rest →
      let k := s.core c
      let q := (k.runPass c x).ctx x
      let p := parcelOf x w
      let l := sylsOf p q.seq
      let live := liveOf l
      let tok : Option (BitVec 2) := if p.ctl.settok then some (BitVec.ofNat 2 p.ctl.tokid) else none
      let one (a : State) (e : Nat × Instr) : Option State :=
        match exec e.2 { a with cur := { a.cur with slot := e.1, verdict := .go, tok := tok, settok := p.ctl.settok } } with
        | .next t => some t
        | _ => none
      let d := u.core c
      k.issues = true → (k.passBanks c x).any k.taken = false → (k.runPass c x).turn x = true →
      ({ s with script := rest }).modCore c (fun k => k.runPass c x) = r →
      (r.core c).flights.any (fun f => f.src == x && isFence f.i) = false →
      (State.parcelBits { r with cur := { core := c, src := x, pc := ((r.core c).ctx x).pc, first := (r.core c).nextId } } c x) = (u, .ok w) →
      q = (r.core c).ctx x → u.cur = { core := c, src := x, pc := q.pc, first := (r.core c).nextId } →
      d.inter = false → (∀ j < 4, tbit p.ctl.wait j = true → mget 0 q.tok j = 0) →
      (p.ctl.settok = true → mget 0 q.tok p.ctl.tokid + (live.filter (fun e => e.2.isVar)).length ≤ 8) →
      (∀ e ∈ live, e.2 ≠ .resume) → d.occupied x live = [] → twice d x (live.map (·.2)) = false → d.bpPc x q.pc = none →
      parcelFaults p l q.seq false = [] →
      (∀ e ∈ live, ∀ t, one u e = some t → ((t.core c).raises.drop d.raises.length).filter (fun r => !r.late) = []) →
      live.foldlM (fun a e => (one a e).filter (fun t => t.cur.verdict == .go)) u = some v →
      live.any (fun e => d.refreshes e.2) = false → (live.flatMap (fun e => d.sylBanks c x e.2)).any d.taken = false →
      v.overBudget c d = false →
      step s = .next (v.endParcel c x p.ctl live d))
  ∧ (∀ (s : State) (c e : Nat) (rest : List Act) (i : Instr), e ≤ 2 → s.script = (if e = 2 then .mword c else .engine c e) :: rest →
      let x := (s.core c).eng e
      let r : State := { s with script := rest, cur := { core := c, src := 3 + e, pc := x.pc } }
      let after (v : State) : State := if e = 2 then v.attempt .tileFetchChunkArrival (inC c) else v
      x.swept = false → s.engineRuns c e = true → x.stopReq = false → (∀ w, i ≠ .csend w) → (∀ w, i ≠ .crecv w) → (∀ w, i ≠ .cred w) →
      (e = 2 → (s.core c).lease = true ∧ (s.kiln (kilnOf c)).gwait = 0 ∧ (s.core c).hold = none) →
      (∀ w v, x.cur = some w → w.i = i → w.left ≤ 1 → exec i (r.setEw { w with left := 0 }) = .next v → step s = .next (after v))
      ∧ (∀ (u v : State) (b : BitVec 1024), x.cur = none → x.startIn = 0 → r.fetchLine c (x.pc.toNat / 128) (who := 17 + e) = (u, .ok b) →
          (u.core c).bpPc (3 + e) x.pc = none → bits b.toNat (8 * (x.pc.toNat % 128)) 64 < 2 ^ 48 →
          decodeOpt (if e = 2 then .kiln else .copy) (bits b.toNat (8 * (x.pc.toNat % 128)) 64) = some i →
          exec i (u.modCore c (fun k =>
            let k := k.bpPassed (fun b => b.kind == 0 && bits b.ctl.toNat 25 3 == 3 + e)
            { k.modEng e (fun x => { x with cur := some { freshWord i with issue := k.scyc.toNat }, startIn := 0 }) with
              wdleft := match k.job with | some j => 2 ^ j.wdog | none => k.wdleft })) = .next v →
          step s = .next (after v)))

/-- Every instruction has its meaning, an ill-formed one stops as ILLEGAL, and the module's own acts never stop the
machine (13_isa_formats_map.md, Opcode maps, 13_isa_formats_map.md Table 13-10, 10_stops_and_embers.md, Stops,
06_execution_model.md, The six streams). In every state and for every row of the opcode table, executing the
instruction is never a refusal. In every state in which a bundle context issues, every SC and MC instruction answers
a next state, and one whose fields break a rule of its entry is an ILLEGAL stop with DETAIL 0 and no other effect;
in K every VC instruction does the same. In every state whose next act is not an event from outside, the step
answers a next state: issuing a parcel or a word, running a flue instruction, clock edges, the kilns and the hub all
go on, whatever the programs and the memories hold; and an outside event either answers a next state or stops the
model by the one name that says that it cannot occur then. How acts are ordered is the model's choice (log 10), and
so is the stop of an event that cannot occur (log 63). -/
def Obligations.onlyAnOutsideEventCanStop : Prop :=
  (∀ (s : State) (i : Instr) (r : Refusal), exec i s ≠ .refused r)
  ∧ (∀ (s : State) (i : Instr), s.cur.src ≤ 2 → (encSC i).isSome ∨ (encMC i).isSome →
      (∃ t, exec i s = .next t) ∧ (i.wf = false → s.stops i 4 0 0))
  ∧ (∀ (s : State) (i : Instr), s.cur.src = 1 → (encVC i).isSome →
      (∃ t, exec i s = .next t) ∧ (i.wf = false → s.stops i 4 0 0))
  ∧ (∀ s : State, (∀ i inp rest, s.script ≠ .event i inp :: rest) → ∃ t, step s = .next t)
  ∧ (∀ s : State, s.ownAct = true → ∃ t, step s = .next t)
  ∧ (∀ (s : State) (i : Instr) (inp : Inp) (rest : List Act), s.script = .event i inp :: rest →
      encodeFields i = none → (∃ t, step s = .next t) ∨ step s = .fault .notEnabled)
end

