-- ==== Sys2Proof/Laws/Encoding.lean ====
section
/-! SUPPORT. Encoder against decoder, field by field: what packs unpacks, each code reads back, and each
class's field map inverts its decoder's. -/

namespace Sys2Proof.Laws

theorem ord_code (o : OrdK) : ordOf o.code = some o := by cases o <;> rfl
theorem scope_code (o : ScopeK) : scopeOf o.code = some o := by cases o <;> rfl
theorem space_code (o : SpaceK) : spaceOf o.code = some o := by cases o <;> rfl
theorem rnd_code (o : RndK) : rndOf o.code = some o := by cases o <;> rfl
theorem red_code (o : RedK) : redOf o.code = some o := by cases o <;> rfl
theorem cond_code (o : CondK) : condOf o.code = o := by cases o <;> rfl
theorem const_code (o : ConstK) : constOf o.code = o := by cases o <;> rfl
theorem fmt_code (o : Fmt) (h : o ≠ .stored) : fmtOf o.code = some o := by cases o <;> first | rfl | contradiction

theorem ord_lt (o : OrdK) : o.code < 4 := by cases o <;> decide
theorem scope_lt (o : ScopeK) : o.code < 8 := by cases o <;> decide
theorem space_lt (o : SpaceK) : o.code < 4 := by cases o <;> decide
theorem rnd_lt (o : RndK) : o.code < 8 := by cases o <;> decide
theorem red_lt (o : RedK) : o.code < 512 := by cases o <;> decide
theorem cond_lt (o : CondK) : o.code < 8 := by cases o <;> decide
theorem const_lt (o : ConstK) : o.code < 8 := by cases o <;> decide
theorem fmt_lt (o : Fmt) : o.code < 16 := by cases o <;> decide
theorem bit_lt (b : Bool) : bit b < 2 := by cases b <;> decide

theorem xr_toNat (x : XReg) : xr x.toNat = some x := by
  have := x.isLt
  simp only [xr, if_pos this, BitVec.ofNat_toNat, BitVec.setWidth_eq]

theorem bv_toNat {k : Nat} (x : BitVec k) : bv k x.toNat = some x := by
  simp only [bv, if_pos x.isLt, BitVec.ofNat_toNat, BitVec.setWidth_eq]

theorem os_code (o : OS) : osOf o.code = some o := by
  obtain ⟨a, b⟩ := o
  cases a <;> cases b <;> rfl

theorem os_lt (o : OS) : o.code < 32 := by
  obtain ⟨a, b⟩ := o
  cases a <;> cases b <;> decide

theorem src_code (s : VSrc) (u : Bool) (h : s.useOk u = true) : srcOf s.code = some s := by
  cases s with
  | v n => simp [srcOf, VSrc.code, n.isLt]
  | s n => have := n.isLt; simp [srcOf, VSrc.code, show 64 + n.toNat < 68 by omega]
  | va n =>
    have := n.isLt
    simp [srcOf, VSrc.code, show ¬ 68 + n.toNat < 64 by omega, show ¬ 68 + n.toNat < 68 by omega,
      show 68 + n.toNat < 72 by omega]
  | vb n =>
    have := n.isLt
    simp [srcOf, VSrc.code, show ¬ 72 + n.toNat < 64 by omega, show ¬ 72 + n.toNat < 68 by omega,
      show ¬ 72 + n.toNat < 72 by omega, show 72 + n.toNat < 76 by omega]
  | const k => cases k <;> rfl
  | x n =>
    have hn : n.toNat ≠ 0 := by
      intro h0
      have : n = 0 := BitVec.eq_of_toNat_eq h0
      subst this
      simp [VSrc.useOk] at h
    have := n.isLt
    simp [srcOf, VSrc.code, show ¬ 95 + n.toNat < 64 by omega, show ¬ 95 + n.toNat < 68 by omega,
      show ¬ 95 + n.toNat < 72 by omega, show ¬ 95 + n.toNat < 76 by omega, show ¬ 95 + n.toNat < 80 by omega,
      show ¬ 95 + n.toNat < 88 by omega, show ¬ 95 + n.toNat < 96 by omega, show 95 + n.toNat < 127 by omega]
  | none => rfl

theorem dst_code (d : VDst) : dstOf d.code = some d := by
  cases d with
  | v n => simp [dstOf, VDst.code, n.isLt]
  | s n => have := n.isLt; simp [dstOf, VDst.code, show 64 + n.toNat < 68 by omega]
  | none => rfl

theorem src_lt (s : VSrc) : s.code < 128 := by
  cases s with
  | const k => cases k <;> decide
  | none => decide
  | v n => have := n.isLt; simp only [VSrc.code]; omega
  | s n => have := n.isLt; simp only [VSrc.code]; omega
  | va n => have := n.isLt; simp only [VSrc.code]; omega
  | vb n => have := n.isLt; simp only [VSrc.code]; omega
  | x n => have := n.isLt; simp only [VSrc.code]; omega

theorem dst_lt (d : VDst) : d.code < 128 := by
  cases d with
  | none => decide
  | v n => have := n.isLt; simp only [VDst.code]; omega
  | s n => have := n.isLt; simp only [VDst.code]; omega

theorem decR3_enc (mk : R3 → Instr) (op : Nat) (o : R3) :
    decR3 mk ⟨op, o.xd.toNat, o.xa.toNat, o.xb.toNat, 0⟩ = some (mk o) := by
  simp [decR3, need, xr_toNat]
theorem decR2_enc (mk : R2 → Instr) (op : Nat) (o : R2) :
    decR2 mk ⟨op, o.xd.toNat, o.xa.toNat, 0, 0⟩ = some (mk o) := by
  simp [decR2, need, xr_toNat]
theorem decI2_enc (mk : I2 → Instr) (op : Nat) (o : I2) :
    decI2 mk ⟨op, o.xd.toNat, o.xa.toNat, 0, o.imm.toNat⟩ = some (mk o) := by
  simp [decI2, need, xr_toNat]
theorem decSh_enc (mk : Sh → Instr) (op : Nat) (o : Sh) :
    decSh mk ⟨op, o.xd.toNat, o.xa.toNat, 0, o.n.toNat⟩ = some (mk o) := by
  simp [decSh, need, xr_toNat, bv_toNat]

theorem decM_enc (op x : Nat) (m : MAddr) :
    decM ⟨op, x, m.xbase.toNat, m.xpol.toNat, m.ord.code, m.scope.code, m.space.code, m.disp.toNat⟩ = some m := by
  simp [decM, xr_toNat, ord_code, scope_code, space_code]

theorem decV_enc (op u : Nat) (o : VOp) (n : Nat) (fm : Fmt → Bool) (rm : RndK → Bool) (pr : Bool)
    (h : o.ok n fm rm pr = true) (hf : o.fmt ≠ .stored) :
    decV ⟨op, o.d.code, o.a.code, o.b.code, o.c.code, o.p.toNat, o.fmt.code, o.rnd.code, u⟩ = some o := by
  simp only [VOp.ok, Bool.and_eq_true] at h
  simp [decV, fmt_code _ hf, rnd_code, dst_code, src_code _ _ h.1.1.1.1.1, src_code _ _ h.1.1.1.1.2, src_code _ _ h.1.1.1.2]

theorem ok_fmt {o : VOp} {n : Nat} {fm : Fmt → Bool} {rm : RndK → Bool} {pr : Bool} (h : o.ok n fm rm pr = true)
    (hs : fm .stored = false) : o.fmt ≠ .stored := by
  intro h'
  simp only [VOp.ok, Bool.and_eq_true, h', hs] at h
  exact absurd h.1.1.2 (by decide)

/-- One bit field above another is read back. -/
theorem hi_lo (k b l : Nat) (hl : l < k) : (b * k + l) / k = b ∧ (b * k + l) % k = l := by
  have hk : 0 < k := by omega
  constructor
  · rw [Nat.mul_comm, Nat.mul_add_div hk, Nat.div_eq_of_lt hl]; rfl
  · rw [Nat.mul_comm, Nat.mul_add_mod, Nat.mod_eq_of_lt hl]

/-- Every field of these lies in its width. -/
def scFits (f : ScF) : Prop := f.op < 256 ∧ f.xd < 64 ∧ f.xa < 64 ∧ f.xb < 64 ∧ f.low < 2 ^ 30
def mcFits (f : McF) : Prop :=
  f.op < 256 ∧ f.xd < 64 ∧ f.xbase < 64 ∧ f.xpol < 64 ∧ f.ord < 4 ∧ f.scope < 8 ∧ f.space < 4 ∧ f.disp < 2 ^ 23
def vcFits (f : VcF) : Prop :=
  f.op < 256 ∧ f.d < 128 ∧ f.a < 128 ∧ f.b < 128 ∧ f.c < 128 ∧ f.p < 16 ∧ f.fmt < 16 ∧ f.rnd < 8 ∧ f.func < 512
def ewFits (f : EwF) : Prop :=
  f.op < 64 ∧ f.ord < 4 ∧ f.scope < 8 ∧ f.reg < 16 ∧ f.step < 2 ^ 17 ∧ f.rep < 2 ^ 16
def flFits (f : FlF) : Prop := f.op < 32 ∧ f.d < 16 ∧ f.a < 16 ∧ f.b < 16 ∧ f.c < 16 ∧ f.md < 2 ^ 11

theorem sc_unpack_pack (f : ScF) (h : scFits f) : ScF.unpack f.pack = f := by
  obtain ⟨op, xd, xa, xb, low⟩ := f
  simp only [scFits] at h
  simp only [ScF.unpack, ScF.pack, fldN, ScF.mk.injEq]
  omega
theorem mc_unpack_pack (f : McF) (h : mcFits f) : McF.unpack f.pack = f := by
  obtain ⟨op, xd, xbase, xpol, ord, scope, space, disp⟩ := f
  simp only [mcFits] at h
  simp only [McF.unpack, McF.pack, fldN, McF.mk.injEq]
  omega
theorem vc_unpack_pack (f : VcF) (h : vcFits f) : VcF.unpack f.pack = f := by
  obtain ⟨op, d, a, b, c, p, fmt, rnd, func⟩ := f
  simp only [vcFits] at h
  simp only [VcF.unpack, VcF.pack, fldN, VcF.mk.injEq]
  omega
theorem ew_unpack_pack (f : EwF) (h : ewFits f) : EwF.unpack f.pack = f := by
  obtain ⟨op, ord, scope, reg, step, rep⟩ := f
  simp only [ewFits] at h
  simp only [EwF.unpack, EwF.pack, fldN, EwF.mk.injEq]
  omega
theorem fl_unpack_pack (f : FlF) (h : flFits f) : FlF.unpack f.pack = f := by
  obtain ⟨op, d, a, b, c, md⟩ := f
  simp only [flFits] at h
  simp only [FlF.unpack, FlF.pack, fldN, FlF.mk.injEq]
  omega

theorem sc_pack_unpack (w : Nat) (h : w < 2 ^ 56) : (ScF.unpack w).pack = w := by
  simp only [ScF.unpack, ScF.pack, fldN]
  omega
theorem mc_pack_unpack (w : Nat) (h : w < 2 ^ 56) : (McF.unpack w).pack = w := by
  simp only [McF.unpack, McF.pack, fldN]
  omega
theorem vc_pack_unpack (w : Nat) (h : w < 2 ^ 56) : (VcF.unpack w).pack = w := by
  simp only [VcF.unpack, VcF.pack, fldN]
  omega
theorem ew_pack_unpack (w : Nat) (h : w < 2 ^ 48) : (EwF.unpack w).pack = w := by
  simp only [EwF.unpack, EwF.pack, fldN]
  omega
theorem fl_pack_unpack (w : Nat) (h : w < 2 ^ 32) : (FlF.unpack w).pack = w := by
  simp only [FlF.unpack, FlF.pack, fldN]
  omega

end Sys2Proof.Laws
end

