-- ==== Sys2Proof/Laws/EncEngine.lean ====
section
/-! SUPPORT. Decoding against encoding for copy and kiln words: the decoder at each opcode, what each
instruction's fields decode to, and that they fit the word. -/

set_option linter.unusedSimpArgs false
set_option linter.unusedVariables false

namespace Sys2Proof.Laws

theorem decCopy_00 (ord scope reg step rep : Nat) :
    decCopy ⟨0x00, ord, scope, reg, step, rep⟩ = (need (ord = 0 ∧ scope = 0 ∧ reg = 0 ∧ step = 0) do pure (.cnop (← bv 16 rep))) := rfl
theorem decCopy_01 (ord scope reg step rep : Nat) :
    decCopy ⟨0x01, ord, scope, reg, step, rep⟩ = (need (ord = 0 ∧ scope = 0) do pure (.csetl ⟨← bv 4 reg, ← bv 17 step, ← bv 16 rep⟩)) := rfl
theorem decCopy_02 (ord scope reg step rep : Nat) :
    decCopy ⟨0x02, ord, scope, reg, step, rep⟩ = (need (ord = 0 ∧ scope = 0) do pure (.cseth ⟨← bv 4 reg, ← bv 17 step, ← bv 16 rep⟩)) := rfl
theorem decCopy_03 (ord scope reg step rep : Nat) :
    decCopy ⟨0x03, ord, scope, reg, step, rep⟩ = (need (ord = 0 ∧ scope = 0) do pure (.cadv ⟨← bv 4 reg, ← bv 17 step, ← bv 16 rep⟩)) := rfl
theorem decCopy_04 (ord scope reg step rep : Nat) :
    decCopy ⟨0x04, ord, scope, reg, step, rep⟩ = (do pure (.cshape ⟨⟨← ordOf ord, ← scopeOf scope⟩, ← bv 4 reg, ← bv 17 step, ← bv 16 rep⟩)) := rfl
theorem decCopy_05 (ord scope reg step rep : Nat) :
    decCopy ⟨0x05, ord, scope, reg, step, rep⟩ = (do pure (.cmove ⟨⟨← ordOf ord, ← scopeOf scope⟩, ← bv 4 reg, ← bv 17 step, ← bv 16 rep⟩)) := rfl
theorem decCopy_06 (ord scope reg step rep : Nat) :
    decCopy ⟨0x06, ord, scope, reg, step, rep⟩ = (do pure (.cbox ⟨⟨← ordOf ord, ← scopeOf scope⟩, ← bv 4 reg, ← bv 17 step, ← bv 16 rep⟩)) := rfl
theorem decCopy_07 (ord scope reg step rep : Nat) :
    decCopy ⟨0x07, ord, scope, reg, step, rep⟩ = (do pure (.cgath ⟨⟨← ordOf ord, ← scopeOf scope⟩, ← bv 4 reg, ← bv 17 step, ← bv 16 rep⟩)) := rfl
theorem decCopy_08 (ord scope reg step rep : Nat) :
    decCopy ⟨0x08, ord, scope, reg, step, rep⟩ = (do pure (.cscat ⟨⟨← ordOf ord, ← scopeOf scope⟩, ← bv 4 reg, ← bv 17 step, ← bv 16 rep⟩)) := rfl
theorem decCopy_09 (ord scope reg step rep : Nat) :
    decCopy ⟨0x09, ord, scope, reg, step, rep⟩ = (do pure (.cfill ⟨⟨← ordOf ord, ← scopeOf scope⟩, ← bv 4 reg, ← bv 17 step, ← bv 16 rep⟩)) := rfl
theorem decCopy_0a (ord scope reg step rep : Nat) :
    decCopy ⟨0x0a, ord, scope, reg, step, rep⟩ = (do pure (.cred ⟨⟨← ordOf ord, ← scopeOf scope⟩, ← bv 4 reg, ← bv 17 step, ← bv 16 rep⟩)) := rfl
theorem decCopy_0b (ord scope reg step rep : Nat) :
    decCopy ⟨0x0b, ord, scope, reg, step, rep⟩ = (do pure (.csend ⟨⟨← ordOf ord, ← scopeOf scope⟩, ← bv 4 reg, ← bv 17 step, ← bv 16 rep⟩)) := rfl
theorem decCopy_0c (ord scope reg step rep : Nat) :
    decCopy ⟨0x0c, ord, scope, reg, step, rep⟩ = (do pure (.crecv ⟨⟨← ordOf ord, ← scopeOf scope⟩, ← bv 4 reg, ← bv 17 step, ← bv 16 rep⟩)) := rfl
theorem decCopy_0d (ord scope reg step rep : Nat) :
    decCopy ⟨0x0d, ord, scope, reg, step, rep⟩ = (need (reg = 0) do pure (.csig ⟨← ordOf ord, ← scopeOf scope⟩ (← bv 6 step) (← bv 16 rep))) := rfl
theorem decCopy_0e (ord scope reg step rep : Nat) :
    decCopy ⟨0x0e, ord, scope, reg, step, rep⟩ = (do pure (.cwait ⟨← ordOf ord, ← scopeOf scope⟩ (← bv 4 reg) (← bv 6 step) (← bv 16 rep))) := rfl
theorem decCopy_0f (ord scope reg step rep : Nat) :
    decCopy ⟨0x0f, ord, scope, reg, step, rep⟩ = (need (reg = 0 ∧ step < 2) do pure (.csync ⟨← ordOf ord, ← scopeOf scope⟩ (step == 1) (← bv 16 rep))) := rfl
theorem decCopy_10 (ord scope reg step rep : Nat) :
    decCopy ⟨0x10, ord, scope, reg, step, rep⟩ = (need (ord = 0 ∧ scope = 0) do pure (.cloop ⟨← bv 4 reg, ← bv 17 step, ← bv 16 rep⟩)) := rfl
theorem decCopy_11 (ord scope reg step rep : Nat) :
    decCopy ⟨0x11, ord, scope, reg, step, rep⟩ = (need (ord = 0 ∧ scope = 0 ∧ reg = 0 ∧ step = 0) do pure (.cend (← bv 16 rep))) := rfl

theorem rt_cnop (n : BitVec 16) :
    decCopy ⟨0x00, 0, 0, 0, 0, n.toNat⟩ = some (.cnop n) := by
  rw [decCopy_00]
  simp [need, xr_toNat, bv_toNat, os_code, ord_code, scope_code]

theorem rt_csetl (w : EW) :
    decCopy ⟨0x01, 0, 0, w.r.toNat, w.v.toNat, w.n.toNat⟩ = some (.csetl w) := by
  rw [decCopy_01]
  simp [need, xr_toNat, bv_toNat, os_code, ord_code, scope_code]

theorem rt_cseth (w : EW) :
    decCopy ⟨0x02, 0, 0, w.r.toNat, w.v.toNat, w.n.toNat⟩ = some (.cseth w) := by
  rw [decCopy_02]
  simp [need, xr_toNat, bv_toNat, os_code, ord_code, scope_code]

theorem rt_cadv (w : EW) :
    decCopy ⟨0x03, 0, 0, w.r.toNat, w.v.toNat, w.n.toNat⟩ = some (.cadv w) := by
  rw [decCopy_03]
  simp [need, xr_toNat, bv_toNat, os_code, ord_code, scope_code]

theorem rt_cshape (w : EWO) :
    decCopy ⟨0x04, w.os.ord.code, w.os.scope.code, w.r.toNat, w.v.toNat, w.n.toNat⟩ = some (.cshape w) := by
  rw [decCopy_04]
  simp [need, xr_toNat, bv_toNat, os_code, ord_code, scope_code]

theorem rt_cmove (w : EWO) :
    decCopy ⟨0x05, w.os.ord.code, w.os.scope.code, w.r.toNat, w.v.toNat, w.n.toNat⟩ = some (.cmove w) := by
  rw [decCopy_05]
  simp [need, xr_toNat, bv_toNat, os_code, ord_code, scope_code]

theorem rt_cbox (w : EWO) :
    decCopy ⟨0x06, w.os.ord.code, w.os.scope.code, w.r.toNat, w.v.toNat, w.n.toNat⟩ = some (.cbox w) := by
  rw [decCopy_06]
  simp [need, xr_toNat, bv_toNat, os_code, ord_code, scope_code]

theorem rt_cgath (w : EWO) :
    decCopy ⟨0x07, w.os.ord.code, w.os.scope.code, w.r.toNat, w.v.toNat, w.n.toNat⟩ = some (.cgath w) := by
  rw [decCopy_07]
  simp [need, xr_toNat, bv_toNat, os_code, ord_code, scope_code]

theorem rt_cscat (w : EWO) :
    decCopy ⟨0x08, w.os.ord.code, w.os.scope.code, w.r.toNat, w.v.toNat, w.n.toNat⟩ = some (.cscat w) := by
  rw [decCopy_08]
  simp [need, xr_toNat, bv_toNat, os_code, ord_code, scope_code]

theorem rt_cfill (w : EWO) :
    decCopy ⟨0x09, w.os.ord.code, w.os.scope.code, w.r.toNat, w.v.toNat, w.n.toNat⟩ = some (.cfill w) := by
  rw [decCopy_09]
  simp [need, xr_toNat, bv_toNat, os_code, ord_code, scope_code]

theorem rt_cred (w : EWO) :
    decCopy ⟨0x0a, w.os.ord.code, w.os.scope.code, w.r.toNat, w.v.toNat, w.n.toNat⟩ = some (.cred w) := by
  rw [decCopy_0a]
  simp [need, xr_toNat, bv_toNat, os_code, ord_code, scope_code]

theorem rt_csend (w : EWO) :
    decCopy ⟨0x0b, w.os.ord.code, w.os.scope.code, w.r.toNat, w.v.toNat, w.n.toNat⟩ = some (.csend w) := by
  rw [decCopy_0b]
  simp [need, xr_toNat, bv_toNat, os_code, ord_code, scope_code]

theorem rt_crecv (w : EWO) :
    decCopy ⟨0x0c, w.os.ord.code, w.os.scope.code, w.r.toNat, w.v.toNat, w.n.toNat⟩ = some (.crecv w) := by
  rw [decCopy_0c]
  simp [need, xr_toNat, bv_toNat, os_code, ord_code, scope_code]

theorem rt_csig (os : OS) (f' : BitVec 6) (n : BitVec 16) :
    decCopy ⟨0x0d, os.ord.code, os.scope.code, 0, f'.toNat, n.toNat⟩ = some (.csig os f' n) := by
  rw [decCopy_0d]
  simp [need, xr_toNat, bv_toNat, os_code, ord_code, scope_code]

theorem rt_cwait (os : OS) (r : BitVec 4) (f' : BitVec 6) (n : BitVec 16) :
    decCopy ⟨0x0e, os.ord.code, os.scope.code, r.toNat, f'.toNat, n.toNat⟩ = some (.cwait os r f' n) := by
  rw [decCopy_0e]
  simp [need, xr_toNat, bv_toNat, os_code, ord_code, scope_code]

theorem rt_csync (os : OS) (rdv : Bool) (n : BitVec 16) :
    decCopy ⟨0x0f, os.ord.code, os.scope.code, 0, bit rdv, n.toNat⟩ = some (.csync os rdv n) := by
  rw [decCopy_0f]
  cases rdv <;> simp [need, bv_toNat, ord_code, scope_code, bit]

theorem rt_cloop (w : EW) :
    decCopy ⟨0x10, 0, 0, w.r.toNat, w.v.toNat, w.n.toNat⟩ = some (.cloop w) := by
  rw [decCopy_10]
  simp [need, xr_toNat, bv_toNat, os_code, ord_code, scope_code]

theorem rt_cend (n : BitVec 16) :
    decCopy ⟨0x11, 0, 0, 0, 0, n.toNat⟩ = some (.cend n) := by
  rw [decCopy_11]
  simp [need, xr_toNat, bv_toNat, os_code, ord_code, scope_code]

/-- What the Copy encoder writes, the decoder reads back. -/
theorem decCopy_enc (i : Instr) (f : EwF) (h : encCopy i = some f) (hw : i.wf = true) : decCopy f = some i := by
  cases i
  case cnop n => cases h; exact rt_cnop _
  case csetl w => cases h; exact rt_csetl _
  case cseth w => cases h; exact rt_cseth _
  case cadv w => cases h; exact rt_cadv _
  case cshape w => cases h; exact rt_cshape _
  case cmove w => cases h; exact rt_cmove _
  case cbox w => cases h; exact rt_cbox _
  case cgath w => cases h; exact rt_cgath _
  case cscat w => cases h; exact rt_cscat _
  case cfill w => cases h; exact rt_cfill _
  case cred w => cases h; exact rt_cred _
  case csend w => cases h; exact rt_csend _
  case crecv w => cases h; exact rt_crecv _
  case csig os f' n => cases h; exact rt_csig _ _ _
  case cwait os r f' n => cases h; exact rt_cwait _ _ _ _
  case csync os rdv n => cases h; exact rt_csync _ _ _
  case cloop w => cases h; exact rt_cloop _
  case cend n => cases h; exact rt_cend _
  all_goals (cases h; done)

theorem encCopy_fits (i : Instr) (f : EwF) (h : encCopy i = some f) : ewFits f := by
  cases i
  case cnop n =>
    cases h
    simp only [ewFits]
    omega
  case csetl w =>
    cases h
    simp only [ewFits]
    omega
  case cseth w =>
    cases h
    simp only [ewFits]
    omega
  case cadv w =>
    cases h
    simp only [ewFits]
    omega
  case cshape w =>
    cases h
    have := ord_lt w.os.ord
    have := scope_lt w.os.scope
    simp only [ewFits]
    omega
  case cmove w =>
    cases h
    have := ord_lt w.os.ord
    have := scope_lt w.os.scope
    simp only [ewFits]
    omega
  case cbox w =>
    cases h
    have := ord_lt w.os.ord
    have := scope_lt w.os.scope
    simp only [ewFits]
    omega
  case cgath w =>
    cases h
    have := ord_lt w.os.ord
    have := scope_lt w.os.scope
    simp only [ewFits]
    omega
  case cscat w =>
    cases h
    have := ord_lt w.os.ord
    have := scope_lt w.os.scope
    simp only [ewFits]
    omega
  case cfill w =>
    cases h
    have := ord_lt w.os.ord
    have := scope_lt w.os.scope
    simp only [ewFits]
    omega
  case cred w =>
    cases h
    have := ord_lt w.os.ord
    have := scope_lt w.os.scope
    simp only [ewFits]
    omega
  case csend w =>
    cases h
    have := ord_lt w.os.ord
    have := scope_lt w.os.scope
    simp only [ewFits]
    omega
  case crecv w =>
    cases h
    have := ord_lt w.os.ord
    have := scope_lt w.os.scope
    simp only [ewFits]
    omega
  case csig os f' n =>
    cases h
    have := ord_lt os.ord
    have := scope_lt os.scope
    simp only [ewFits]
    omega
  case cwait os r f' n =>
    cases h
    have := ord_lt os.ord
    have := scope_lt os.scope
    simp only [ewFits]
    omega
  case csync os rdv n =>
    cases h
    have := ord_lt os.ord
    have := scope_lt os.scope
    have := bit_lt rdv
    simp only [ewFits]
    omega
  case cloop w =>
    cases h
    simp only [ewFits]
    omega
  case cend n =>
    cases h
    simp only [ewFits]
    omega
  all_goals (cases h; done)

theorem decKiln_00 (ord scope reg step rep : Nat) :
    decKiln ⟨0x00, ord, scope, reg, step, rep⟩ = (need (ord = 0 ∧ scope = 0 ∧ reg = 0 ∧ step = 0) do pure (.knop (← bv 16 rep))) := rfl
theorem decKiln_01 (ord scope reg step rep : Nat) :
    decKiln ⟨0x01, ord, scope, reg, step, rep⟩ = (need (ord = 0 ∧ scope = 0) do pure (.ksetl ⟨← bv 4 reg, ← bv 17 step, ← bv 16 rep⟩)) := rfl
theorem decKiln_02 (ord scope reg step rep : Nat) :
    decKiln ⟨0x02, ord, scope, reg, step, rep⟩ = (need (ord = 0 ∧ scope = 0) do pure (.kseth ⟨← bv 4 reg, ← bv 17 step, ← bv 16 rep⟩)) := rfl
theorem decKiln_03 (ord scope reg step rep : Nat) :
    decKiln ⟨0x03, ord, scope, reg, step, rep⟩ = (need (ord = 0 ∧ scope = 0 ∧ reg = 0) do pure (.kfmt (← bv 8 step) (← bv 16 rep))) := rfl
theorem decKiln_04 (ord scope reg step rep : Nat) :
    decKiln ⟨0x04, ord, scope, reg, step, rep⟩ = (need (ord = 0 ∧ scope = 0 ∧ step = 0) do pure (.ktile (← bv 4 reg) (← bv 16 rep))) := rfl
theorem decKiln_05 (ord scope reg step rep : Nat) :
    decKiln ⟨0x05, ord, scope, reg, step, rep⟩ = (need (ord = 0 ∧ scope = 0 ∧ reg = 0 ∧ step = 0) do pure (.kzero (← bv 16 rep))) := rfl
theorem decKiln_06 (ord scope reg step rep : Nat) :
    decKiln ⟨0x06, ord, scope, reg, step, rep⟩ = (do pure (.kldc ⟨⟨← ordOf ord, ← scopeOf scope⟩, ← bv 4 reg, ← bv 17 step, ← bv 16 rep⟩)) := rfl
theorem decKiln_07 (ord scope reg step rep : Nat) :
    decKiln ⟨0x07, ord, scope, reg, step, rep⟩ = (need (ord = 0 ∧ scope = 0) do pure (.kmma ⟨← bv 4 reg, ← bv 17 step, ← bv 16 rep⟩)) := rfl
theorem decKiln_08 (ord scope reg step rep : Nat) :
    decKiln ⟨0x08, ord, scope, reg, step, rep⟩ = (need (ord = 0 ∧ scope = 0) do pure (.kdrain ⟨← bv 4 reg, ← bv 17 step, ← bv 16 rep⟩)) := rfl
theorem decKiln_09 (ord scope reg step rep : Nat) :
    decKiln ⟨0x09, ord, scope, reg, step, rep⟩ = (need (ord = 0 ∧ scope = 0 ∧ reg = 0 ∧ step = 0) do pure (.kswap (← bv 16 rep))) := rfl
theorem decKiln_0a (ord scope reg step rep : Nat) :
    decKiln ⟨0x0a, ord, scope, reg, step, rep⟩ = (need (reg = 0) do pure (.ksig ⟨← ordOf ord, ← scopeOf scope⟩ (← bv 6 step) (← bv 16 rep))) := rfl
theorem decKiln_0b (ord scope reg step rep : Nat) :
    decKiln ⟨0x0b, ord, scope, reg, step, rep⟩ = (do pure (.kwait ⟨← ordOf ord, ← scopeOf scope⟩ (← bv 4 reg) (← bv 6 step) (← bv 16 rep))) := rfl
theorem decKiln_0c (ord scope reg step rep : Nat) :
    decKiln ⟨0x0c, ord, scope, reg, step, rep⟩ = (do pure (.ksync ⟨⟨← ordOf ord, ← scopeOf scope⟩, ← bv 4 reg, ← bv 17 step, ← bv 16 rep⟩)) := rfl
theorem decKiln_0d (ord scope reg step rep : Nat) :
    decKiln ⟨0x0d, ord, scope, reg, step, rep⟩ = (need (ord = 0 ∧ scope = 0) do pure (.kloop ⟨← bv 4 reg, ← bv 17 step, ← bv 16 rep⟩)) := rfl
theorem decKiln_0e (ord scope reg step rep : Nat) :
    decKiln ⟨0x0e, ord, scope, reg, step, rep⟩ = (need (ord = 0 ∧ scope = 0 ∧ reg = 0 ∧ step = 0) do pure (.kend (← bv 16 rep))) := rfl

theorem rt_knop (n : BitVec 16) :
    decKiln ⟨0x00, 0, 0, 0, 0, n.toNat⟩ = some (.knop n) := by
  rw [decKiln_00]
  simp [need, xr_toNat, bv_toNat, os_code, ord_code, scope_code]

theorem rt_ksetl (w : EW) :
    decKiln ⟨0x01, 0, 0, w.r.toNat, w.v.toNat, w.n.toNat⟩ = some (.ksetl w) := by
  rw [decKiln_01]
  simp [need, xr_toNat, bv_toNat, os_code, ord_code, scope_code]

theorem rt_kseth (w : EW) :
    decKiln ⟨0x02, 0, 0, w.r.toNat, w.v.toNat, w.n.toNat⟩ = some (.kseth w) := by
  rw [decKiln_02]
  simp [need, xr_toNat, bv_toNat, os_code, ord_code, scope_code]

theorem rt_kfmt (f' : BitVec 8) (n : BitVec 16) :
    decKiln ⟨0x03, 0, 0, 0, f'.toNat, n.toNat⟩ = some (.kfmt f' n) := by
  rw [decKiln_03]
  simp [need, xr_toNat, bv_toNat, os_code, ord_code, scope_code]

theorem rt_ktile (r : BitVec 4) (n : BitVec 16) :
    decKiln ⟨0x04, 0, 0, r.toNat, 0, n.toNat⟩ = some (.ktile r n) := by
  rw [decKiln_04]
  simp [need, xr_toNat, bv_toNat, os_code, ord_code, scope_code]

theorem rt_kzero (n : BitVec 16) :
    decKiln ⟨0x05, 0, 0, 0, 0, n.toNat⟩ = some (.kzero n) := by
  rw [decKiln_05]
  simp [need, xr_toNat, bv_toNat, os_code, ord_code, scope_code]

theorem rt_kldc (w : EWO) :
    decKiln ⟨0x06, w.os.ord.code, w.os.scope.code, w.r.toNat, w.v.toNat, w.n.toNat⟩ = some (.kldc w) := by
  rw [decKiln_06]
  simp [need, xr_toNat, bv_toNat, os_code, ord_code, scope_code]

theorem rt_kmma (w : EW) :
    decKiln ⟨0x07, 0, 0, w.r.toNat, w.v.toNat, w.n.toNat⟩ = some (.kmma w) := by
  rw [decKiln_07]
  simp [need, xr_toNat, bv_toNat, os_code, ord_code, scope_code]

theorem rt_kdrain (w : EW) :
    decKiln ⟨0x08, 0, 0, w.r.toNat, w.v.toNat, w.n.toNat⟩ = some (.kdrain w) := by
  rw [decKiln_08]
  simp [need, xr_toNat, bv_toNat, os_code, ord_code, scope_code]

theorem rt_kswap (n : BitVec 16) :
    decKiln ⟨0x09, 0, 0, 0, 0, n.toNat⟩ = some (.kswap n) := by
  rw [decKiln_09]
  simp [need, xr_toNat, bv_toNat, os_code, ord_code, scope_code]

theorem rt_ksig (os : OS) (f' : BitVec 6) (n : BitVec 16) :
    decKiln ⟨0x0a, os.ord.code, os.scope.code, 0, f'.toNat, n.toNat⟩ = some (.ksig os f' n) := by
  rw [decKiln_0a]
  simp [need, xr_toNat, bv_toNat, os_code, ord_code, scope_code]

theorem rt_kwait (os : OS) (r : BitVec 4) (f' : BitVec 6) (n : BitVec 16) :
    decKiln ⟨0x0b, os.ord.code, os.scope.code, r.toNat, f'.toNat, n.toNat⟩ = some (.kwait os r f' n) := by
  rw [decKiln_0b]
  simp [need, xr_toNat, bv_toNat, os_code, ord_code, scope_code]

theorem rt_ksync (w : EWO) :
    decKiln ⟨0x0c, w.os.ord.code, w.os.scope.code, w.r.toNat, w.v.toNat, w.n.toNat⟩ = some (.ksync w) := by
  rw [decKiln_0c]
  simp [need, xr_toNat, bv_toNat, os_code, ord_code, scope_code]

theorem rt_kloop (w : EW) :
    decKiln ⟨0x0d, 0, 0, w.r.toNat, w.v.toNat, w.n.toNat⟩ = some (.kloop w) := by
  rw [decKiln_0d]
  simp [need, xr_toNat, bv_toNat, os_code, ord_code, scope_code]

theorem rt_kend (n : BitVec 16) :
    decKiln ⟨0x0e, 0, 0, 0, 0, n.toNat⟩ = some (.kend n) := by
  rw [decKiln_0e]
  simp [need, xr_toNat, bv_toNat, os_code, ord_code, scope_code]

/-- What the Kiln encoder writes, the decoder reads back. -/
theorem decKiln_enc (i : Instr) (f : EwF) (h : encKiln i = some f) (hw : i.wf = true) : decKiln f = some i := by
  cases i
  case knop n => cases h; exact rt_knop _
  case ksetl w => cases h; exact rt_ksetl _
  case kseth w => cases h; exact rt_kseth _
  case kfmt f' n => cases h; exact rt_kfmt _ _
  case ktile r n => cases h; exact rt_ktile _ _
  case kzero n => cases h; exact rt_kzero _
  case kldc w => cases h; exact rt_kldc _
  case kmma w => cases h; exact rt_kmma _
  case kdrain w => cases h; exact rt_kdrain _
  case kswap n => cases h; exact rt_kswap _
  case ksig os f' n => cases h; exact rt_ksig _ _ _
  case kwait os r f' n => cases h; exact rt_kwait _ _ _ _
  case ksync w => cases h; exact rt_ksync _
  case kloop w => cases h; exact rt_kloop _
  case kend n => cases h; exact rt_kend _
  all_goals (cases h; done)

theorem encKiln_fits (i : Instr) (f : EwF) (h : encKiln i = some f) : ewFits f := by
  cases i
  case knop n =>
    cases h
    simp only [ewFits]
    omega
  case ksetl w =>
    cases h
    simp only [ewFits]
    omega
  case kseth w =>
    cases h
    simp only [ewFits]
    omega
  case kfmt f' n =>
    cases h
    simp only [ewFits]
    omega
  case ktile r n =>
    cases h
    simp only [ewFits]
    omega
  case kzero n =>
    cases h
    simp only [ewFits]
    omega
  case kldc w =>
    cases h
    have := ord_lt w.os.ord
    have := scope_lt w.os.scope
    simp only [ewFits]
    omega
  case kmma w =>
    cases h
    simp only [ewFits]
    omega
  case kdrain w =>
    cases h
    simp only [ewFits]
    omega
  case kswap n =>
    cases h
    simp only [ewFits]
    omega
  case ksig os f' n =>
    cases h
    have := ord_lt os.ord
    have := scope_lt os.scope
    simp only [ewFits]
    omega
  case kwait os r f' n =>
    cases h
    have := ord_lt os.ord
    have := scope_lt os.scope
    simp only [ewFits]
    omega
  case ksync w =>
    cases h
    have := ord_lt w.os.ord
    have := scope_lt w.os.scope
    simp only [ewFits]
    omega
  case kloop w =>
    cases h
    simp only [ewFits]
    omega
  case kend n =>
    cases h
    simp only [ewFits]
    omega
  all_goals (cases h; done)

end Sys2Proof.Laws
end

