-- ==== Sys2Proof/Laws/EncFlue.lean ====
section
/-! SUPPORT. Decoding against encoding for flue instructions: the decoder at each opcode, what each
instruction's fields decode to, and that they fit the word. -/

set_option linter.unusedSimpArgs false
set_option linter.unusedVariables false

namespace Sys2Proof.Laws

theorem decFlue_00 (d a b c md : Nat) :
    decFlue ⟨0x00, d, a, b, c, md⟩ = (need (d = 0 ∧ a = 0 ∧ b = 0 ∧ c = 0 ∧ md = 0) do pure .fnop) := rfl
theorem decFlue_01 (d a b c md : Nat) :
    decFlue ⟨0x01, d, a, b, c, md⟩ = (need (a = 0 ∧ b = 0 ∧ c = 0 ∧ md < 64) do pure (.fld (← bv 4 d) (BitVec.ofNat 4 (md / 4)) (BitVec.ofNat 2 md))) := rfl
theorem decFlue_02 (d a b c md : Nat) :
    decFlue ⟨0x02, d, a, b, c, md⟩ = (need (c = 0 ∧ md = 0) do pure (.fadd ⟨← bv 4 d, ← bv 4 a, ← bv 4 b⟩)) := rfl
theorem decFlue_03 (d a b c md : Nat) :
    decFlue ⟨0x03, d, a, b, c, md⟩ = (need (c = 0 ∧ md = 0) do pure (.fmul ⟨← bv 4 d, ← bv 4 a, ← bv 4 b⟩)) := rfl
theorem decFlue_04 (d a b c md : Nat) :
    decFlue ⟨0x04, d, a, b, c, md⟩ = (need (md = 0) do pure (.ffma ⟨← bv 4 d, ← bv 4 a, ← bv 4 b, ← bv 4 c⟩)) := rfl
theorem decFlue_05 (d a b c md : Nat) :
    decFlue ⟨0x05, d, a, b, c, md⟩ = (need (c = 0 ∧ md = 0) do pure (.fmax ⟨← bv 4 d, ← bv 4 a, ← bv 4 b⟩)) := rfl
theorem decFlue_06 (d a b c md : Nat) :
    decFlue ⟨0x06, d, a, b, c, md⟩ = (need (c = 0 ∧ md = 0) do pure (.fmin ⟨← bv 4 d, ← bv 4 a, ← bv 4 b⟩)) := rfl
theorem decFlue_07 (d a b c md : Nat) :
    decFlue ⟨0x07, d, a, b, c, md⟩ = (need (md = 0) do pure (.fbias ⟨← bv 4 d, ← bv 4 a, ← bv 4 b, ← bv 4 c⟩)) := rfl
theorem decFlue_08 (d a b c md : Nat) :
    decFlue ⟨0x08, d, a, b, c, md⟩ = (do pure (.fscale ⟨← bv 4 d, ← bv 4 a, ← bv 4 b, ← bv 4 c⟩ (← bv 8 md))) := rfl
theorem decFlue_09 (d a b c md : Nat) :
    decFlue ⟨0x09, d, a, b, c, md⟩ = (need (c = 0) do pure (.fact ⟨← bv 4 d, ← bv 4 a, ← bv 4 b⟩ (← bv 4 md))) := rfl
theorem decFlue_0a (d a b c md : Nat) :
    decFlue ⟨0x0a, d, a, b, c, md⟩ = (need (md = 0) do pure (.fclamp ⟨← bv 4 d, ← bv 4 a, ← bv 4 b, ← bv 4 c⟩)) := rfl
theorem decFlue_0b (d a b c md : Nat) :
    decFlue ⟨0x0b, d, a, b, c, md⟩ = (need (b = 0 ∧ c = 0 ∧ md < 128) do pure (.fq (← bv 4 d) (← bv 4 a) (BitVec.ofNat 3 (md / 16)) (BitVec.ofNat 4 md))) := rfl
theorem decFlue_0c (d a b c md : Nat) :
    decFlue ⟨0x0c, d, a, b, c, md⟩ = (need (d = 0 ∧ b = 0 ∧ c = 0) do pure (.fst (← bv 4 a) (BitVec.ofNat 2 (md / 512)) (BitVec.ofNat 2 (md / 128)) (BitVec.ofNat 3 (md / 16)) (BitVec.ofNat 4 md))) := rfl
theorem decFlue_0d (d a b c md : Nat) :
    decFlue ⟨0x0d, d, a, b, c, md⟩ = (need (b = 0 ∧ c = 0) do pure (.fstat (← bv 4 d) (← bv 4 a) (← bv 2 md))) := rfl
theorem decFlue_0e (d a b c md : Nat) :
    decFlue ⟨0x0e, d, a, b, c, md⟩ = (need (d = 0 ∧ a = 0 ∧ b = 0 ∧ c = 0 ∧ md = 0) do pure .fend) := rfl

theorem rt_fnop :
    decFlue ⟨0x00, 0, 0, 0, 0, 0⟩ = some (.fnop) := by
  rw [decFlue_00]
  simp [need, xr_toNat, bv_toNat, os_code, ord_code, scope_code]

theorem rt_fld (d : BitVec 4) (fm : BitVec 4) (j : BitVec 2) :
    decFlue ⟨0x01, d.toNat, 0, 0, 0, fm.toNat * 4 + j.toNat⟩ = some (.fld d fm j) := by
  rw [decFlue_01]
  have := fm.isLt
  have := j.isLt
  simp [need, bv_toNat]
  and_intros <;> bv_omega

theorem rt_fadd (o : F2) :
    decFlue ⟨0x02, o.d.toNat, o.a.toNat, o.b.toNat, 0, 0⟩ = some (.fadd o) := by
  rw [decFlue_02]
  simp [need, xr_toNat, bv_toNat, os_code, ord_code, scope_code]

theorem rt_fmul (o : F2) :
    decFlue ⟨0x03, o.d.toNat, o.a.toNat, o.b.toNat, 0, 0⟩ = some (.fmul o) := by
  rw [decFlue_03]
  simp [need, xr_toNat, bv_toNat, os_code, ord_code, scope_code]

theorem rt_ffma (o : F3) :
    decFlue ⟨0x04, o.d.toNat, o.a.toNat, o.b.toNat, o.c.toNat, 0⟩ = some (.ffma o) := by
  rw [decFlue_04]
  simp [need, xr_toNat, bv_toNat, os_code, ord_code, scope_code]

theorem rt_fmax (o : F2) :
    decFlue ⟨0x05, o.d.toNat, o.a.toNat, o.b.toNat, 0, 0⟩ = some (.fmax o) := by
  rw [decFlue_05]
  simp [need, xr_toNat, bv_toNat, os_code, ord_code, scope_code]

theorem rt_fmin (o : F2) :
    decFlue ⟨0x06, o.d.toNat, o.a.toNat, o.b.toNat, 0, 0⟩ = some (.fmin o) := by
  rw [decFlue_06]
  simp [need, xr_toNat, bv_toNat, os_code, ord_code, scope_code]

theorem rt_fbias (o : F3) :
    decFlue ⟨0x07, o.d.toNat, o.a.toNat, o.b.toNat, o.c.toNat, 0⟩ = some (.fbias o) := by
  rw [decFlue_07]
  simp [need, xr_toNat, bv_toNat, os_code, ord_code, scope_code]

theorem rt_fscale (o : F3) (n : BitVec 8) :
    decFlue ⟨0x08, o.d.toNat, o.a.toNat, o.b.toNat, o.c.toNat, n.toNat⟩ = some (.fscale o n) := by
  rw [decFlue_08]
  simp [need, xr_toNat, bv_toNat, os_code, ord_code, scope_code]

theorem rt_fact (o : F2) (t : BitVec 4) :
    decFlue ⟨0x09, o.d.toNat, o.a.toNat, o.b.toNat, 0, t.toNat⟩ = some (.fact o t) := by
  rw [decFlue_09]
  simp [need, xr_toNat, bv_toNat, os_code, ord_code, scope_code]

theorem rt_fclamp (o : F3) :
    decFlue ⟨0x0a, o.d.toNat, o.a.toNat, o.b.toNat, o.c.toNat, 0⟩ = some (.fclamp o) := by
  rw [decFlue_0a]
  simp [need, xr_toNat, bv_toNat, os_code, ord_code, scope_code]

theorem rt_fq (d : BitVec 4) (a : BitVec 4) (r : BitVec 3) (fm : BitVec 4) :
    decFlue ⟨0x0b, d.toNat, a.toNat, 0, 0, r.toNat * 16 + fm.toNat⟩ = some (.fq d a r fm) := by
  rw [decFlue_0b]
  have := r.isLt
  have := fm.isLt
  simp [need, bv_toNat]
  and_intros <;> bv_omega

theorem rt_fst (a : BitVec 4) (k : BitVec 2) (j : BitVec 2) (r : BitVec 3) (fm : BitVec 4) :
    decFlue ⟨0x0c, 0, a.toNat, 0, 0, k.toNat * 512 + j.toNat * 128 + r.toNat * 16 + fm.toNat⟩ = some (.fst a k j r fm) := by
  rw [decFlue_0c]
  have := k.isLt
  have := j.isLt
  have := r.isLt
  have := fm.isLt
  simp [need, bv_toNat]
  and_intros <;> bv_omega

theorem rt_fstat (d : BitVec 4) (a : BitVec 4) (op : BitVec 2) :
    decFlue ⟨0x0d, d.toNat, a.toNat, 0, 0, op.toNat⟩ = some (.fstat d a op) := by
  rw [decFlue_0d]
  simp [need, xr_toNat, bv_toNat, os_code, ord_code, scope_code]

theorem rt_fend :
    decFlue ⟨0x0e, 0, 0, 0, 0, 0⟩ = some (.fend) := by
  rw [decFlue_0e]
  simp [need, xr_toNat, bv_toNat, os_code, ord_code, scope_code]

/-- What the Flue encoder writes, the decoder reads back. -/
theorem decFlue_enc (i : Instr) (f : FlF) (h : encFlue i = some f) (hw : i.wf = true) : decFlue f = some i := by
  cases i
  case fnop => cases h; exact rt_fnop
  case fld d fm j => cases h; exact rt_fld _ _ _
  case fadd o => cases h; exact rt_fadd _
  case fmul o => cases h; exact rt_fmul _
  case ffma o => cases h; exact rt_ffma _
  case fmax o => cases h; exact rt_fmax _
  case fmin o => cases h; exact rt_fmin _
  case fbias o => cases h; exact rt_fbias _
  case fscale o n => cases h; exact rt_fscale _ _
  case fact o t => cases h; exact rt_fact _ _
  case fclamp o => cases h; exact rt_fclamp _
  case fq d a r fm => cases h; exact rt_fq _ _ _ _
  case fst a k j r fm => cases h; exact rt_fst _ _ _ _ _
  case fstat d a op => cases h; exact rt_fstat _ _ _
  case fend => cases h; exact rt_fend
  all_goals (cases h; done)

theorem encFlue_fits (i : Instr) (f : FlF) (h : encFlue i = some f) : flFits f := by
  cases i
  case fnop =>
    cases h
    simp only [flFits]
    omega
  case fld d fm j =>
    cases h
    simp only [flFits]
    omega
  case fadd o =>
    cases h
    simp only [flFits]
    omega
  case fmul o =>
    cases h
    simp only [flFits]
    omega
  case ffma o =>
    cases h
    simp only [flFits]
    omega
  case fmax o =>
    cases h
    simp only [flFits]
    omega
  case fmin o =>
    cases h
    simp only [flFits]
    omega
  case fbias o =>
    cases h
    simp only [flFits]
    omega
  case fscale o n =>
    cases h
    simp only [flFits]
    omega
  case fact o t =>
    cases h
    simp only [flFits]
    omega
  case fclamp o =>
    cases h
    simp only [flFits]
    omega
  case fq d a r fm =>
    cases h
    simp only [flFits]
    omega
  case fst a k j r fm =>
    cases h
    simp only [flFits]
    omega
  case fstat d a op =>
    cases h
    simp only [flFits]
    omega
  case fend =>
    cases h
    simp only [flFits]
    omega
  all_goals (cases h; done)

end Sys2Proof.Laws
end

