-- ==== Sys2Proof/Laws/EncMemory.lean ====
section
/-! SUPPORT. Decoding against encoding for MC syllables: the decoder at each opcode, what each
instruction's fields decode to, and that they fit the word. -/

set_option linter.unusedSimpArgs false
set_option linter.unusedVariables false

namespace Sys2Proof.Laws

theorem decMC_00 (xd xbase xpol ord scope space disp : Nat) :
    decMC ⟨0x00, xd, xbase, xpol, ord, scope, space, disp⟩ = (need (xd = 0 ∧ (noM ⟨0x00, xd, xbase, xpol, ord, scope, space, disp⟩)) do pure .mcNop) := rfl
theorem decMC_01 (xd xbase xpol ord scope space disp : Nat) :
    decMC ⟨0x01, xd, xbase, xpol, ord, scope, space, disp⟩ = (do pure (.ldb ⟨← xr xd, ← decM ⟨0x01, xd, xbase, xpol, ord, scope, space, disp⟩⟩)) := rfl
theorem decMC_02 (xd xbase xpol ord scope space disp : Nat) :
    decMC ⟨0x02, xd, xbase, xpol, ord, scope, space, disp⟩ = (do pure (.ldbu ⟨← xr xd, ← decM ⟨0x02, xd, xbase, xpol, ord, scope, space, disp⟩⟩)) := rfl
theorem decMC_03 (xd xbase xpol ord scope space disp : Nat) :
    decMC ⟨0x03, xd, xbase, xpol, ord, scope, space, disp⟩ = (do pure (.ldh ⟨← xr xd, ← decM ⟨0x03, xd, xbase, xpol, ord, scope, space, disp⟩⟩)) := rfl
theorem decMC_04 (xd xbase xpol ord scope space disp : Nat) :
    decMC ⟨0x04, xd, xbase, xpol, ord, scope, space, disp⟩ = (do pure (.ldhu ⟨← xr xd, ← decM ⟨0x04, xd, xbase, xpol, ord, scope, space, disp⟩⟩)) := rfl
theorem decMC_05 (xd xbase xpol ord scope space disp : Nat) :
    decMC ⟨0x05, xd, xbase, xpol, ord, scope, space, disp⟩ = (do pure (.ldw ⟨← xr xd, ← decM ⟨0x05, xd, xbase, xpol, ord, scope, space, disp⟩⟩)) := rfl
theorem decMC_06 (xd xbase xpol ord scope space disp : Nat) :
    decMC ⟨0x06, xd, xbase, xpol, ord, scope, space, disp⟩ = (do pure (.ldwu ⟨← xr xd, ← decM ⟨0x06, xd, xbase, xpol, ord, scope, space, disp⟩⟩)) := rfl
theorem decMC_07 (xd xbase xpol ord scope space disp : Nat) :
    decMC ⟨0x07, xd, xbase, xpol, ord, scope, space, disp⟩ = (do pure (.ldd ⟨← xr xd, ← decM ⟨0x07, xd, xbase, xpol, ord, scope, space, disp⟩⟩)) := rfl
theorem decMC_08 (xd xbase xpol ord scope space disp : Nat) :
    decMC ⟨0x08, xd, xbase, xpol, ord, scope, space, disp⟩ = (do pure (.stb ⟨← xr xd, ← decM ⟨0x08, xd, xbase, xpol, ord, scope, space, disp⟩⟩)) := rfl
theorem decMC_09 (xd xbase xpol ord scope space disp : Nat) :
    decMC ⟨0x09, xd, xbase, xpol, ord, scope, space, disp⟩ = (do pure (.sth ⟨← xr xd, ← decM ⟨0x09, xd, xbase, xpol, ord, scope, space, disp⟩⟩)) := rfl
theorem decMC_0a (xd xbase xpol ord scope space disp : Nat) :
    decMC ⟨0x0a, xd, xbase, xpol, ord, scope, space, disp⟩ = (do pure (.stw ⟨← xr xd, ← decM ⟨0x0a, xd, xbase, xpol, ord, scope, space, disp⟩⟩)) := rfl
theorem decMC_0b (xd xbase xpol ord scope space disp : Nat) :
    decMC ⟨0x0b, xd, xbase, xpol, ord, scope, space, disp⟩ = (do pure (.std ⟨← xr xd, ← decM ⟨0x0b, xd, xbase, xpol, ord, scope, space, disp⟩⟩)) := rfl
theorem decMC_0c (xd xbase xpol ord scope space disp : Nat) :
    decMC ⟨0x0c, xd, xbase, xpol, ord, scope, space, disp⟩ = (do pure (.ldq (← bv 3 xd) (← decM ⟨0x0c, xd, xbase, xpol, ord, scope, space, disp⟩))) := rfl
theorem decMC_0d (xd xbase xpol ord scope space disp : Nat) :
    decMC ⟨0x0d, xd, xbase, xpol, ord, scope, space, disp⟩ = (need (xd < 2 ∧ ord = 0 ∧ scope = 0 ∧ space = 0) do pure (.pref (xd == 1) (← xr xbase) (← xr xpol) (← bv 23 disp))) := rfl
theorem decMC_10 (xd xbase xpol ord scope space disp : Nat) :
    decMC ⟨0x10, xd, xbase, xpol, ord, scope, space, disp⟩ = (do pure (.ldv (← bv 6 xd) (← decM ⟨0x10, xd, xbase, xpol, ord, scope, space, disp⟩))) := rfl
theorem decMC_11 (xd xbase xpol ord scope space disp : Nat) :
    decMC ⟨0x11, xd, xbase, xpol, ord, scope, space, disp⟩ = (do pure (.stv (← bv 6 xd) (← decM ⟨0x11, xd, xbase, xpol, ord, scope, space, disp⟩))) := rfl
theorem decMC_12 (xd xbase xpol ord scope space disp : Nat) :
    decMC ⟨0x12, xd, xbase, xpol, ord, scope, space, disp⟩ = (do pure (.ldp (← bv 4 xd) (← decM ⟨0x12, xd, xbase, xpol, ord, scope, space, disp⟩))) := rfl
theorem decMC_13 (xd xbase xpol ord scope space disp : Nat) :
    decMC ⟨0x13, xd, xbase, xpol, ord, scope, space, disp⟩ = (do pure (.stp (← bv 4 xd) (← decM ⟨0x13, xd, xbase, xpol, ord, scope, space, disp⟩))) := rfl
theorem decMC_14 (xd xbase xpol ord scope space disp : Nat) :
    decMC ⟨0x14, xd, xbase, xpol, ord, scope, space, disp⟩ = (need (xd < 64 ∧ xd % 32 < 4) do pure (.bind (xd / 32 == 1) (BitVec.ofNat 2 xd) (← decM ⟨0x14, xd, xbase, xpol, ord, scope, space, disp⟩))) := rfl
theorem decMC_15 (xd xbase xpol ord scope space disp : Nat) :
    decMC ⟨0x15, xd, xbase, xpol, ord, scope, space, disp⟩ = (need ((noM ⟨0x15, xd, xbase, xpol, ord, scope, space, disp⟩)) do pure (.unbind (← bv 2 xd))) := rfl
theorem decMC_16 (xd xbase xpol ord scope space disp : Nat) :
    decMC ⟨0x16, xd, xbase, xpol, ord, scope, space, disp⟩ = (need (xpol = 0 ∧ ord = 0 ∧ scope = 0 ∧ space = 0 ∧ disp = 0) do pure (.spstat (← xr xd) (← bv 2 xbase))) := rfl
theorem decMC_20 (xd xbase xpol ord scope space disp : Nat) :
    decMC ⟨0x20, xd, xbase, xpol, ord, scope, space, disp⟩ = (do pure (.aadd ⟨← xr xd, ← decM ⟨0x20, xd, xbase, xpol, ord, scope, space, disp⟩⟩)) := rfl
theorem decMC_21 (xd xbase xpol ord scope space disp : Nat) :
    decMC ⟨0x21, xd, xbase, xpol, ord, scope, space, disp⟩ = (do pure (.aand ⟨← xr xd, ← decM ⟨0x21, xd, xbase, xpol, ord, scope, space, disp⟩⟩)) := rfl
theorem decMC_22 (xd xbase xpol ord scope space disp : Nat) :
    decMC ⟨0x22, xd, xbase, xpol, ord, scope, space, disp⟩ = (do pure (.aor ⟨← xr xd, ← decM ⟨0x22, xd, xbase, xpol, ord, scope, space, disp⟩⟩)) := rfl
theorem decMC_23 (xd xbase xpol ord scope space disp : Nat) :
    decMC ⟨0x23, xd, xbase, xpol, ord, scope, space, disp⟩ = (do pure (.axor ⟨← xr xd, ← decM ⟨0x23, xd, xbase, xpol, ord, scope, space, disp⟩⟩)) := rfl
theorem decMC_24 (xd xbase xpol ord scope space disp : Nat) :
    decMC ⟨0x24, xd, xbase, xpol, ord, scope, space, disp⟩ = (do pure (.amin ⟨← xr xd, ← decM ⟨0x24, xd, xbase, xpol, ord, scope, space, disp⟩⟩)) := rfl
theorem decMC_25 (xd xbase xpol ord scope space disp : Nat) :
    decMC ⟨0x25, xd, xbase, xpol, ord, scope, space, disp⟩ = (do pure (.amax ⟨← xr xd, ← decM ⟨0x25, xd, xbase, xpol, ord, scope, space, disp⟩⟩)) := rfl
theorem decMC_26 (xd xbase xpol ord scope space disp : Nat) :
    decMC ⟨0x26, xd, xbase, xpol, ord, scope, space, disp⟩ = (do pure (.aminu ⟨← xr xd, ← decM ⟨0x26, xd, xbase, xpol, ord, scope, space, disp⟩⟩)) := rfl
theorem decMC_27 (xd xbase xpol ord scope space disp : Nat) :
    decMC ⟨0x27, xd, xbase, xpol, ord, scope, space, disp⟩ = (do pure (.amaxu ⟨← xr xd, ← decM ⟨0x27, xd, xbase, xpol, ord, scope, space, disp⟩⟩)) := rfl
theorem decMC_28 (xd xbase xpol ord scope space disp : Nat) :
    decMC ⟨0x28, xd, xbase, xpol, ord, scope, space, disp⟩ = (do pure (.aswap ⟨← xr xd, ← decM ⟨0x28, xd, xbase, xpol, ord, scope, space, disp⟩⟩)) := rfl
theorem decMC_29 (xd xbase xpol ord scope space disp : Nat) :
    decMC ⟨0x29, xd, xbase, xpol, ord, scope, space, disp⟩ = (do pure (.acas ⟨← xr xd, ← decM ⟨0x29, xd, xbase, xpol, ord, scope, space, disp⟩⟩)) := rfl
theorem decMC_2a (xd xbase xpol ord scope space disp : Nat) :
    decMC ⟨0x2a, xd, xbase, xpol, ord, scope, space, disp⟩ = (do pure (.afadd ⟨← xr xd, ← decM ⟨0x2a, xd, xbase, xpol, ord, scope, space, disp⟩⟩)) := rfl
theorem decMC_2b (xd xbase xpol ord scope space disp : Nat) :
    decMC ⟨0x2b, xd, xbase, xpol, ord, scope, space, disp⟩ = (do pure (.afmax ⟨← xr xd, ← decM ⟨0x2b, xd, xbase, xpol, ord, scope, space, disp⟩⟩)) := rfl
theorem decMC_30 (xd xbase xpol ord scope space disp : Nat) :
    decMC ⟨0x30, xd, xbase, xpol, ord, scope, space, disp⟩ = (need (xd = 0 ∧ xbase = 0 ∧ xpol = 0 ∧ space = 0 ∧ disp = 0) do pure (.fence ⟨← ordOf ord, ← scopeOf scope⟩)) := rfl
theorem decMC_31 (xd xbase xpol ord scope space disp : Nat) :
    decMC ⟨0x31, xd, xbase, xpol, ord, scope, space, disp⟩ = (need (xd = 0 ∧ xbase = 0 ∧ xpol = 0 ∧ ord = 3 ∧ space = 0 ∧ disp = 0) do pure (.syncg (← scopeOf scope))) := rfl
theorem decMC_32 (xd xbase xpol ord scope space disp : Nat) :
    decMC ⟨0x32, xd, xbase, xpol, ord, scope, space, disp⟩ = (need (xd = 0 ∧ (noM ⟨0x32, xd, xbase, xpol, ord, scope, space, disp⟩)) do pure .rcfence) := rfl
theorem decMC_33 (xd xbase xpol ord scope space disp : Nat) :
    decMC ⟨0x33, xd, xbase, xpol, ord, scope, space, disp⟩ = (need (xd = 0 ∧ ord = 0 ∧ space = 0) do pure (.cinv (← scopeOf scope) (← xr xbase) (← xr xpol) (← bv 23 disp))) := rfl

theorem rt_mcNop :
    decMC ⟨0x00, 0, 0, 0, 0, 0, 0, 0⟩ = some (.mcNop) := by
  rw [decMC_00]
  simp [need, xr_toNat, bv_toNat, decM_enc, ord_code, scope_code]

theorem rt_ldb (o : LdOp) :
    decMC ⟨0x01, o.xd.toNat, o.m.xbase.toNat, o.m.xpol.toNat, o.m.ord.code, o.m.scope.code, o.m.space.code, o.m.disp.toNat⟩ = some (.ldb o) := by
  rw [decMC_01]
  simp [need, xr_toNat, bv_toNat, decM_enc, ord_code, scope_code]

theorem rt_ldbu (o : LdOp) :
    decMC ⟨0x02, o.xd.toNat, o.m.xbase.toNat, o.m.xpol.toNat, o.m.ord.code, o.m.scope.code, o.m.space.code, o.m.disp.toNat⟩ = some (.ldbu o) := by
  rw [decMC_02]
  simp [need, xr_toNat, bv_toNat, decM_enc, ord_code, scope_code]

theorem rt_ldh (o : LdOp) :
    decMC ⟨0x03, o.xd.toNat, o.m.xbase.toNat, o.m.xpol.toNat, o.m.ord.code, o.m.scope.code, o.m.space.code, o.m.disp.toNat⟩ = some (.ldh o) := by
  rw [decMC_03]
  simp [need, xr_toNat, bv_toNat, decM_enc, ord_code, scope_code]

theorem rt_ldhu (o : LdOp) :
    decMC ⟨0x04, o.xd.toNat, o.m.xbase.toNat, o.m.xpol.toNat, o.m.ord.code, o.m.scope.code, o.m.space.code, o.m.disp.toNat⟩ = some (.ldhu o) := by
  rw [decMC_04]
  simp [need, xr_toNat, bv_toNat, decM_enc, ord_code, scope_code]

theorem rt_ldw (o : LdOp) :
    decMC ⟨0x05, o.xd.toNat, o.m.xbase.toNat, o.m.xpol.toNat, o.m.ord.code, o.m.scope.code, o.m.space.code, o.m.disp.toNat⟩ = some (.ldw o) := by
  rw [decMC_05]
  simp [need, xr_toNat, bv_toNat, decM_enc, ord_code, scope_code]

theorem rt_ldwu (o : LdOp) :
    decMC ⟨0x06, o.xd.toNat, o.m.xbase.toNat, o.m.xpol.toNat, o.m.ord.code, o.m.scope.code, o.m.space.code, o.m.disp.toNat⟩ = some (.ldwu o) := by
  rw [decMC_06]
  simp [need, xr_toNat, bv_toNat, decM_enc, ord_code, scope_code]

theorem rt_ldd (o : LdOp) :
    decMC ⟨0x07, o.xd.toNat, o.m.xbase.toNat, o.m.xpol.toNat, o.m.ord.code, o.m.scope.code, o.m.space.code, o.m.disp.toNat⟩ = some (.ldd o) := by
  rw [decMC_07]
  simp [need, xr_toNat, bv_toNat, decM_enc, ord_code, scope_code]

theorem rt_stb (o : StOp) :
    decMC ⟨0x08, o.xs.toNat, o.m.xbase.toNat, o.m.xpol.toNat, o.m.ord.code, o.m.scope.code, o.m.space.code, o.m.disp.toNat⟩ = some (.stb o) := by
  rw [decMC_08]
  simp [need, xr_toNat, bv_toNat, decM_enc, ord_code, scope_code]

theorem rt_sth (o : StOp) :
    decMC ⟨0x09, o.xs.toNat, o.m.xbase.toNat, o.m.xpol.toNat, o.m.ord.code, o.m.scope.code, o.m.space.code, o.m.disp.toNat⟩ = some (.sth o) := by
  rw [decMC_09]
  simp [need, xr_toNat, bv_toNat, decM_enc, ord_code, scope_code]

theorem rt_stw (o : StOp) :
    decMC ⟨0x0a, o.xs.toNat, o.m.xbase.toNat, o.m.xpol.toNat, o.m.ord.code, o.m.scope.code, o.m.space.code, o.m.disp.toNat⟩ = some (.stw o) := by
  rw [decMC_0a]
  simp [need, xr_toNat, bv_toNat, decM_enc, ord_code, scope_code]

theorem rt_std (o : StOp) :
    decMC ⟨0x0b, o.xs.toNat, o.m.xbase.toNat, o.m.xpol.toNat, o.m.ord.code, o.m.scope.code, o.m.space.code, o.m.disp.toNat⟩ = some (.std o) := by
  rw [decMC_0b]
  simp [need, xr_toNat, bv_toNat, decM_enc, ord_code, scope_code]

theorem rt_ldq (q : BitVec 3) (m : MAddr) :
    decMC ⟨0x0c, q.toNat, m.xbase.toNat, m.xpol.toNat, m.ord.code, m.scope.code, m.space.code, m.disp.toNat⟩ = some (.ldq q m) := by
  rw [decMC_0c]
  simp [need, xr_toNat, bv_toNat, decM_enc, ord_code, scope_code]

theorem rt_pref (l2 : Bool) (xbase : XReg) (xpol : XReg) (disp : BitVec 23) :
    decMC ⟨0x0d, bit l2, xbase.toNat, xpol.toNat, 0, 0, 0, disp.toNat⟩ = some (.pref l2 xbase xpol disp) := by
  rw [decMC_0d]
  cases l2 <;> simp [need, xr_toNat, bv_toNat, bit]

theorem rt_ldv (v : BitVec 6) (m : MAddr) :
    decMC ⟨0x10, v.toNat, m.xbase.toNat, m.xpol.toNat, m.ord.code, m.scope.code, m.space.code, m.disp.toNat⟩ = some (.ldv v m) := by
  rw [decMC_10]
  simp [need, xr_toNat, bv_toNat, decM_enc, ord_code, scope_code]

theorem rt_stv (v : BitVec 6) (m : MAddr) :
    decMC ⟨0x11, v.toNat, m.xbase.toNat, m.xpol.toNat, m.ord.code, m.scope.code, m.space.code, m.disp.toNat⟩ = some (.stv v m) := by
  rw [decMC_11]
  simp [need, xr_toNat, bv_toNat, decM_enc, ord_code, scope_code]

theorem rt_ldp (p : BitVec 4) (m : MAddr) :
    decMC ⟨0x12, p.toNat, m.xbase.toNat, m.xpol.toNat, m.ord.code, m.scope.code, m.space.code, m.disp.toNat⟩ = some (.ldp p m) := by
  rw [decMC_12]
  simp [need, xr_toNat, bv_toNat, decM_enc, ord_code, scope_code]

theorem rt_stp (p : BitVec 4) (m : MAddr) :
    decMC ⟨0x13, p.toNat, m.xbase.toNat, m.xpol.toNat, m.ord.code, m.scope.code, m.space.code, m.disp.toNat⟩ = some (.stp p m) := by
  rw [decMC_13]
  simp [need, xr_toNat, bv_toNat, decM_enc, ord_code, scope_code]

theorem rt_bind (wr : Bool) (s : BitVec 2) (m : MAddr) :
    decMC ⟨0x14, bit wr * 32 + s.toNat, m.xbase.toNat, m.xpol.toNat, m.ord.code, m.scope.code, m.space.code, m.disp.toNat⟩ = some (.bind wr s m) := by
  have := s.isLt
  rw [decMC_14]
  cases wr <;> simp [need, decM_enc, bit] <;> and_intros <;> bv_omega

theorem rt_unbind (s : BitVec 2) :
    decMC ⟨0x15, s.toNat, 0, 0, 0, 0, 0, 0⟩ = some (.unbind s) := by
  rw [decMC_15]
  simp [need, xr_toNat, bv_toNat, decM_enc, ord_code, scope_code]

theorem rt_spstat (xd : XReg) (s : BitVec 2) :
    decMC ⟨0x16, xd.toNat, s.toNat, 0, 0, 0, 0, 0⟩ = some (.spstat xd s) := by
  rw [decMC_16]
  simp [need, xr_toNat, bv_toNat, decM_enc, ord_code, scope_code]

theorem rt_aadd (o : AtOp) :
    decMC ⟨0x20, o.xd.toNat, o.m.xbase.toNat, o.m.xpol.toNat, o.m.ord.code, o.m.scope.code, o.m.space.code, o.m.disp.toNat⟩ = some (.aadd o) := by
  rw [decMC_20]
  simp [need, xr_toNat, bv_toNat, decM_enc, ord_code, scope_code]

theorem rt_aand (o : AtOp) :
    decMC ⟨0x21, o.xd.toNat, o.m.xbase.toNat, o.m.xpol.toNat, o.m.ord.code, o.m.scope.code, o.m.space.code, o.m.disp.toNat⟩ = some (.aand o) := by
  rw [decMC_21]
  simp [need, xr_toNat, bv_toNat, decM_enc, ord_code, scope_code]

theorem rt_aor (o : AtOp) :
    decMC ⟨0x22, o.xd.toNat, o.m.xbase.toNat, o.m.xpol.toNat, o.m.ord.code, o.m.scope.code, o.m.space.code, o.m.disp.toNat⟩ = some (.aor o) := by
  rw [decMC_22]
  simp [need, xr_toNat, bv_toNat, decM_enc, ord_code, scope_code]

theorem rt_axor (o : AtOp) :
    decMC ⟨0x23, o.xd.toNat, o.m.xbase.toNat, o.m.xpol.toNat, o.m.ord.code, o.m.scope.code, o.m.space.code, o.m.disp.toNat⟩ = some (.axor o) := by
  rw [decMC_23]
  simp [need, xr_toNat, bv_toNat, decM_enc, ord_code, scope_code]

theorem rt_amin (o : AtOp) :
    decMC ⟨0x24, o.xd.toNat, o.m.xbase.toNat, o.m.xpol.toNat, o.m.ord.code, o.m.scope.code, o.m.space.code, o.m.disp.toNat⟩ = some (.amin o) := by
  rw [decMC_24]
  simp [need, xr_toNat, bv_toNat, decM_enc, ord_code, scope_code]

theorem rt_amax (o : AtOp) :
    decMC ⟨0x25, o.xd.toNat, o.m.xbase.toNat, o.m.xpol.toNat, o.m.ord.code, o.m.scope.code, o.m.space.code, o.m.disp.toNat⟩ = some (.amax o) := by
  rw [decMC_25]
  simp [need, xr_toNat, bv_toNat, decM_enc, ord_code, scope_code]

theorem rt_aminu (o : AtOp) :
    decMC ⟨0x26, o.xd.toNat, o.m.xbase.toNat, o.m.xpol.toNat, o.m.ord.code, o.m.scope.code, o.m.space.code, o.m.disp.toNat⟩ = some (.aminu o) := by
  rw [decMC_26]
  simp [need, xr_toNat, bv_toNat, decM_enc, ord_code, scope_code]

theorem rt_amaxu (o : AtOp) :
    decMC ⟨0x27, o.xd.toNat, o.m.xbase.toNat, o.m.xpol.toNat, o.m.ord.code, o.m.scope.code, o.m.space.code, o.m.disp.toNat⟩ = some (.amaxu o) := by
  rw [decMC_27]
  simp [need, xr_toNat, bv_toNat, decM_enc, ord_code, scope_code]

theorem rt_aswap (o : AtOp) :
    decMC ⟨0x28, o.xd.toNat, o.m.xbase.toNat, o.m.xpol.toNat, o.m.ord.code, o.m.scope.code, o.m.space.code, o.m.disp.toNat⟩ = some (.aswap o) := by
  rw [decMC_28]
  simp [need, xr_toNat, bv_toNat, decM_enc, ord_code, scope_code]

theorem rt_acas (o : AtOp) :
    decMC ⟨0x29, o.xd.toNat, o.m.xbase.toNat, o.m.xpol.toNat, o.m.ord.code, o.m.scope.code, o.m.space.code, o.m.disp.toNat⟩ = some (.acas o) := by
  rw [decMC_29]
  simp [need, xr_toNat, bv_toNat, decM_enc, ord_code, scope_code]

theorem rt_afadd (o : AtOp) :
    decMC ⟨0x2a, o.xd.toNat, o.m.xbase.toNat, o.m.xpol.toNat, o.m.ord.code, o.m.scope.code, o.m.space.code, o.m.disp.toNat⟩ = some (.afadd o) := by
  rw [decMC_2a]
  simp [need, xr_toNat, bv_toNat, decM_enc, ord_code, scope_code]

theorem rt_afmax (o : AtOp) :
    decMC ⟨0x2b, o.xd.toNat, o.m.xbase.toNat, o.m.xpol.toNat, o.m.ord.code, o.m.scope.code, o.m.space.code, o.m.disp.toNat⟩ = some (.afmax o) := by
  rw [decMC_2b]
  simp [need, xr_toNat, bv_toNat, decM_enc, ord_code, scope_code]

theorem rt_fence (os : OS) :
    decMC ⟨0x30, 0, 0, 0, os.ord.code, os.scope.code, 0, 0⟩ = some (.fence os) := by
  rw [decMC_30]
  simp [need, xr_toNat, bv_toNat, decM_enc, ord_code, scope_code]

theorem rt_syncg (scope : ScopeK) :
    decMC ⟨0x31, 0, 0, 0, 3, scope.code, 0, 0⟩ = some (.syncg scope) := by
  rw [decMC_31]
  simp [need, xr_toNat, bv_toNat, decM_enc, ord_code, scope_code]

theorem rt_rcfence :
    decMC ⟨0x32, 0, 0, 0, 0, 0, 0, 0⟩ = some (.rcfence) := by
  rw [decMC_32]
  simp [need, xr_toNat, bv_toNat, decM_enc, ord_code, scope_code]

theorem rt_cinv (scope : ScopeK) (xbase : XReg) (xlen : XReg) (disp : BitVec 23) :
    decMC ⟨0x33, 0, xbase.toNat, xlen.toNat, 0, scope.code, 0, disp.toNat⟩ = some (.cinv scope xbase xlen disp) := by
  rw [decMC_33]
  simp [need, xr_toNat, bv_toNat, decM_enc, ord_code, scope_code]

/-- What the MC encoder writes, the decoder reads back. -/
theorem decMC_enc (i : Instr) (f : McF) (h : encMC i = some f) (hw : i.wf = true) : decMC f = some i := by
  cases i
  case mcNop => cases h; exact rt_mcNop
  case ldb o => cases h; exact rt_ldb _
  case ldbu o => cases h; exact rt_ldbu _
  case ldh o => cases h; exact rt_ldh _
  case ldhu o => cases h; exact rt_ldhu _
  case ldw o => cases h; exact rt_ldw _
  case ldwu o => cases h; exact rt_ldwu _
  case ldd o => cases h; exact rt_ldd _
  case stb o => cases h; exact rt_stb _
  case sth o => cases h; exact rt_sth _
  case stw o => cases h; exact rt_stw _
  case std o => cases h; exact rt_std _
  case ldq q m => cases h; exact rt_ldq _ _
  case pref l2 xbase xpol disp => cases h; exact rt_pref _ _ _ _
  case ldv v m => cases h; exact rt_ldv _ _
  case stv v m => cases h; exact rt_stv _ _
  case ldp p m => cases h; exact rt_ldp _ _
  case stp p m => cases h; exact rt_stp _ _
  case bind wr s m => cases h; exact rt_bind _ _ _
  case unbind s => cases h; exact rt_unbind _
  case spstat xd s => cases h; exact rt_spstat _ _
  case aadd o => cases h; exact rt_aadd _
  case aand o => cases h; exact rt_aand _
  case aor o => cases h; exact rt_aor _
  case axor o => cases h; exact rt_axor _
  case amin o => cases h; exact rt_amin _
  case amax o => cases h; exact rt_amax _
  case aminu o => cases h; exact rt_aminu _
  case amaxu o => cases h; exact rt_amaxu _
  case aswap o => cases h; exact rt_aswap _
  case acas o => cases h; exact rt_acas _
  case afadd o => cases h; exact rt_afadd _
  case afmax o => cases h; exact rt_afmax _
  case fence os => cases h; exact rt_fence _
  case syncg scope => cases h; exact rt_syncg _
  case rcfence => cases h; exact rt_rcfence
  case cinv scope xbase xlen disp => cases h; exact rt_cinv _ _ _ _
  all_goals (cases h; done)

theorem encMC_fits (i : Instr) (f : McF) (h : encMC i = some f) : mcFits f := by
  cases i
  case mcNop =>
    cases h
    simp only [mcFits]
    omega
  case ldb o =>
    cases h
    have := ord_lt o.m.ord
    have := scope_lt o.m.scope
    have := space_lt o.m.space
    simp only [mcFits]
    omega
  case ldbu o =>
    cases h
    have := ord_lt o.m.ord
    have := scope_lt o.m.scope
    have := space_lt o.m.space
    simp only [mcFits]
    omega
  case ldh o =>
    cases h
    have := ord_lt o.m.ord
    have := scope_lt o.m.scope
    have := space_lt o.m.space
    simp only [mcFits]
    omega
  case ldhu o =>
    cases h
    have := ord_lt o.m.ord
    have := scope_lt o.m.scope
    have := space_lt o.m.space
    simp only [mcFits]
    omega
  case ldw o =>
    cases h
    have := ord_lt o.m.ord
    have := scope_lt o.m.scope
    have := space_lt o.m.space
    simp only [mcFits]
    omega
  case ldwu o =>
    cases h
    have := ord_lt o.m.ord
    have := scope_lt o.m.scope
    have := space_lt o.m.space
    simp only [mcFits]
    omega
  case ldd o =>
    cases h
    have := ord_lt o.m.ord
    have := scope_lt o.m.scope
    have := space_lt o.m.space
    simp only [mcFits]
    omega
  case stb o =>
    cases h
    have := ord_lt o.m.ord
    have := scope_lt o.m.scope
    have := space_lt o.m.space
    simp only [mcFits]
    omega
  case sth o =>
    cases h
    have := ord_lt o.m.ord
    have := scope_lt o.m.scope
    have := space_lt o.m.space
    simp only [mcFits]
    omega
  case stw o =>
    cases h
    have := ord_lt o.m.ord
    have := scope_lt o.m.scope
    have := space_lt o.m.space
    simp only [mcFits]
    omega
  case std o =>
    cases h
    have := ord_lt o.m.ord
    have := scope_lt o.m.scope
    have := space_lt o.m.space
    simp only [mcFits]
    omega
  case ldq q m =>
    cases h
    have := ord_lt m.ord
    have := scope_lt m.scope
    have := space_lt m.space
    simp only [mcFits]
    omega
  case pref l2 xbase xpol disp =>
    cases h
    have := bit_lt l2
    simp only [mcFits]
    omega
  case ldv v m =>
    cases h
    have := ord_lt m.ord
    have := scope_lt m.scope
    have := space_lt m.space
    simp only [mcFits]
    omega
  case stv v m =>
    cases h
    have := ord_lt m.ord
    have := scope_lt m.scope
    have := space_lt m.space
    simp only [mcFits]
    omega
  case ldp p m =>
    cases h
    have := ord_lt m.ord
    have := scope_lt m.scope
    have := space_lt m.space
    simp only [mcFits]
    omega
  case stp p m =>
    cases h
    have := ord_lt m.ord
    have := scope_lt m.scope
    have := space_lt m.space
    simp only [mcFits]
    omega
  case bind wr s m =>
    cases h
    have := ord_lt m.ord
    have := scope_lt m.scope
    have := space_lt m.space
    have := bit_lt wr
    simp only [mcFits]
    omega
  case unbind s =>
    cases h
    simp only [mcFits]
    omega
  case spstat xd s =>
    cases h
    simp only [mcFits]
    omega
  case aadd o =>
    cases h
    have := ord_lt o.m.ord
    have := scope_lt o.m.scope
    have := space_lt o.m.space
    simp only [mcFits]
    omega
  case aand o =>
    cases h
    have := ord_lt o.m.ord
    have := scope_lt o.m.scope
    have := space_lt o.m.space
    simp only [mcFits]
    omega
  case aor o =>
    cases h
    have := ord_lt o.m.ord
    have := scope_lt o.m.scope
    have := space_lt o.m.space
    simp only [mcFits]
    omega
  case axor o =>
    cases h
    have := ord_lt o.m.ord
    have := scope_lt o.m.scope
    have := space_lt o.m.space
    simp only [mcFits]
    omega
  case amin o =>
    cases h
    have := ord_lt o.m.ord
    have := scope_lt o.m.scope
    have := space_lt o.m.space
    simp only [mcFits]
    omega
  case amax o =>
    cases h
    have := ord_lt o.m.ord
    have := scope_lt o.m.scope
    have := space_lt o.m.space
    simp only [mcFits]
    omega
  case aminu o =>
    cases h
    have := ord_lt o.m.ord
    have := scope_lt o.m.scope
    have := space_lt o.m.space
    simp only [mcFits]
    omega
  case amaxu o =>
    cases h
    have := ord_lt o.m.ord
    have := scope_lt o.m.scope
    have := space_lt o.m.space
    simp only [mcFits]
    omega
  case aswap o =>
    cases h
    have := ord_lt o.m.ord
    have := scope_lt o.m.scope
    have := space_lt o.m.space
    simp only [mcFits]
    omega
  case acas o =>
    cases h
    have := ord_lt o.m.ord
    have := scope_lt o.m.scope
    have := space_lt o.m.space
    simp only [mcFits]
    omega
  case afadd o =>
    cases h
    have := ord_lt o.m.ord
    have := scope_lt o.m.scope
    have := space_lt o.m.space
    simp only [mcFits]
    omega
  case afmax o =>
    cases h
    have := ord_lt o.m.ord
    have := scope_lt o.m.scope
    have := space_lt o.m.space
    simp only [mcFits]
    omega
  case fence os =>
    cases h
    have := ord_lt os.ord
    have := scope_lt os.scope
    simp only [mcFits]
    omega
  case syncg scope =>
    cases h
    have := scope_lt scope
    simp only [mcFits]
    omega
  case rcfence =>
    cases h
    simp only [mcFits]
    omega
  case cinv scope xbase xlen disp =>
    cases h
    have := scope_lt scope
    simp only [mcFits]
    omega
  all_goals (cases h; done)

end Sys2Proof.Laws
end

