-- ==== Sys2Proof/Laws/EncScalar.lean ====
section
/-! SUPPORT. Decoding against encoding for SC syllables: the decoder at each opcode, what each
instruction's fields decode to, and that they fit the word. -/

set_option linter.unusedSimpArgs false
set_option linter.unusedVariables false

namespace Sys2Proof.Laws

theorem decSC_00 (xd xa xb low : Nat) :
    decSC ⟨0x00, xd, xa, xb, low⟩ = (need (xd = 0 ∧ xa = 0 ∧ xb = 0 ∧ low = 0) do pure .scNop) := rfl
theorem decSC_01 (xd xa xb low : Nat) :
    decSC ⟨0x01, xd, xa, xb, low⟩ = (decR3 .add ⟨0x01, xd, xa, xb, low⟩) := rfl
theorem decSC_02 (xd xa xb low : Nat) :
    decSC ⟨0x02, xd, xa, xb, low⟩ = (decR3 .sub ⟨0x02, xd, xa, xb, low⟩) := rfl
theorem decSC_03 (xd xa xb low : Nat) :
    decSC ⟨0x03, xd, xa, xb, low⟩ = (decR3 .and ⟨0x03, xd, xa, xb, low⟩) := rfl
theorem decSC_04 (xd xa xb low : Nat) :
    decSC ⟨0x04, xd, xa, xb, low⟩ = (decR3 .or ⟨0x04, xd, xa, xb, low⟩) := rfl
theorem decSC_05 (xd xa xb low : Nat) :
    decSC ⟨0x05, xd, xa, xb, low⟩ = (decR3 .xor ⟨0x05, xd, xa, xb, low⟩) := rfl
theorem decSC_06 (xd xa xb low : Nat) :
    decSC ⟨0x06, xd, xa, xb, low⟩ = (decR3 .andn ⟨0x06, xd, xa, xb, low⟩) := rfl
theorem decSC_07 (xd xa xb low : Nat) :
    decSC ⟨0x07, xd, xa, xb, low⟩ = (decR3 .shl ⟨0x07, xd, xa, xb, low⟩) := rfl
theorem decSC_08 (xd xa xb low : Nat) :
    decSC ⟨0x08, xd, xa, xb, low⟩ = (decR3 .shr ⟨0x08, xd, xa, xb, low⟩) := rfl
theorem decSC_09 (xd xa xb low : Nat) :
    decSC ⟨0x09, xd, xa, xb, low⟩ = (decR3 .sra ⟨0x09, xd, xa, xb, low⟩) := rfl
theorem decSC_0a (xd xa xb low : Nat) :
    decSC ⟨0x0a, xd, xa, xb, low⟩ = (decR3 .rotr ⟨0x0a, xd, xa, xb, low⟩) := rfl
theorem decSC_0b (xd xa xb low : Nat) :
    decSC ⟨0x0b, xd, xa, xb, low⟩ = (decR3 .mul ⟨0x0b, xd, xa, xb, low⟩) := rfl
theorem decSC_0c (xd xa xb low : Nat) :
    decSC ⟨0x0c, xd, xa, xb, low⟩ = (decR3 .mulh ⟨0x0c, xd, xa, xb, low⟩) := rfl
theorem decSC_0d (xd xa xb low : Nat) :
    decSC ⟨0x0d, xd, xa, xb, low⟩ = (decR3 .mulhu ⟨0x0d, xd, xa, xb, low⟩) := rfl
theorem decSC_0e (xd xa xb low : Nat) :
    decSC ⟨0x0e, xd, xa, xb, low⟩ = (decR3 .div ⟨0x0e, xd, xa, xb, low⟩) := rfl
theorem decSC_0f (xd xa xb low : Nat) :
    decSC ⟨0x0f, xd, xa, xb, low⟩ = (decR3 .divu ⟨0x0f, xd, xa, xb, low⟩) := rfl
theorem decSC_10 (xd xa xb low : Nat) :
    decSC ⟨0x10, xd, xa, xb, low⟩ = (decR3 .rem ⟨0x10, xd, xa, xb, low⟩) := rfl
theorem decSC_11 (xd xa xb low : Nat) :
    decSC ⟨0x11, xd, xa, xb, low⟩ = (decR3 .remu ⟨0x11, xd, xa, xb, low⟩) := rfl
theorem decSC_12 (xd xa xb low : Nat) :
    decSC ⟨0x12, xd, xa, xb, low⟩ = (decR3 .min ⟨0x12, xd, xa, xb, low⟩) := rfl
theorem decSC_13 (xd xa xb low : Nat) :
    decSC ⟨0x13, xd, xa, xb, low⟩ = (decR3 .max ⟨0x13, xd, xa, xb, low⟩) := rfl
theorem decSC_14 (xd xa xb low : Nat) :
    decSC ⟨0x14, xd, xa, xb, low⟩ = (decR3 .minu ⟨0x14, xd, xa, xb, low⟩) := rfl
theorem decSC_15 (xd xa xb low : Nat) :
    decSC ⟨0x15, xd, xa, xb, low⟩ = (decR3 .maxu ⟨0x15, xd, xa, xb, low⟩) := rfl
theorem decSC_16 (xd xa xb low : Nat) :
    decSC ⟨0x16, xd, xa, xb, low⟩ = (decR3 .seq ⟨0x16, xd, xa, xb, low⟩) := rfl
theorem decSC_17 (xd xa xb low : Nat) :
    decSC ⟨0x17, xd, xa, xb, low⟩ = (decR3 .sne ⟨0x17, xd, xa, xb, low⟩) := rfl
theorem decSC_18 (xd xa xb low : Nat) :
    decSC ⟨0x18, xd, xa, xb, low⟩ = (decR3 .slt ⟨0x18, xd, xa, xb, low⟩) := rfl
theorem decSC_19 (xd xa xb low : Nat) :
    decSC ⟨0x19, xd, xa, xb, low⟩ = (decR3 .sltu ⟨0x19, xd, xa, xb, low⟩) := rfl
theorem decSC_1a (xd xa xb low : Nat) :
    decSC ⟨0x1a, xd, xa, xb, low⟩ = (need (low % 2 ^ 24 = 0) do pure (.sel ⟨← xr xd, ← xr xa, ← xr xb⟩ (← xr (low / 2 ^ 24)))) := rfl
theorem decSC_1b (xd xa xb low : Nat) :
    decSC ⟨0x1b, xd, xa, xb, low⟩ = (decR2 .clz ⟨0x1b, xd, xa, xb, low⟩) := rfl
theorem decSC_1c (xd xa xb low : Nat) :
    decSC ⟨0x1c, xd, xa, xb, low⟩ = (decR2 .ctz ⟨0x1c, xd, xa, xb, low⟩) := rfl
theorem decSC_1d (xd xa xb low : Nat) :
    decSC ⟨0x1d, xd, xa, xb, low⟩ = (decR2 .popc ⟨0x1d, xd, xa, xb, low⟩) := rfl
theorem decSC_1e (xd xa xb low : Nat) :
    decSC ⟨0x1e, xd, xa, xb, low⟩ = (need (xb = 0) do need (low < 8192) do pure (.bfx ⟨← xr xd, ← xr xa⟩ (low / 4096 == 1) (BitVec.ofNat 6 (low / 64)) (BitVec.ofNat 6 low))) := rfl
theorem decSC_1f (xd xa xb low : Nat) :
    decSC ⟨0x1f, xd, xa, xb, low⟩ = (need (low < 4096) do pure (.bfi ⟨← xr xd, ← xr xa, ← xr xb⟩ (BitVec.ofNat 6 (low / 64)) (BitVec.ofNat 6 low))) := rfl
theorem decSC_20 (xd xa xb low : Nat) :
    decSC ⟨0x20, xd, xa, xb, low⟩ = (decI2 .addi ⟨0x20, xd, xa, xb, low⟩) := rfl
theorem decSC_21 (xd xa xb low : Nat) :
    decSC ⟨0x21, xd, xa, xb, low⟩ = (decI2 .andi ⟨0x21, xd, xa, xb, low⟩) := rfl
theorem decSC_22 (xd xa xb low : Nat) :
    decSC ⟨0x22, xd, xa, xb, low⟩ = (decI2 .ori ⟨0x22, xd, xa, xb, low⟩) := rfl
theorem decSC_23 (xd xa xb low : Nat) :
    decSC ⟨0x23, xd, xa, xb, low⟩ = (decI2 .xori ⟨0x23, xd, xa, xb, low⟩) := rfl
theorem decSC_24 (xd xa xb low : Nat) :
    decSC ⟨0x24, xd, xa, xb, low⟩ = (decSh .shli ⟨0x24, xd, xa, xb, low⟩) := rfl
theorem decSC_25 (xd xa xb low : Nat) :
    decSC ⟨0x25, xd, xa, xb, low⟩ = (decSh .shri ⟨0x25, xd, xa, xb, low⟩) := rfl
theorem decSC_26 (xd xa xb low : Nat) :
    decSC ⟨0x26, xd, xa, xb, low⟩ = (decSh .srai ⟨0x26, xd, xa, xb, low⟩) := rfl
theorem decSC_27 (xd xa xb low : Nat) :
    decSC ⟨0x27, xd, xa, xb, low⟩ = (decI2 .muli ⟨0x27, xd, xa, xb, low⟩) := rfl
theorem decSC_28 (xd xa xb low : Nat) :
    decSC ⟨0x28, xd, xa, xb, low⟩ = (decI2 .slti ⟨0x28, xd, xa, xb, low⟩) := rfl
theorem decSC_29 (xd xa xb low : Nat) :
    decSC ⟨0x29, xd, xa, xb, low⟩ = (decI2 .sltui ⟨0x29, xd, xa, xb, low⟩) := rfl
theorem decSC_2a (xd xa xb low : Nat) :
    decSC ⟨0x2a, xd, xa, xb, low⟩ = (decI2 .seqi ⟨0x2a, xd, xa, xb, low⟩) := rfl
theorem decSC_2b (xd xa xb low : Nat) :
    decSC ⟨0x2b, xd, xa, xb, low⟩ = (need (xa = 0 ∧ xb = 0) do pure (.li (← xr xd) (BitVec.ofNat 30 low))) := rfl
theorem decSC_2c (xd xa xb low : Nat) :
    decSC ⟨0x2c, xd, xa, xb, low⟩ = (decI2 .lic ⟨0x2c, xd, xa, xb, low⟩) := rfl
theorem decSC_2d (xd xa xb low : Nat) :
    decSC ⟨0x2d, xd, xa, xb, low⟩ = (need (xa = 0 ∧ xb = 0) do pure (.addpc (← xr xd) (BitVec.ofNat 30 low))) := rfl
theorem decSC_2e (xd xa xb low : Nat) :
    decSC ⟨0x2e, xd, xa, xb, low⟩ = (do pure (.lea ⟨← xr xd, ← xr xa, ← xr xb⟩ (BitVec.ofNat 3 (low / 2 ^ 27)) (BitVec.ofNat 27 low))) := rfl
theorem decSC_30 (xd xa xb low : Nat) :
    decSC ⟨0x30, xd, xa, xb, low⟩ = (need (xd = 0 ∧ xa = 0 ∧ xb = 0) do pure (.br (BitVec.ofNat 30 low))) := rfl
theorem decSC_31 (xd xa xb low : Nat) :
    decSC ⟨0x31, xd, xa, xb, low⟩ = (need (xd = 0 ∧ xb = 0) do pure (.brz (← xr xa) (BitVec.ofNat 30 low))) := rfl
theorem decSC_32 (xd xa xb low : Nat) :
    decSC ⟨0x32, xd, xa, xb, low⟩ = (need (xd = 0 ∧ xb = 0) do pure (.brnz (← xr xa) (BitVec.ofNat 30 low))) := rfl
theorem decSC_33 (xd xa xb low : Nat) :
    decSC ⟨0x33, xd, xa, xb, low⟩ = (need (xd = 0) do pure (.brlt (← xr xa) (← xr xb) (BitVec.ofNat 30 low))) := rfl
theorem decSC_34 (xd xa xb low : Nat) :
    decSC ⟨0x34, xd, xa, xb, low⟩ = (need (xd = 0) do pure (.brge (← xr xa) (← xr xb) (BitVec.ofNat 30 low))) := rfl
theorem decSC_35 (xd xa xb low : Nat) :
    decSC ⟨0x35, xd, xa, xb, low⟩ = (need (xd = 0) do pure (.brltu (← xr xa) (← xr xb) (BitVec.ofNat 30 low))) := rfl
theorem decSC_36 (xd xa xb low : Nat) :
    decSC ⟨0x36, xd, xa, xb, low⟩ = (need (xd = 0) do pure (.brgeu (← xr xa) (← xr xb) (BitVec.ofNat 30 low))) := rfl
theorem decSC_37 (xd xa xb low : Nat) :
    decSC ⟨0x37, xd, xa, xb, low⟩ = (need (xd = 0 ∧ xb = 0 ∧ low = 0) do pure (.jr (← xr xa))) := rfl
theorem decSC_38 (xd xa xb low : Nat) :
    decSC ⟨0x38, xd, xa, xb, low⟩ = (need (xd = 0 ∧ xa = 0 ∧ xb = 0) do pure (.call (BitVec.ofNat 30 low))) := rfl
theorem decSC_39 (xd xa xb low : Nat) :
    decSC ⟨0x39, xd, xa, xb, low⟩ = (decI2 .brlc ⟨0x39, xd, xa, xb, low⟩) := rfl
theorem decSC_3a (xd xa xb low : Nat) :
    decSC ⟨0x3a, xd, xa, xb, low⟩ = (need (xd = 0 ∧ xb = 0) do pure (.loop (← xr xa) (BitVec.ofNat 30 low))) := rfl
theorem decSC_3b (xd xa xb low : Nat) :
    decSC ⟨0x3b, xd, xa, xb, low⟩ = (need (xd = 0 ∧ xb = 0) do need (low < 2 ^ 19 ∧ low / 2 ^ 10 % 64 = 0) do pure (.loopm (← xr xa) (BitVec.ofNat 3 (low / 2 ^ 16)) (BitVec.ofNat 10 low))) := rfl
theorem decSC_3c (xd xa xb low : Nat) :
    decSC ⟨0x3c, xd, xa, xb, low⟩ = (need (xd = 0 ∧ xa = 0 ∧ xb = 0 ∧ low = 0) do pure .lexit) := rfl
theorem decSC_40 (xd xa xb low : Nat) :
    decSC ⟨0x40, xd, xa, xb, low⟩ = (need (xb = 0 ∧ low = 0) do pure (.qpush (← bv 3 xd) (← xr xa))) := rfl
theorem decSC_41 (xd xa xb low : Nat) :
    decSC ⟨0x41, xd, xa, xb, low⟩ = (need (xb = 0 ∧ low = 0) do pure (.qpop (← xr xd) (← bv 3 xa))) := rfl
theorem decSC_42 (xd xa xb low : Nat) :
    decSC ⟨0x42, xd, xa, xb, low⟩ = (need (xb = 0 ∧ low = 0) do pure (.qpeek (← xr xd) (← bv 3 xa))) := rfl
theorem decSC_43 (xd xa xb low : Nat) :
    decSC ⟨0x43, xd, xa, xb, low⟩ = (need (xb = 0 ∧ low < 32) do pure (.fset (← osOf low) (BitVec.ofNat 6 xd) (← xr xa))) := rfl
theorem decSC_44 (xd xa xb low : Nat) :
    decSC ⟨0x44, xd, xa, xb, low⟩ = (need (low < 32) do pure (.finc (← osOf low) (BitVec.ofNat 6 xd) (← xr xa) (← xr xb))) := rfl
theorem decSC_45 (xd xa xb low : Nat) :
    decSC ⟨0x45, xd, xa, xb, low⟩ = (need (low = 0) do pure (.fwait (← xr xd) (BitVec.ofNat 6 xa) (← xr xb))) := rfl
theorem decSC_46 (xd xa xb low : Nat) :
    decSC ⟨0x46, xd, xa, xb, low⟩ = (need (xd = 0 ∧ xa = 0 ∧ xb = 0 ∧ low = 0) do pure .rdv) := rfl
theorem decSC_47 (xd xa xb low : Nat) :
    decSC ⟨0x47, xd, xa, xb, low⟩ = (need (xd = 0 ∧ xa = 0 ∧ xb = 0) do pure (.safept (← bv 16 low))) := rfl
theorem decSC_48 (xd xa xb low : Nat) :
    decSC ⟨0x48, xd, xa, xb, low⟩ = (need (xb = 0 ∧ low = 0) do pure (.gbar (← xr xd) (← bv 2 xa))) := rfl
theorem decSC_49 (xd xa xb low : Nat) :
    decSC ⟨0x49, xd, xa, xb, low⟩ = (need (low % 2 ^ 24 < 16) do pure (.gred (BitVec.ofNat 4 low) (← xr xd) (← bv 2 xa) (← xr xb) (← xr (low / 2 ^ 24)))) := rfl
theorem decSC_4a (xd xa xb low : Nat) :
    decSC ⟨0x4a, xd, xa, xb, low⟩ = (need (xb = 0 ∧ low = 0) do pure (.gstep (← xr xd) (← bv 2 xa))) := rfl
theorem decSC_4b (xd xa xb low : Nat) :
    decSC ⟨0x4b, xd, xa, xb, low⟩ = (decR3 .launch ⟨0x4b, xd, xa, xb, low⟩) := rfl
theorem decSC_4c (xd xa xb low : Nat) :
    decSC ⟨0x4c, xd, xa, xb, low⟩ = (need (xa = 0 ∧ xb = 0 ∧ low = 0) do pure (.mwait (← xr xd))) := rfl
theorem decSC_50 (xd xa xb low : Nat) :
    decSC ⟨0x50, xd, xa, xb, low⟩ = (need (low = 0) do pure (.fork (← xr xd) (← bv 2 xa) (← xr xb))) := rfl
theorem decSC_51 (xd xa xb low : Nat) :
    decSC ⟨0x51, xd, xa, xb, low⟩ = (decR2 .sreward ⟨0x51, xd, xa, xb, low⟩) := rfl
theorem decSC_52 (xd xa xb low : Nat) :
    decSC ⟨0x52, xd, xa, xb, low⟩ = (need (xb = 0 ∧ low = 0) do pure (.sgwait (← xr xd) (← bv 2 xa))) := rfl
theorem decSC_53 (xd xa xb low : Nat) :
    decSC ⟨0x53, xd, xa, xb, low⟩ = (need (low = 0) do pure (.sgcancel (← xr xd) (← bv 2 xa) (← xr xb))) := rfl
theorem decSC_54 (xd xa xb low : Nat) :
    decSC ⟨0x54, xd, xa, xb, low⟩ = (need (xb = 0) do pure (.sginfo (← xr xd) (← bv 2 xa) (← bv 2 low))) := rfl
theorem decSC_55 (xd xa xb low : Nat) :
    decSC ⟨0x55, xd, xa, xb, low⟩ = (decR2 .tscore ⟨0x55, xd, xa, xb, low⟩) := rfl
theorem decSC_56 (xd xa xb low : Nat) :
    decSC ⟨0x56, xd, xa, xb, low⟩ = (need (xd = 0 ∧ xa = 0 ∧ xb = 0 ∧ low = 0) do pure .tyield) := rfl
theorem decSC_57 (xd xa xb low : Nat) :
    decSC ⟨0x57, xd, xa, xb, low⟩ = (decR2 .tgrow ⟨0x57, xd, xa, xb, low⟩) := rfl
theorem decSC_58 (xd xa xb low : Nat) :
    decSC ⟨0x58, xd, xa, xb, low⟩ = (need (xa = 0 ∧ xb = 0) do pure (.tinfo (← xr xd) (← bv 2 low))) := rfl
theorem decSC_60 (xd xa xb low : Nat) :
    decSC ⟨0x60, xd, xa, xb, low⟩ = (need (xa = 0 ∧ xb = 0 ∧ low = 0) do pure (.klease (← xr xd))) := rfl
theorem decSC_61 (xd xa xb low : Nat) :
    decSC ⟨0x61, xd, xa, xb, low⟩ = (need (xa = 0 ∧ xb = 0 ∧ low = 0) do pure (.krel (← xr xd))) := rfl
theorem decSC_62 (xd xa xb low : Nat) :
    decSC ⟨0x62, xd, xa, xb, low⟩ = (decR2 .kstart ⟨0x62, xd, xa, xb, low⟩) := rfl
theorem decSC_63 (xd xa xb low : Nat) :
    decSC ⟨0x63, xd, xa, xb, low⟩ = (need (low = 0) do pure (.cstart ⟨← xr xd, ← xr xa⟩ (← bv 1 xb))) := rfl
theorem decSC_64 (xd xa xb low : Nat) :
    decSC ⟨0x64, xd, xa, xb, low⟩ = (need (xb = 0 ∧ low = 0) do pure (.estop (← xr xd) (← bv 2 xa))) := rfl
theorem decSC_65 (xd xa xb low : Nat) :
    decSC ⟨0x65, xd, xa, xb, low⟩ = (need (xb = 0 ∧ low = 0) do pure (.estat (← xr xd) (← bv 2 xa))) := rfl
theorem decSC_66 (xd xa xb low : Nat) :
    decSC ⟨0x66, xd, xa, xb, low⟩ = (need (low = 0) do pure (.flueld ⟨← xr xd, ← xr xa⟩ (← bv 3 xb))) := rfl
theorem decSC_70 (xd xa xb low : Nat) :
    decSC ⟨0x70, xd, xa, xb, low⟩ = (need (xa = 0 ∧ xb = 0) do pure (.rds (← xr xd) (← bv 12 low))) := rfl
theorem decSC_71 (xd xa xb low : Nat) :
    decSC ⟨0x71, xd, xa, xb, low⟩ = (need (xd = 0 ∧ xb = 0) do pure (.wrs (← bv 12 low) (← xr xa))) := rfl
theorem decSC_72 (xd xa xb low : Nat) :
    decSC ⟨0x72, xd, xa, xb, low⟩ = (need (xd = 0 ∧ xa = 0 ∧ xb = 0) do pure (.trap (← bv 8 low))) := rfl
theorem decSC_73 (xd xa xb low : Nat) :
    decSC ⟨0x73, xd, xa, xb, low⟩ = (need (xd = 0 ∧ xa = 0 ∧ xb = 0 ∧ low = 0) do pure .resume) := rfl
theorem decSC_74 (xd xa xb low : Nat) :
    decSC ⟨0x74, xd, xa, xb, low⟩ = (need (xd = 0 ∧ xa = 0 ∧ xb = 0 ∧ low = 0) do pure .halt) := rfl
theorem decSC_75 (xd xa xb low : Nat) :
    decSC ⟨0x75, xd, xa, xb, low⟩ = (need (xa = 0 ∧ xb = 0) do pure (.icinv (← xr xd) (← scopeOf low))) := rfl
theorem decSC_76 (xd xa xb low : Nat) :
    decSC ⟨0x76, xd, xa, xb, low⟩ = (decR3 .iclock ⟨0x76, xd, xa, xb, low⟩) := rfl
theorem decSC_77 (xd xa xb low : Nat) :
    decSC ⟨0x77, xd, xa, xb, low⟩ = (need (xd = 0 ∧ low = 0) do pure (.icunlk (← xr xa) (← xr xb))) := rfl
theorem decSC_78 (xd xa xb low : Nat) :
    decSC ⟨0x78, xd, xa, xb, low⟩ = (need (xd = 0 ∧ xa = 0 ∧ xb = 0) do pure (.split (← bv 5 low))) := rfl
theorem decSC_79 (xd xa xb low : Nat) :
    decSC ⟨0x79, xd, xa, xb, low⟩ = (need (xd = 0 ∧ xa = 0 ∧ xb = 0 ∧ low = 0) do pure .genbump) := rfl
theorem decSC_7a (xd xa xb low : Nat) :
    decSC ⟨0x7a, xd, xa, xb, low⟩ = (need (xd = 0 ∧ xa = 0 ∧ xb = 0) do pure (.bkpt (← bv 8 low))) := rfl

theorem rt_scNop :
    decSC ⟨0x00, 0, 0, 0, 0⟩ = some (.scNop) := by
  rw [decSC_00]
  simp [need, xr_toNat, bv_toNat, os_code, ord_code, scope_code]

theorem rt_add (o : R3) :
    decSC ⟨0x01, o.xd.toNat, o.xa.toNat, o.xb.toNat, 0⟩ = some (.add o) := by
  rw [decSC_01]; exact decR3_enc _ _ _

theorem rt_sub (o : R3) :
    decSC ⟨0x02, o.xd.toNat, o.xa.toNat, o.xb.toNat, 0⟩ = some (.sub o) := by
  rw [decSC_02]; exact decR3_enc _ _ _

theorem rt_and (o : R3) :
    decSC ⟨0x03, o.xd.toNat, o.xa.toNat, o.xb.toNat, 0⟩ = some (.and o) := by
  rw [decSC_03]; exact decR3_enc _ _ _

theorem rt_or (o : R3) :
    decSC ⟨0x04, o.xd.toNat, o.xa.toNat, o.xb.toNat, 0⟩ = some (.or o) := by
  rw [decSC_04]; exact decR3_enc _ _ _

theorem rt_xor (o : R3) :
    decSC ⟨0x05, o.xd.toNat, o.xa.toNat, o.xb.toNat, 0⟩ = some (.xor o) := by
  rw [decSC_05]; exact decR3_enc _ _ _

theorem rt_andn (o : R3) :
    decSC ⟨0x06, o.xd.toNat, o.xa.toNat, o.xb.toNat, 0⟩ = some (.andn o) := by
  rw [decSC_06]; exact decR3_enc _ _ _

theorem rt_shl (o : R3) :
    decSC ⟨0x07, o.xd.toNat, o.xa.toNat, o.xb.toNat, 0⟩ = some (.shl o) := by
  rw [decSC_07]; exact decR3_enc _ _ _

theorem rt_shr (o : R3) :
    decSC ⟨0x08, o.xd.toNat, o.xa.toNat, o.xb.toNat, 0⟩ = some (.shr o) := by
  rw [decSC_08]; exact decR3_enc _ _ _

theorem rt_sra (o : R3) :
    decSC ⟨0x09, o.xd.toNat, o.xa.toNat, o.xb.toNat, 0⟩ = some (.sra o) := by
  rw [decSC_09]; exact decR3_enc _ _ _

theorem rt_rotr (o : R3) :
    decSC ⟨0x0a, o.xd.toNat, o.xa.toNat, o.xb.toNat, 0⟩ = some (.rotr o) := by
  rw [decSC_0a]; exact decR3_enc _ _ _

theorem rt_mul (o : R3) :
    decSC ⟨0x0b, o.xd.toNat, o.xa.toNat, o.xb.toNat, 0⟩ = some (.mul o) := by
  rw [decSC_0b]; exact decR3_enc _ _ _

theorem rt_mulh (o : R3) :
    decSC ⟨0x0c, o.xd.toNat, o.xa.toNat, o.xb.toNat, 0⟩ = some (.mulh o) := by
  rw [decSC_0c]; exact decR3_enc _ _ _

theorem rt_mulhu (o : R3) :
    decSC ⟨0x0d, o.xd.toNat, o.xa.toNat, o.xb.toNat, 0⟩ = some (.mulhu o) := by
  rw [decSC_0d]; exact decR3_enc _ _ _

theorem rt_div (o : R3) :
    decSC ⟨0x0e, o.xd.toNat, o.xa.toNat, o.xb.toNat, 0⟩ = some (.div o) := by
  rw [decSC_0e]; exact decR3_enc _ _ _

theorem rt_divu (o : R3) :
    decSC ⟨0x0f, o.xd.toNat, o.xa.toNat, o.xb.toNat, 0⟩ = some (.divu o) := by
  rw [decSC_0f]; exact decR3_enc _ _ _

theorem rt_rem (o : R3) :
    decSC ⟨0x10, o.xd.toNat, o.xa.toNat, o.xb.toNat, 0⟩ = some (.rem o) := by
  rw [decSC_10]; exact decR3_enc _ _ _

theorem rt_remu (o : R3) :
    decSC ⟨0x11, o.xd.toNat, o.xa.toNat, o.xb.toNat, 0⟩ = some (.remu o) := by
  rw [decSC_11]; exact decR3_enc _ _ _

theorem rt_min (o : R3) :
    decSC ⟨0x12, o.xd.toNat, o.xa.toNat, o.xb.toNat, 0⟩ = some (.min o) := by
  rw [decSC_12]; exact decR3_enc _ _ _

theorem rt_max (o : R3) :
    decSC ⟨0x13, o.xd.toNat, o.xa.toNat, o.xb.toNat, 0⟩ = some (.max o) := by
  rw [decSC_13]; exact decR3_enc _ _ _

theorem rt_minu (o : R3) :
    decSC ⟨0x14, o.xd.toNat, o.xa.toNat, o.xb.toNat, 0⟩ = some (.minu o) := by
  rw [decSC_14]; exact decR3_enc _ _ _

theorem rt_maxu (o : R3) :
    decSC ⟨0x15, o.xd.toNat, o.xa.toNat, o.xb.toNat, 0⟩ = some (.maxu o) := by
  rw [decSC_15]; exact decR3_enc _ _ _

theorem rt_seq (o : R3) :
    decSC ⟨0x16, o.xd.toNat, o.xa.toNat, o.xb.toNat, 0⟩ = some (.seq o) := by
  rw [decSC_16]; exact decR3_enc _ _ _

theorem rt_sne (o : R3) :
    decSC ⟨0x17, o.xd.toNat, o.xa.toNat, o.xb.toNat, 0⟩ = some (.sne o) := by
  rw [decSC_17]; exact decR3_enc _ _ _

theorem rt_slt (o : R3) :
    decSC ⟨0x18, o.xd.toNat, o.xa.toNat, o.xb.toNat, 0⟩ = some (.slt o) := by
  rw [decSC_18]; exact decR3_enc _ _ _

theorem rt_sltu (o : R3) :
    decSC ⟨0x19, o.xd.toNat, o.xa.toNat, o.xb.toNat, 0⟩ = some (.sltu o) := by
  rw [decSC_19]; exact decR3_enc _ _ _

theorem rt_sel (o : R3) (xc : XReg) :
    decSC ⟨0x1a, o.xd.toNat, o.xa.toNat, o.xb.toNat, xc.toNat * 2 ^ 24⟩ = some (.sel o xc) := by
  have := xc.isLt
  generalize hl : xc.toNat * 2 ^ 24 = low
  rw [decSC_1a]
  have : low % 2 ^ 24 = 0 := by omega
  have : low / 2 ^ 24 = xc.toNat := by omega
  rw [need, if_pos (by assumption), ‹low / 2 ^ 24 = xc.toNat›]
  simp [xr_toNat]

theorem rt_clz (o : R2) :
    decSC ⟨0x1b, o.xd.toNat, o.xa.toNat, 0, 0⟩ = some (.clz o) := by
  rw [decSC_1b]; exact decR2_enc _ _ _

theorem rt_ctz (o : R2) :
    decSC ⟨0x1c, o.xd.toNat, o.xa.toNat, 0, 0⟩ = some (.ctz o) := by
  rw [decSC_1c]; exact decR2_enc _ _ _

theorem rt_popc (o : R2) :
    decSC ⟨0x1d, o.xd.toNat, o.xa.toNat, 0, 0⟩ = some (.popc o) := by
  rw [decSC_1d]; exact decR2_enc _ _ _

theorem rt_bfx (o : R2) (sx : Bool) (pos : BitVec 6) (len1 : BitVec 6) :
    decSC ⟨0x1e, o.xd.toNat, o.xa.toNat, 0, bit sx * 4096 + pos.toNat * 64 + len1.toNat⟩ = some (.bfx o sx pos len1) := by
  rw [decSC_1e]
  have := pos.isLt
  have := len1.isLt
  cases sx <;> simp [need, xr_toNat, bit] <;> and_intros <;> bv_omega

theorem rt_bfi (o : R3) (pos : BitVec 6) (len1 : BitVec 6) :
    decSC ⟨0x1f, o.xd.toNat, o.xa.toNat, o.xb.toNat, pos.toNat * 64 + len1.toNat⟩ = some (.bfi o pos len1) := by
  rw [decSC_1f]
  have := pos.isLt
  have := len1.isLt
  simp [need, xr_toNat]
  and_intros <;> bv_omega

theorem rt_addi (o : I2) :
    decSC ⟨0x20, o.xd.toNat, o.xa.toNat, 0, o.imm.toNat⟩ = some (.addi o) := by
  rw [decSC_20]; exact decI2_enc _ _ _

theorem rt_andi (o : I2) :
    decSC ⟨0x21, o.xd.toNat, o.xa.toNat, 0, o.imm.toNat⟩ = some (.andi o) := by
  rw [decSC_21]; exact decI2_enc _ _ _

theorem rt_ori (o : I2) :
    decSC ⟨0x22, o.xd.toNat, o.xa.toNat, 0, o.imm.toNat⟩ = some (.ori o) := by
  rw [decSC_22]; exact decI2_enc _ _ _

theorem rt_xori (o : I2) :
    decSC ⟨0x23, o.xd.toNat, o.xa.toNat, 0, o.imm.toNat⟩ = some (.xori o) := by
  rw [decSC_23]; exact decI2_enc _ _ _

theorem rt_shli (o : Sh) :
    decSC ⟨0x24, o.xd.toNat, o.xa.toNat, 0, o.n.toNat⟩ = some (.shli o) := by
  rw [decSC_24]; exact decSh_enc _ _ _

theorem rt_shri (o : Sh) :
    decSC ⟨0x25, o.xd.toNat, o.xa.toNat, 0, o.n.toNat⟩ = some (.shri o) := by
  rw [decSC_25]; exact decSh_enc _ _ _

theorem rt_srai (o : Sh) :
    decSC ⟨0x26, o.xd.toNat, o.xa.toNat, 0, o.n.toNat⟩ = some (.srai o) := by
  rw [decSC_26]; exact decSh_enc _ _ _

theorem rt_muli (o : I2) :
    decSC ⟨0x27, o.xd.toNat, o.xa.toNat, 0, o.imm.toNat⟩ = some (.muli o) := by
  rw [decSC_27]; exact decI2_enc _ _ _

theorem rt_slti (o : I2) :
    decSC ⟨0x28, o.xd.toNat, o.xa.toNat, 0, o.imm.toNat⟩ = some (.slti o) := by
  rw [decSC_28]; exact decI2_enc _ _ _

theorem rt_sltui (o : I2) :
    decSC ⟨0x29, o.xd.toNat, o.xa.toNat, 0, o.imm.toNat⟩ = some (.sltui o) := by
  rw [decSC_29]; exact decI2_enc _ _ _

theorem rt_seqi (o : I2) :
    decSC ⟨0x2a, o.xd.toNat, o.xa.toNat, 0, o.imm.toNat⟩ = some (.seqi o) := by
  rw [decSC_2a]; exact decI2_enc _ _ _

theorem rt_li (xd : XReg) (imm : BitVec 30) :
    decSC ⟨0x2b, xd.toNat, 0, 0, imm.toNat⟩ = some (.li xd imm) := by
  rw [decSC_2b]
  simp [need, xr_toNat, bv_toNat, os_code, ord_code, scope_code]

theorem rt_lic (o : I2) :
    decSC ⟨0x2c, o.xd.toNat, o.xa.toNat, 0, o.imm.toNat⟩ = some (.lic o) := by
  rw [decSC_2c]; exact decI2_enc _ _ _

theorem rt_addpc (xd : XReg) (imm : BitVec 30) :
    decSC ⟨0x2d, xd.toNat, 0, 0, imm.toNat⟩ = some (.addpc xd imm) := by
  rw [decSC_2d]
  simp [need, xr_toNat, bv_toNat, os_code, ord_code, scope_code]

theorem rt_lea (o : R3) (s : BitVec 3) (d : BitVec 27) :
    decSC ⟨0x2e, o.xd.toNat, o.xa.toNat, o.xb.toNat, s.toNat * 2 ^ 27 + d.toNat⟩ = some (.lea o s d) := by
  rw [decSC_2e]
  have := s.isLt
  have := d.isLt
  simp [xr_toNat]
  and_intros <;> bv_omega

theorem rt_br (off : BitVec 30) :
    decSC ⟨0x30, 0, 0, 0, off.toNat⟩ = some (.br off) := by
  rw [decSC_30]
  simp [need, xr_toNat, bv_toNat, os_code, ord_code, scope_code]

theorem rt_brz (xa : XReg) (off : BitVec 30) :
    decSC ⟨0x31, 0, xa.toNat, 0, off.toNat⟩ = some (.brz xa off) := by
  rw [decSC_31]
  simp [need, xr_toNat, bv_toNat, os_code, ord_code, scope_code]

theorem rt_brnz (xa : XReg) (off : BitVec 30) :
    decSC ⟨0x32, 0, xa.toNat, 0, off.toNat⟩ = some (.brnz xa off) := by
  rw [decSC_32]
  simp [need, xr_toNat, bv_toNat, os_code, ord_code, scope_code]

theorem rt_brlt (xa : XReg) (xb : XReg) (off : BitVec 30) :
    decSC ⟨0x33, 0, xa.toNat, xb.toNat, off.toNat⟩ = some (.brlt xa xb off) := by
  rw [decSC_33]
  simp [need, xr_toNat, bv_toNat, os_code, ord_code, scope_code]

theorem rt_brge (xa : XReg) (xb : XReg) (off : BitVec 30) :
    decSC ⟨0x34, 0, xa.toNat, xb.toNat, off.toNat⟩ = some (.brge xa xb off) := by
  rw [decSC_34]
  simp [need, xr_toNat, bv_toNat, os_code, ord_code, scope_code]

theorem rt_brltu (xa : XReg) (xb : XReg) (off : BitVec 30) :
    decSC ⟨0x35, 0, xa.toNat, xb.toNat, off.toNat⟩ = some (.brltu xa xb off) := by
  rw [decSC_35]
  simp [need, xr_toNat, bv_toNat, os_code, ord_code, scope_code]

theorem rt_brgeu (xa : XReg) (xb : XReg) (off : BitVec 30) :
    decSC ⟨0x36, 0, xa.toNat, xb.toNat, off.toNat⟩ = some (.brgeu xa xb off) := by
  rw [decSC_36]
  simp [need, xr_toNat, bv_toNat, os_code, ord_code, scope_code]

theorem rt_jr (xa : XReg) :
    decSC ⟨0x37, 0, xa.toNat, 0, 0⟩ = some (.jr xa) := by
  rw [decSC_37]
  simp [need, xr_toNat, bv_toNat, os_code, ord_code, scope_code]

theorem rt_call (off : BitVec 30) :
    decSC ⟨0x38, 0, 0, 0, off.toNat⟩ = some (.call off) := by
  rw [decSC_38]
  simp [need, xr_toNat, bv_toNat, os_code, ord_code, scope_code]

theorem rt_brlc (o : I2) :
    decSC ⟨0x39, o.xd.toNat, o.xa.toNat, 0, o.imm.toNat⟩ = some (.brlc o) := by
  rw [decSC_39]; exact decI2_enc _ _ _

theorem rt_loop (xa : XReg) (len : BitVec 30) :
    decSC ⟨0x3a, 0, xa.toNat, 0, len.toNat⟩ = some (.loop xa len) := by
  rw [decSC_3a]
  simp [need, xr_toNat, bv_toNat, os_code, ord_code, scope_code]

theorem rt_loopm (xa : XReg) (ns1 : BitVec 3) (ii1 : BitVec 10) :
    decSC ⟨0x3b, 0, xa.toNat, 0, ns1.toNat * 2 ^ 16 + ii1.toNat⟩ = some (.loopm xa ns1 ii1) := by
  have := ns1.isLt
  have := ii1.isLt
  generalize hl : ns1.toNat * 2 ^ 16 + ii1.toNat = low
  rw [decSC_3b]
  have : low < 2 ^ 19 ∧ low / 2 ^ 10 % 64 = 0 := by omega
  have h3 : BitVec.ofNat 3 (low / 2 ^ 16) = ns1 := by bv_omega
  have h10 : BitVec.ofNat 10 low = ii1 := by bv_omega
  rw [need, if_pos (by decide), need, if_pos (by assumption), h3, h10]
  simp [xr_toNat]

theorem rt_lexit :
    decSC ⟨0x3c, 0, 0, 0, 0⟩ = some (.lexit) := by
  rw [decSC_3c]
  simp [need, xr_toNat, bv_toNat, os_code, ord_code, scope_code]

theorem rt_qpush (q : BitVec 3) (xa : XReg) :
    decSC ⟨0x40, q.toNat, xa.toNat, 0, 0⟩ = some (.qpush q xa) := by
  rw [decSC_40]
  simp [need, xr_toNat, bv_toNat, os_code, ord_code, scope_code]

theorem rt_qpop (xd : XReg) (q : BitVec 3) :
    decSC ⟨0x41, xd.toNat, q.toNat, 0, 0⟩ = some (.qpop xd q) := by
  rw [decSC_41]
  simp [need, xr_toNat, bv_toNat, os_code, ord_code, scope_code]

theorem rt_qpeek (xd : XReg) (q : BitVec 3) :
    decSC ⟨0x42, xd.toNat, q.toNat, 0, 0⟩ = some (.qpeek xd q) := by
  rw [decSC_42]
  simp [need, xr_toNat, bv_toNat, os_code, ord_code, scope_code]

theorem rt_fset (os : OS) (f' : BitVec 6) (xa : XReg) :
    decSC ⟨0x43, f'.toNat, xa.toNat, 0, os.code⟩ = some (.fset os f' xa) := by
  have := os_lt os
  rw [decSC_43]
  simp [*, need, xr_toNat, os_code]

theorem rt_finc (os : OS) (f' : BitVec 6) (xa : XReg) (xb : XReg) :
    decSC ⟨0x44, f'.toNat, xa.toNat, xb.toNat, os.code⟩ = some (.finc os f' xa xb) := by
  have := os_lt os
  rw [decSC_44]
  simp [*, need, xr_toNat, os_code]

theorem rt_fwait (xd : XReg) (f' : BitVec 6) (xb : XReg) :
    decSC ⟨0x45, xd.toNat, f'.toNat, xb.toNat, 0⟩ = some (.fwait xd f' xb) := by
  rw [decSC_45]
  simp [need, xr_toNat, bv_toNat, os_code, ord_code, scope_code]

theorem rt_rdv :
    decSC ⟨0x46, 0, 0, 0, 0⟩ = some (.rdv) := by
  rw [decSC_46]
  simp [need, xr_toNat, bv_toNat, os_code, ord_code, scope_code]

theorem rt_safept (idx : BitVec 16) :
    decSC ⟨0x47, 0, 0, 0, idx.toNat⟩ = some (.safept idx) := by
  rw [decSC_47]
  simp [need, xr_toNat, bv_toNat, os_code, ord_code, scope_code]

theorem rt_gbar (xd : XReg) (g : BitVec 2) :
    decSC ⟨0x48, xd.toNat, g.toNat, 0, 0⟩ = some (.gbar xd g) := by
  rw [decSC_48]
  simp [need, xr_toNat, bv_toNat, os_code, ord_code, scope_code]

theorem rt_gred (op : BitVec 4) (xd : XReg) (g : BitVec 2) (xb : XReg) (xc : XReg) :
    decSC ⟨0x49, xd.toNat, g.toNat, xb.toNat, xc.toNat * 2 ^ 24 + op.toNat⟩ = some (.gred op xd g xb xc) := by
  have := xc.isLt
  have := op.isLt
  generalize hl : xc.toNat * 2 ^ 24 + op.toNat = low
  rw [decSC_49]
  have : low % 2 ^ 24 < 16 := by omega
  have : low / 2 ^ 24 = xc.toNat := by omega
  have : low % 16 = op.toNat := by omega
  have ho : BitVec.ofNat 4 low = op := by bv_omega
  rw [need, if_pos (by assumption), ‹low / 2 ^ 24 = xc.toNat›, ho]
  simp [xr_toNat, bv_toNat]

theorem rt_gstep (xd : XReg) (g : BitVec 2) :
    decSC ⟨0x4a, xd.toNat, g.toNat, 0, 0⟩ = some (.gstep xd g) := by
  rw [decSC_4a]
  simp [need, xr_toNat, bv_toNat, os_code, ord_code, scope_code]

theorem rt_launch (o : R3) :
    decSC ⟨0x4b, o.xd.toNat, o.xa.toNat, o.xb.toNat, 0⟩ = some (.launch o) := by
  rw [decSC_4b]; exact decR3_enc _ _ _

theorem rt_mwait (xd : XReg) :
    decSC ⟨0x4c, xd.toNat, 0, 0, 0⟩ = some (.mwait xd) := by
  rw [decSC_4c]
  simp [need, xr_toNat, bv_toNat, os_code, ord_code, scope_code]

theorem rt_fork (xd : XReg) (g : BitVec 2) (xb : XReg) :
    decSC ⟨0x50, xd.toNat, g.toNat, xb.toNat, 0⟩ = some (.fork xd g xb) := by
  rw [decSC_50]
  simp [need, xr_toNat, bv_toNat, os_code, ord_code, scope_code]

theorem rt_sreward (o : R2) :
    decSC ⟨0x51, o.xd.toNat, o.xa.toNat, 0, 0⟩ = some (.sreward o) := by
  rw [decSC_51]; exact decR2_enc _ _ _

theorem rt_sgwait (xd : XReg) (g : BitVec 2) :
    decSC ⟨0x52, xd.toNat, g.toNat, 0, 0⟩ = some (.sgwait xd g) := by
  rw [decSC_52]
  simp [need, xr_toNat, bv_toNat, os_code, ord_code, scope_code]

theorem rt_sgcancel (xd : XReg) (g : BitVec 2) (xb : XReg) :
    decSC ⟨0x53, xd.toNat, g.toNat, xb.toNat, 0⟩ = some (.sgcancel xd g xb) := by
  rw [decSC_53]
  simp [need, xr_toNat, bv_toNat, os_code, ord_code, scope_code]

theorem rt_sginfo (xd : XReg) (g : BitVec 2) (sel : BitVec 2) :
    decSC ⟨0x54, xd.toNat, g.toNat, 0, sel.toNat⟩ = some (.sginfo xd g sel) := by
  rw [decSC_54]
  simp [need, xr_toNat, bv_toNat, os_code, ord_code, scope_code]

theorem rt_tscore (o : R2) :
    decSC ⟨0x55, o.xd.toNat, o.xa.toNat, 0, 0⟩ = some (.tscore o) := by
  rw [decSC_55]; exact decR2_enc _ _ _

theorem rt_tyield :
    decSC ⟨0x56, 0, 0, 0, 0⟩ = some (.tyield) := by
  rw [decSC_56]
  simp [need, xr_toNat, bv_toNat, os_code, ord_code, scope_code]

theorem rt_tgrow (o : R2) :
    decSC ⟨0x57, o.xd.toNat, o.xa.toNat, 0, 0⟩ = some (.tgrow o) := by
  rw [decSC_57]; exact decR2_enc _ _ _

theorem rt_tinfo (xd : XReg) (sel : BitVec 2) :
    decSC ⟨0x58, xd.toNat, 0, 0, sel.toNat⟩ = some (.tinfo xd sel) := by
  rw [decSC_58]
  simp [need, xr_toNat, bv_toNat, os_code, ord_code, scope_code]

theorem rt_klease (xd : XReg) :
    decSC ⟨0x60, xd.toNat, 0, 0, 0⟩ = some (.klease xd) := by
  rw [decSC_60]
  simp [need, xr_toNat, bv_toNat, os_code, ord_code, scope_code]

theorem rt_krel (xd : XReg) :
    decSC ⟨0x61, xd.toNat, 0, 0, 0⟩ = some (.krel xd) := by
  rw [decSC_61]
  simp [need, xr_toNat, bv_toNat, os_code, ord_code, scope_code]

theorem rt_kstart (o : R2) :
    decSC ⟨0x62, o.xd.toNat, o.xa.toNat, 0, 0⟩ = some (.kstart o) := by
  rw [decSC_62]; exact decR2_enc _ _ _

theorem rt_cstart (o : R2) (e : BitVec 1) :
    decSC ⟨0x63, o.xd.toNat, o.xa.toNat, e.toNat, 0⟩ = some (.cstart o e) := by
  rw [decSC_63]
  simp [need, xr_toNat, bv_toNat, os_code, ord_code, scope_code]

theorem rt_estop (xd : XReg) (sel : BitVec 2) :
    decSC ⟨0x64, xd.toNat, sel.toNat, 0, 0⟩ = some (.estop xd sel) := by
  rw [decSC_64]
  simp [need, xr_toNat, bv_toNat, os_code, ord_code, scope_code]

theorem rt_estat (xd : XReg) (sel : BitVec 2) :
    decSC ⟨0x65, xd.toNat, sel.toNat, 0, 0⟩ = some (.estat xd sel) := by
  rw [decSC_65]
  simp [need, xr_toNat, bv_toNat, os_code, ord_code, scope_code]

theorem rt_flueld (o : R2) (slot : BitVec 3) :
    decSC ⟨0x66, o.xd.toNat, o.xa.toNat, slot.toNat, 0⟩ = some (.flueld o slot) := by
  rw [decSC_66]
  simp [need, xr_toNat, bv_toNat, os_code, ord_code, scope_code]

theorem rt_rds (xd : XReg) (n : BitVec 12) :
    decSC ⟨0x70, xd.toNat, 0, 0, n.toNat⟩ = some (.rds xd n) := by
  rw [decSC_70]
  simp [need, xr_toNat, bv_toNat, os_code, ord_code, scope_code]

theorem rt_wrs (n : BitVec 12) (xa : XReg) :
    decSC ⟨0x71, 0, xa.toNat, 0, n.toNat⟩ = some (.wrs n xa) := by
  rw [decSC_71]
  simp [need, xr_toNat, bv_toNat, os_code, ord_code, scope_code]

theorem rt_trap (imm : BitVec 8) :
    decSC ⟨0x72, 0, 0, 0, imm.toNat⟩ = some (.trap imm) := by
  rw [decSC_72]
  simp [need, xr_toNat, bv_toNat, os_code, ord_code, scope_code]

theorem rt_resume :
    decSC ⟨0x73, 0, 0, 0, 0⟩ = some (.resume) := by
  rw [decSC_73]
  simp [need, xr_toNat, bv_toNat, os_code, ord_code, scope_code]

theorem rt_halt :
    decSC ⟨0x74, 0, 0, 0, 0⟩ = some (.halt) := by
  rw [decSC_74]
  simp [need, xr_toNat, bv_toNat, os_code, ord_code, scope_code]

theorem rt_icinv (xd : XReg) (scope : ScopeK) :
    decSC ⟨0x75, xd.toNat, 0, 0, scope.code⟩ = some (.icinv xd scope) := by
  rw [decSC_75]
  simp [need, xr_toNat, bv_toNat, os_code, ord_code, scope_code]

theorem rt_iclock (o : R3) :
    decSC ⟨0x76, o.xd.toNat, o.xa.toNat, o.xb.toNat, 0⟩ = some (.iclock o) := by
  rw [decSC_76]; exact decR3_enc _ _ _

theorem rt_icunlk (xa : XReg) (xb : XReg) :
    decSC ⟨0x77, 0, xa.toNat, xb.toNat, 0⟩ = some (.icunlk xa xb) := by
  rw [decSC_77]
  simp [need, xr_toNat, bv_toNat, os_code, ord_code, scope_code]

theorem rt_split (s : BitVec 5) :
    decSC ⟨0x78, 0, 0, 0, s.toNat⟩ = some (.split s) := by
  rw [decSC_78]
  simp [need, xr_toNat, bv_toNat, os_code, ord_code, scope_code]

theorem rt_genbump :
    decSC ⟨0x79, 0, 0, 0, 0⟩ = some (.genbump) := by
  rw [decSC_79]
  simp [need, xr_toNat, bv_toNat, os_code, ord_code, scope_code]

theorem rt_bkpt (imm : BitVec 8) :
    decSC ⟨0x7a, 0, 0, 0, imm.toNat⟩ = some (.bkpt imm) := by
  rw [decSC_7a]
  simp [need, xr_toNat, bv_toNat, os_code, ord_code, scope_code]

/-- What the SC encoder writes, the decoder reads back. -/
theorem decSC_enc (i : Instr) (f : ScF) (h : encSC i = some f) (hw : i.wf = true) : decSC f = some i := by
  cases i
  case scNop => cases h; exact rt_scNop
  case add o => cases h; exact rt_add _
  case sub o => cases h; exact rt_sub _
  case and o => cases h; exact rt_and _
  case or o => cases h; exact rt_or _
  case xor o => cases h; exact rt_xor _
  case andn o => cases h; exact rt_andn _
  case shl o => cases h; exact rt_shl _
  case shr o => cases h; exact rt_shr _
  case sra o => cases h; exact rt_sra _
  case rotr o => cases h; exact rt_rotr _
  case mul o => cases h; exact rt_mul _
  case mulh o => cases h; exact rt_mulh _
  case mulhu o => cases h; exact rt_mulhu _
  case div o => cases h; exact rt_div _
  case divu o => cases h; exact rt_divu _
  case rem o => cases h; exact rt_rem _
  case remu o => cases h; exact rt_remu _
  case min o => cases h; exact rt_min _
  case max o => cases h; exact rt_max _
  case minu o => cases h; exact rt_minu _
  case maxu o => cases h; exact rt_maxu _
  case seq o => cases h; exact rt_seq _
  case sne o => cases h; exact rt_sne _
  case slt o => cases h; exact rt_slt _
  case sltu o => cases h; exact rt_sltu _
  case sel o xc => cases h; exact rt_sel _ _
  case clz o => cases h; exact rt_clz _
  case ctz o => cases h; exact rt_ctz _
  case popc o => cases h; exact rt_popc _
  case bfx o sx pos len1 => cases h; exact rt_bfx _ _ _ _
  case bfi o pos len1 => cases h; exact rt_bfi _ _ _
  case addi o => cases h; exact rt_addi _
  case andi o => cases h; exact rt_andi _
  case ori o => cases h; exact rt_ori _
  case xori o => cases h; exact rt_xori _
  case shli o => cases h; exact rt_shli _
  case shri o => cases h; exact rt_shri _
  case srai o => cases h; exact rt_srai _
  case muli o => cases h; exact rt_muli _
  case slti o => cases h; exact rt_slti _
  case sltui o => cases h; exact rt_sltui _
  case seqi o => cases h; exact rt_seqi _
  case li xd imm => cases h; exact rt_li _ _
  case lic o => cases h; exact rt_lic _
  case addpc xd imm => cases h; exact rt_addpc _ _
  case lea o s d => cases h; exact rt_lea _ _ _
  case br off => cases h; exact rt_br _
  case brz xa off => cases h; exact rt_brz _ _
  case brnz xa off => cases h; exact rt_brnz _ _
  case brlt xa xb off => cases h; exact rt_brlt _ _ _
  case brge xa xb off => cases h; exact rt_brge _ _ _
  case brltu xa xb off => cases h; exact rt_brltu _ _ _
  case brgeu xa xb off => cases h; exact rt_brgeu _ _ _
  case jr xa => cases h; exact rt_jr _
  case call off => cases h; exact rt_call _
  case brlc o => cases h; exact rt_brlc _
  case loop xa len => cases h; exact rt_loop _ _
  case loopm xa ns1 ii1 => cases h; exact rt_loopm _ _ _
  case lexit => cases h; exact rt_lexit
  case qpush q xa => cases h; exact rt_qpush _ _
  case qpop xd q => cases h; exact rt_qpop _ _
  case qpeek xd q => cases h; exact rt_qpeek _ _
  case fset os f' xa => cases h; exact rt_fset _ _ _
  case finc os f' xa xb => cases h; exact rt_finc _ _ _ _
  case fwait xd f' xb => cases h; exact rt_fwait _ _ _
  case rdv => cases h; exact rt_rdv
  case safept idx => cases h; exact rt_safept _
  case gbar xd g => cases h; exact rt_gbar _ _
  case gred op xd g xb xc => cases h; exact rt_gred _ _ _ _ _
  case gstep xd g => cases h; exact rt_gstep _ _
  case launch o => cases h; exact rt_launch _
  case mwait xd => cases h; exact rt_mwait _
  case fork xd g xb => cases h; exact rt_fork _ _ _
  case sreward o => cases h; exact rt_sreward _
  case sgwait xd g => cases h; exact rt_sgwait _ _
  case sgcancel xd g xb => cases h; exact rt_sgcancel _ _ _
  case sginfo xd g sel => cases h; exact rt_sginfo _ _ _
  case tscore o => cases h; exact rt_tscore _
  case tyield => cases h; exact rt_tyield
  case tgrow o => cases h; exact rt_tgrow _
  case tinfo xd sel => cases h; exact rt_tinfo _ _
  case klease xd => cases h; exact rt_klease _
  case krel xd => cases h; exact rt_krel _
  case kstart o => cases h; exact rt_kstart _
  case cstart o e => cases h; exact rt_cstart _ _
  case estop xd sel => cases h; exact rt_estop _ _
  case estat xd sel => cases h; exact rt_estat _ _
  case flueld o slot => cases h; exact rt_flueld _ _
  case rds xd n => cases h; exact rt_rds _ _
  case wrs n xa => cases h; exact rt_wrs _ _
  case trap imm => cases h; exact rt_trap _
  case resume => cases h; exact rt_resume
  case halt => cases h; exact rt_halt
  case icinv xd scope => cases h; exact rt_icinv _ _
  case iclock o => cases h; exact rt_iclock _
  case icunlk xa xb => cases h; exact rt_icunlk _ _
  case split s => cases h; exact rt_split _
  case genbump => cases h; exact rt_genbump
  case bkpt imm => cases h; exact rt_bkpt _
  all_goals (cases h; done)

theorem encSC_fits (i : Instr) (f : ScF) (h : encSC i = some f) : scFits f := by
  cases i
  case scNop =>
    cases h
    simp only [scFits]
    omega
  case add o =>
    cases h
    simp only [scFits]
    omega
  case sub o =>
    cases h
    simp only [scFits]
    omega
  case and o =>
    cases h
    simp only [scFits]
    omega
  case or o =>
    cases h
    simp only [scFits]
    omega
  case xor o =>
    cases h
    simp only [scFits]
    omega
  case andn o =>
    cases h
    simp only [scFits]
    omega
  case shl o =>
    cases h
    simp only [scFits]
    omega
  case shr o =>
    cases h
    simp only [scFits]
    omega
  case sra o =>
    cases h
    simp only [scFits]
    omega
  case rotr o =>
    cases h
    simp only [scFits]
    omega
  case mul o =>
    cases h
    simp only [scFits]
    omega
  case mulh o =>
    cases h
    simp only [scFits]
    omega
  case mulhu o =>
    cases h
    simp only [scFits]
    omega
  case div o =>
    cases h
    simp only [scFits]
    omega
  case divu o =>
    cases h
    simp only [scFits]
    omega
  case rem o =>
    cases h
    simp only [scFits]
    omega
  case remu o =>
    cases h
    simp only [scFits]
    omega
  case min o =>
    cases h
    simp only [scFits]
    omega
  case max o =>
    cases h
    simp only [scFits]
    omega
  case minu o =>
    cases h
    simp only [scFits]
    omega
  case maxu o =>
    cases h
    simp only [scFits]
    omega
  case seq o =>
    cases h
    simp only [scFits]
    omega
  case sne o =>
    cases h
    simp only [scFits]
    omega
  case slt o =>
    cases h
    simp only [scFits]
    omega
  case sltu o =>
    cases h
    simp only [scFits]
    omega
  case sel o xc =>
    cases h
    simp only [scFits]
    omega
  case clz o =>
    cases h
    simp only [scFits]
    omega
  case ctz o =>
    cases h
    simp only [scFits]
    omega
  case popc o =>
    cases h
    simp only [scFits]
    omega
  case bfx o sx pos len1 =>
    cases h
    have := bit_lt sx
    simp only [scFits]
    omega
  case bfi o pos len1 =>
    cases h
    simp only [scFits]
    omega
  case addi o =>
    cases h
    simp only [scFits]
    omega
  case andi o =>
    cases h
    simp only [scFits]
    omega
  case ori o =>
    cases h
    simp only [scFits]
    omega
  case xori o =>
    cases h
    simp only [scFits]
    omega
  case shli o =>
    cases h
    simp only [scFits]
    omega
  case shri o =>
    cases h
    simp only [scFits]
    omega
  case srai o =>
    cases h
    simp only [scFits]
    omega
  case muli o =>
    cases h
    simp only [scFits]
    omega
  case slti o =>
    cases h
    simp only [scFits]
    omega
  case sltui o =>
    cases h
    simp only [scFits]
    omega
  case seqi o =>
    cases h
    simp only [scFits]
    omega
  case li xd imm =>
    cases h
    simp only [scFits]
    omega
  case lic o =>
    cases h
    simp only [scFits]
    omega
  case addpc xd imm =>
    cases h
    simp only [scFits]
    omega
  case lea o s d =>
    cases h
    simp only [scFits]
    omega
  case br off =>
    cases h
    simp only [scFits]
    omega
  case brz xa off =>
    cases h
    simp only [scFits]
    omega
  case brnz xa off =>
    cases h
    simp only [scFits]
    omega
  case brlt xa xb off =>
    cases h
    simp only [scFits]
    omega
  case brge xa xb off =>
    cases h
    simp only [scFits]
    omega
  case brltu xa xb off =>
    cases h
    simp only [scFits]
    omega
  case brgeu xa xb off =>
    cases h
    simp only [scFits]
    omega
  case jr xa =>
    cases h
    simp only [scFits]
    omega
  case call off =>
    cases h
    simp only [scFits]
    omega
  case brlc o =>
    cases h
    simp only [scFits]
    omega
  case loop xa len =>
    cases h
    simp only [scFits]
    omega
  case loopm xa ns1 ii1 =>
    cases h
    simp only [scFits]
    omega
  case lexit =>
    cases h
    simp only [scFits]
    omega
  case qpush q xa =>
    cases h
    simp only [scFits]
    omega
  case qpop xd q =>
    cases h
    simp only [scFits]
    omega
  case qpeek xd q =>
    cases h
    simp only [scFits]
    omega
  case fset os f' xa =>
    cases h
    have := os_lt os
    simp only [scFits]
    omega
  case finc os f' xa xb =>
    cases h
    have := os_lt os
    simp only [scFits]
    omega
  case fwait xd f' xb =>
    cases h
    simp only [scFits]
    omega
  case rdv =>
    cases h
    simp only [scFits]
    omega
  case safept idx =>
    cases h
    simp only [scFits]
    omega
  case gbar xd g =>
    cases h
    simp only [scFits]
    omega
  case gred op xd g xb xc =>
    cases h
    simp only [scFits]
    omega
  case gstep xd g =>
    cases h
    simp only [scFits]
    omega
  case launch o =>
    cases h
    simp only [scFits]
    omega
  case mwait xd =>
    cases h
    simp only [scFits]
    omega
  case fork xd g xb =>
    cases h
    simp only [scFits]
    omega
  case sreward o =>
    cases h
    simp only [scFits]
    omega
  case sgwait xd g =>
    cases h
    simp only [scFits]
    omega
  case sgcancel xd g xb =>
    cases h
    simp only [scFits]
    omega
  case sginfo xd g sel =>
    cases h
    simp only [scFits]
    omega
  case tscore o =>
    cases h
    simp only [scFits]
    omega
  case tyield =>
    cases h
    simp only [scFits]
    omega
  case tgrow o =>
    cases h
    simp only [scFits]
    omega
  case tinfo xd sel =>
    cases h
    simp only [scFits]
    omega
  case klease xd =>
    cases h
    simp only [scFits]
    omega
  case krel xd =>
    cases h
    simp only [scFits]
    omega
  case kstart o =>
    cases h
    simp only [scFits]
    omega
  case cstart o e =>
    cases h
    simp only [scFits]
    omega
  case estop xd sel =>
    cases h
    simp only [scFits]
    omega
  case estat xd sel =>
    cases h
    simp only [scFits]
    omega
  case flueld o slot =>
    cases h
    simp only [scFits]
    omega
  case rds xd n =>
    cases h
    simp only [scFits]
    omega
  case wrs n xa =>
    cases h
    simp only [scFits]
    omega
  case trap imm =>
    cases h
    simp only [scFits]
    omega
  case resume =>
    cases h
    simp only [scFits]
    omega
  case halt =>
    cases h
    simp only [scFits]
    omega
  case icinv xd scope =>
    cases h
    have := scope_lt scope
    simp only [scFits]
    omega
  case iclock o =>
    cases h
    simp only [scFits]
    omega
  case icunlk xa xb =>
    cases h
    simp only [scFits]
    omega
  case split s =>
    cases h
    simp only [scFits]
    omega
  case genbump =>
    cases h
    simp only [scFits]
    omega
  case bkpt imm =>
    cases h
    simp only [scFits]
    omega
  all_goals (cases h; done)

end Sys2Proof.Laws
end

