-- ==== Sys2Proof/Laws/EncVector.lean ====
section
/-! SUPPORT. Decoding against encoding for VC syllables: the decoder at each opcode, what each
instruction's fields decode to, and that they fit the word. -/

set_option linter.unusedSimpArgs false
set_option linter.unusedVariables false

namespace Sys2Proof.Laws

theorem decVC_00 (d a b c p fmt rnd func : Nat) :
    decVC ⟨0x00, d, a, b, c, p, fmt, rnd, func⟩ = (need (d = 0 ∧ a = 0 ∧ b = 0 ∧ c = 0 ∧ p = 0 ∧ fmt = 0 ∧ rnd = 0 ∧ func = 0) do pure .vnop) := rfl
theorem decVC_01 (d a b c p fmt rnd func : Nat) :
    decVC ⟨0x01, d, a, b, c, p, fmt, rnd, func⟩ = (need (func = 0) do pure (.vadd (← decV ⟨0x01, d, a, b, c, p, fmt, rnd, func⟩))) := rfl
theorem decVC_02 (d a b c p fmt rnd func : Nat) :
    decVC ⟨0x02, d, a, b, c, p, fmt, rnd, func⟩ = (need (func = 0) do pure (.vsub (← decV ⟨0x02, d, a, b, c, p, fmt, rnd, func⟩))) := rfl
theorem decVC_03 (d a b c p fmt rnd func : Nat) :
    decVC ⟨0x03, d, a, b, c, p, fmt, rnd, func⟩ = (need (func = 0) do pure (.vmul (← decV ⟨0x03, d, a, b, c, p, fmt, rnd, func⟩))) := rfl
theorem decVC_04 (d a b c p fmt rnd func : Nat) :
    decVC ⟨0x04, d, a, b, c, p, fmt, rnd, func⟩ = (need (func = 0) do pure (.vfma (← decV ⟨0x04, d, a, b, c, p, fmt, rnd, func⟩))) := rfl
theorem decVC_05 (d a b c p fmt rnd func : Nat) :
    decVC ⟨0x05, d, a, b, c, p, fmt, rnd, func⟩ = (need (func = 0) do pure (.vfms (← decV ⟨0x05, d, a, b, c, p, fmt, rnd, func⟩))) := rfl
theorem decVC_06 (d a b c p fmt rnd func : Nat) :
    decVC ⟨0x06, d, a, b, c, p, fmt, rnd, func⟩ = (need (func = 0) do pure (.vfnma (← decV ⟨0x06, d, a, b, c, p, fmt, rnd, func⟩))) := rfl
theorem decVC_07 (d a b c p fmt rnd func : Nat) :
    decVC ⟨0x07, d, a, b, c, p, fmt, rnd, func⟩ = (need (func = 0) do pure (.vmin (← decV ⟨0x07, d, a, b, c, p, fmt, rnd, func⟩))) := rfl
theorem decVC_08 (d a b c p fmt rnd func : Nat) :
    decVC ⟨0x08, d, a, b, c, p, fmt, rnd, func⟩ = (need (func = 0) do pure (.vmax (← decV ⟨0x08, d, a, b, c, p, fmt, rnd, func⟩))) := rfl
theorem decVC_09 (d a b c p fmt rnd func : Nat) :
    decVC ⟨0x09, d, a, b, c, p, fmt, rnd, func⟩ = (need (func = 0) do pure (.vabs (← decV ⟨0x09, d, a, b, c, p, fmt, rnd, func⟩))) := rfl
theorem decVC_0a (d a b c p fmt rnd func : Nat) :
    decVC ⟨0x0a, d, a, b, c, p, fmt, rnd, func⟩ = (need (func = 0) do pure (.vneg (← decV ⟨0x0a, d, a, b, c, p, fmt, rnd, func⟩))) := rfl
theorem decVC_0b (d a b c p fmt rnd func : Nat) :
    decVC ⟨0x0b, d, a, b, c, p, fmt, rnd, func⟩ = (need (func = 0) do pure (.vdiv (← decV ⟨0x0b, d, a, b, c, p, fmt, rnd, func⟩))) := rfl
theorem decVC_0c (d a b c p fmt rnd func : Nat) :
    decVC ⟨0x0c, d, a, b, c, p, fmt, rnd, func⟩ = (need (func = 0) do pure (.vsqrt (← decV ⟨0x0c, d, a, b, c, p, fmt, rnd, func⟩))) := rfl
theorem decVC_0d (d a b c p fmt rnd func : Nat) :
    decVC ⟨0x0d, d, a, b, c, p, fmt, rnd, func⟩ = (need (func = 0) do pure (.vrcp (← decV ⟨0x0d, d, a, b, c, p, fmt, rnd, func⟩))) := rfl
theorem decVC_0e (d a b c p fmt rnd func : Nat) :
    decVC ⟨0x0e, d, a, b, c, p, fmt, rnd, func⟩ = (need (func = 0) do pure (.vrsq (← decV ⟨0x0e, d, a, b, c, p, fmt, rnd, func⟩))) := rfl
theorem decVC_0f (d a b c p fmt rnd func : Nat) :
    decVC ⟨0x0f, d, a, b, c, p, fmt, rnd, func⟩ = (need (func = 0) do pure (.vexp2 (← decV ⟨0x0f, d, a, b, c, p, fmt, rnd, func⟩))) := rfl
theorem decVC_10 (d a b c p fmt rnd func : Nat) :
    decVC ⟨0x10, d, a, b, c, p, fmt, rnd, func⟩ = (need (func = 0) do pure (.vlog2 (← decV ⟨0x10, d, a, b, c, p, fmt, rnd, func⟩))) := rfl
theorem decVC_11 (d a b c p fmt rnd func : Nat) :
    decVC ⟨0x11, d, a, b, c, p, fmt, rnd, func⟩ = (need (func = 0) do pure (.vtanh (← decV ⟨0x11, d, a, b, c, p, fmt, rnd, func⟩))) := rfl
theorem decVC_12 (d a b c p fmt rnd func : Nat) :
    decVC ⟨0x12, d, a, b, c, p, fmt, rnd, func⟩ = (need (func = 0) do pure (.vsigm (← decV ⟨0x12, d, a, b, c, p, fmt, rnd, func⟩))) := rfl
theorem decVC_13 (d a b c p fmt rnd func : Nat) :
    decVC ⟨0x13, d, a, b, c, p, fmt, rnd, func⟩ = (need (func = 0) do pure (.vrnd (← decV ⟨0x13, d, a, b, c, p, fmt, rnd, func⟩))) := rfl
theorem decVC_14 (d a b c p fmt rnd func : Nat) :
    decVC ⟨0x14, d, a, b, c, p, fmt, rnd, func⟩ = (need (func = 0) do pure (.vclass (← decV ⟨0x14, d, a, b, c, p, fmt, rnd, func⟩))) := rfl
theorem decVC_20 (d a b c p fmt rnd func : Nat) :
    decVC ⟨0x20, d, a, b, c, p, fmt, rnd, func⟩ = (need (func = 0) do pure (.viadd (← decV ⟨0x20, d, a, b, c, p, fmt, rnd, func⟩))) := rfl
theorem decVC_21 (d a b c p fmt rnd func : Nat) :
    decVC ⟨0x21, d, a, b, c, p, fmt, rnd, func⟩ = (need (func = 0) do pure (.visub (← decV ⟨0x21, d, a, b, c, p, fmt, rnd, func⟩))) := rfl
theorem decVC_22 (d a b c p fmt rnd func : Nat) :
    decVC ⟨0x22, d, a, b, c, p, fmt, rnd, func⟩ = (need (func = 0) do pure (.vimul24 (← decV ⟨0x22, d, a, b, c, p, fmt, rnd, func⟩))) := rfl
theorem decVC_23 (d a b c p fmt rnd func : Nat) :
    decVC ⟨0x23, d, a, b, c, p, fmt, rnd, func⟩ = (need (func = 0) do pure (.vimulh24 (← decV ⟨0x23, d, a, b, c, p, fmt, rnd, func⟩))) := rfl
theorem decVC_24 (d a b c p fmt rnd func : Nat) :
    decVC ⟨0x24, d, a, b, c, p, fmt, rnd, func⟩ = (need (func = 0) do pure (.vimul32 (← decV ⟨0x24, d, a, b, c, p, fmt, rnd, func⟩))) := rfl
theorem decVC_25 (d a b c p fmt rnd func : Nat) :
    decVC ⟨0x25, d, a, b, c, p, fmt, rnd, func⟩ = (need (func = 0) do pure (.vimulh32 (← decV ⟨0x25, d, a, b, c, p, fmt, rnd, func⟩))) := rfl
theorem decVC_26 (d a b c p fmt rnd func : Nat) :
    decVC ⟨0x26, d, a, b, c, p, fmt, rnd, func⟩ = (need (func = 0) do pure (.vimac24 (← decV ⟨0x26, d, a, b, c, p, fmt, rnd, func⟩))) := rfl
theorem decVC_27 (d a b c p fmt rnd func : Nat) :
    decVC ⟨0x27, d, a, b, c, p, fmt, rnd, func⟩ = (need (func = 0) do pure (.vimin (← decV ⟨0x27, d, a, b, c, p, fmt, rnd, func⟩))) := rfl
theorem decVC_28 (d a b c p fmt rnd func : Nat) :
    decVC ⟨0x28, d, a, b, c, p, fmt, rnd, func⟩ = (need (func = 0) do pure (.vimax (← decV ⟨0x28, d, a, b, c, p, fmt, rnd, func⟩))) := rfl
theorem decVC_29 (d a b c p fmt rnd func : Nat) :
    decVC ⟨0x29, d, a, b, c, p, fmt, rnd, func⟩ = (need (func = 0) do pure (.viabs (← decV ⟨0x29, d, a, b, c, p, fmt, rnd, func⟩))) := rfl
theorem decVC_2a (d a b c p fmt rnd func : Nat) :
    decVC ⟨0x2a, d, a, b, c, p, fmt, rnd, func⟩ = (need (func = 0) do pure (.vand (← decV ⟨0x2a, d, a, b, c, p, fmt, rnd, func⟩))) := rfl
theorem decVC_2b (d a b c p fmt rnd func : Nat) :
    decVC ⟨0x2b, d, a, b, c, p, fmt, rnd, func⟩ = (need (func = 0) do pure (.vor (← decV ⟨0x2b, d, a, b, c, p, fmt, rnd, func⟩))) := rfl
theorem decVC_2c (d a b c p fmt rnd func : Nat) :
    decVC ⟨0x2c, d, a, b, c, p, fmt, rnd, func⟩ = (need (func = 0) do pure (.vxor (← decV ⟨0x2c, d, a, b, c, p, fmt, rnd, func⟩))) := rfl
theorem decVC_2d (d a b c p fmt rnd func : Nat) :
    decVC ⟨0x2d, d, a, b, c, p, fmt, rnd, func⟩ = (need (func = 0) do pure (.vshl (← decV ⟨0x2d, d, a, b, c, p, fmt, rnd, func⟩))) := rfl
theorem decVC_2e (d a b c p fmt rnd func : Nat) :
    decVC ⟨0x2e, d, a, b, c, p, fmt, rnd, func⟩ = (need (func = 0) do pure (.vshr (← decV ⟨0x2e, d, a, b, c, p, fmt, rnd, func⟩))) := rfl
theorem decVC_2f (d a b c p fmt rnd func : Nat) :
    decVC ⟨0x2f, d, a, b, c, p, fmt, rnd, func⟩ = (need (func = 0) do pure (.vsra (← decV ⟨0x2f, d, a, b, c, p, fmt, rnd, func⟩))) := rfl
theorem decVC_30 (d a b c p fmt rnd func : Nat) :
    decVC ⟨0x30, d, a, b, c, p, fmt, rnd, func⟩ = (need (func = 0) do pure (.vrshr (← decV ⟨0x30, d, a, b, c, p, fmt, rnd, func⟩))) := rfl
theorem decVC_31 (d a b c p fmt rnd func : Nat) :
    decVC ⟨0x31, d, a, b, c, p, fmt, rnd, func⟩ = (do pure (.vsat (← decV ⟨0x31, d, a, b, c, p, fmt, rnd, func⟩) (← fmtOf func))) := rfl
theorem decVC_32 (d a b c p fmt rnd func : Nat) :
    decVC ⟨0x32, d, a, b, c, p, fmt, rnd, func⟩ = (need (func = 0) do pure (.viadds (← decV ⟨0x32, d, a, b, c, p, fmt, rnd, func⟩))) := rfl
theorem decVC_40 (d a b c p fmt rnd func : Nat) :
    decVC ⟨0x40, d, a, b, c, p, fmt, rnd, func⟩ = (need (func < 8) do pure (.vcmp (← bv 4 d) (condOf func) (← decV ⟨0x40, 127, a, b, c, p, fmt, rnd, func⟩))) := rfl
theorem decVC_41 (d a b c p fmt rnd func : Nat) :
    decVC ⟨0x41, d, a, b, c, p, fmt, rnd, func⟩ = (need (func = 0) do pure (.vsel (← decV ⟨0x41, d, a, b, c, p, fmt, rnd, func⟩))) := rfl
theorem decVC_42 (d a b c p fmt rnd func : Nat) :
    decVC ⟨0x42, d, a, b, c, p, fmt, rnd, func⟩ = (need (c = 127 ∧ p = 0 ∧ fmt = 0 ∧ rnd = 0 ∧ func = 0) do pure (.pand (← bv 4 d) (← bv 4 a) (← bv 4 b))) := rfl
theorem decVC_43 (d a b c p fmt rnd func : Nat) :
    decVC ⟨0x43, d, a, b, c, p, fmt, rnd, func⟩ = (need (c = 127 ∧ p = 0 ∧ fmt = 0 ∧ rnd = 0 ∧ func = 0) do pure (.por (← bv 4 d) (← bv 4 a) (← bv 4 b))) := rfl
theorem decVC_44 (d a b c p fmt rnd func : Nat) :
    decVC ⟨0x44, d, a, b, c, p, fmt, rnd, func⟩ = (need (c = 127 ∧ p = 0 ∧ fmt = 0 ∧ rnd = 0 ∧ func = 0) do pure (.pxor (← bv 4 d) (← bv 4 a) (← bv 4 b))) := rfl
theorem decVC_45 (d a b c p fmt rnd func : Nat) :
    decVC ⟨0x45, d, a, b, c, p, fmt, rnd, func⟩ = (need (b = 127 ∧ c = 127 ∧ p = 0 ∧ fmt = 0 ∧ rnd = 0 ∧ func = 0) do pure (.pnot (← bv 4 d) (← bv 4 a))) := rfl
theorem decVC_50 (d a b c p fmt rnd func : Nat) :
    decVC ⟨0x50, d, a, b, c, p, fmt, rnd, func⟩ = (do pure (.vcvt (← decV ⟨0x50, d, a, b, c, p, fmt, rnd, func⟩) (← fmtOf func))) := rfl
theorem decVC_51 (d a b c p fmt rnd func : Nat) :
    decVC ⟨0x51, d, a, b, c, p, fmt, rnd, func⟩ = (do pure (.vpack (← decV ⟨0x51, d, a, b, c, p, fmt, rnd, func⟩) (← fmtOf func))) := rfl
theorem decVC_52 (d a b c p fmt rnd func : Nat) :
    decVC ⟨0x52, d, a, b, c, p, fmt, rnd, func⟩ = (need (func < 32) do pure (.vunpk (← decV ⟨0x52, d, a, b, c, p, fmt, rnd, func⟩) (func / 16 == 1) (← fmtOf (func % 16)))) := rfl
theorem decVC_53 (d a b c p fmt rnd func : Nat) :
    decVC ⟨0x53, d, a, b, c, p, fmt, rnd, func⟩ = (do pure (.vqmx (← decV ⟨0x53, d, a, b, c, p, fmt, rnd, func⟩) (← fmtOf func))) := rfl
theorem decVC_54 (d a b c p fmt rnd func : Nat) :
    decVC ⟨0x54, d, a, b, c, p, fmt, rnd, func⟩ = (do pure (.vdqmx (← decV ⟨0x54, d, a, b, c, p, fmt, rnd, func⟩) (← fmtOf func))) := rfl
theorem decVC_60 (d a b c p fmt rnd func : Nat) :
    decVC ⟨0x60, d, a, b, c, p, fmt, rnd, func⟩ = (need (func = 0) do pure (.vmov (← decV ⟨0x60, d, a, b, c, p, fmt, rnd, func⟩))) := rfl
theorem decVC_61 (d a b c p fmt rnd func : Nat) :
    decVC ⟨0x61, d, a, b, c, p, fmt, rnd, func⟩ = (need (func % 256 < 64) do pure (.vbrd (← decV ⟨0x61, d, a, b, c, p, fmt, rnd, func⟩) (func / 256 == 1) (BitVec.ofNat 6 func))) := rfl
theorem decVC_62 (d a b c p fmt rnd func : Nat) :
    decVC ⟨0x62, d, a, b, c, p, fmt, rnd, func⟩ = (do pure (.vredr (← decV ⟨0x62, d, a, b, c, p, fmt, rnd, func⟩) (← redOf func))) := rfl
theorem decVC_63 (d a b c p fmt rnd func : Nat) :
    decVC ⟨0x63, d, a, b, c, p, fmt, rnd, func⟩ = (do pure (.vredc (← decV ⟨0x63, d, a, b, c, p, fmt, rnd, func⟩) (← redOf func))) := rfl
theorem decVC_64 (d a b c p fmt rnd func : Nat) :
    decVC ⟨0x64, d, a, b, c, p, fmt, rnd, func⟩ = (need (func = 0) do pure (.vtrn (← decV ⟨0x64, d, a, b, c, p, fmt, rnd, func⟩))) := rfl
theorem decVC_65 (d a b c p fmt rnd func : Nat) :
    decVC ⟨0x65, d, a, b, c, p, fmt, rnd, func⟩ = (do pure (.vrotc (← decV ⟨0x65, d, a, b, c, p, fmt, rnd, func⟩) (← bv 9 func))) := rfl
theorem decVC_66 (d a b c p fmt rnd func : Nat) :
    decVC ⟨0x66, d, a, b, c, p, fmt, rnd, func⟩ = (do pure (.vshc (← decV ⟨0x66, d, a, b, c, p, fmt, rnd, func⟩) (← bv 9 func))) := rfl
theorem decVC_67 (d a b c p fmt rnd func : Nat) :
    decVC ⟨0x67, d, a, b, c, p, fmt, rnd, func⟩ = (need (func = 0) do pure (.vgath (← decV ⟨0x67, d, a, b, c, p, fmt, rnd, func⟩))) := rfl
theorem decVC_68 (d a b c p fmt rnd func : Nat) :
    decVC ⟨0x68, d, a, b, c, p, fmt, rnd, func⟩ = (need (d = 127 ∧ b = 127 ∧ c = 127 ∧ p = 0 ∧ fmt = 0 ∧ rnd = 0 ∧ func = 0 ∧ 96 ≤ a ∧ a ≤ 126) do pure (.vsetsh (BitVec.ofNat 5 (a - 95)))) := rfl
theorem decVC_69 (d a b c p fmt rnd func : Nat) :
    decVC ⟨0x69, d, a, b, c, p, fmt, rnd, func⟩ = (need (func = 0) do pure (.viota (← decV ⟨0x69, d, a, b, c, p, fmt, rnd, func⟩))) := rfl

theorem rt_vnop (h : (Instr.vnop).wf = true) :
    decVC ⟨0x00, 0, 0, 0, 0, 0, 0, 0, 0⟩ = some (.vnop) := by
  rw [decVC_00]
  simp [need, xr_toNat, bv_toNat, os_code, ord_code, scope_code]

theorem rt_vadd (o : VOp) (h : (Instr.vadd o).wf = true) :
    decVC ⟨0x01, o.d.code, o.a.code, o.b.code, o.c.code, o.p.toNat, o.fmt.code, o.rnd.code, 0⟩ = some (.vadd o) := by
  rw [decVC_01]
  replace h : VOp.ok _ _ _ _ _ = true := h
  rw [decV_enc _ _ _ _ _ _ _ h (ok_fmt h rfl)]
  rfl

theorem rt_vsub (o : VOp) (h : (Instr.vsub o).wf = true) :
    decVC ⟨0x02, o.d.code, o.a.code, o.b.code, o.c.code, o.p.toNat, o.fmt.code, o.rnd.code, 0⟩ = some (.vsub o) := by
  rw [decVC_02]
  replace h : VOp.ok _ _ _ _ _ = true := h
  rw [decV_enc _ _ _ _ _ _ _ h (ok_fmt h rfl)]
  rfl

theorem rt_vmul (o : VOp) (h : (Instr.vmul o).wf = true) :
    decVC ⟨0x03, o.d.code, o.a.code, o.b.code, o.c.code, o.p.toNat, o.fmt.code, o.rnd.code, 0⟩ = some (.vmul o) := by
  rw [decVC_03]
  replace h : VOp.ok _ _ _ _ _ = true := h
  rw [decV_enc _ _ _ _ _ _ _ h (ok_fmt h rfl)]
  rfl

theorem rt_vfma (o : VOp) (h : (Instr.vfma o).wf = true) :
    decVC ⟨0x04, o.d.code, o.a.code, o.b.code, o.c.code, o.p.toNat, o.fmt.code, o.rnd.code, 0⟩ = some (.vfma o) := by
  rw [decVC_04]
  replace h : VOp.ok _ _ _ _ _ = true := h
  rw [decV_enc _ _ _ _ _ _ _ h (ok_fmt h rfl)]
  rfl

theorem rt_vfms (o : VOp) (h : (Instr.vfms o).wf = true) :
    decVC ⟨0x05, o.d.code, o.a.code, o.b.code, o.c.code, o.p.toNat, o.fmt.code, o.rnd.code, 0⟩ = some (.vfms o) := by
  rw [decVC_05]
  replace h : VOp.ok _ _ _ _ _ = true := h
  rw [decV_enc _ _ _ _ _ _ _ h (ok_fmt h rfl)]
  rfl

theorem rt_vfnma (o : VOp) (h : (Instr.vfnma o).wf = true) :
    decVC ⟨0x06, o.d.code, o.a.code, o.b.code, o.c.code, o.p.toNat, o.fmt.code, o.rnd.code, 0⟩ = some (.vfnma o) := by
  rw [decVC_06]
  replace h : VOp.ok _ _ _ _ _ = true := h
  rw [decV_enc _ _ _ _ _ _ _ h (ok_fmt h rfl)]
  rfl

theorem rt_vmin (o : VOp) (h : (Instr.vmin o).wf = true) :
    decVC ⟨0x07, o.d.code, o.a.code, o.b.code, o.c.code, o.p.toNat, o.fmt.code, o.rnd.code, 0⟩ = some (.vmin o) := by
  rw [decVC_07]
  replace h : VOp.ok _ _ _ _ _ = true := h
  rw [decV_enc _ _ _ _ _ _ _ h (ok_fmt h rfl)]
  rfl

theorem rt_vmax (o : VOp) (h : (Instr.vmax o).wf = true) :
    decVC ⟨0x08, o.d.code, o.a.code, o.b.code, o.c.code, o.p.toNat, o.fmt.code, o.rnd.code, 0⟩ = some (.vmax o) := by
  rw [decVC_08]
  replace h : VOp.ok _ _ _ _ _ = true := h
  rw [decV_enc _ _ _ _ _ _ _ h (ok_fmt h rfl)]
  rfl

theorem rt_vabs (o : VOp) (h : (Instr.vabs o).wf = true) :
    decVC ⟨0x09, o.d.code, o.a.code, o.b.code, o.c.code, o.p.toNat, o.fmt.code, o.rnd.code, 0⟩ = some (.vabs o) := by
  rw [decVC_09]
  replace h : VOp.ok _ _ _ _ _ = true := h
  rw [decV_enc _ _ _ _ _ _ _ h (ok_fmt h rfl)]
  rfl

theorem rt_vneg (o : VOp) (h : (Instr.vneg o).wf = true) :
    decVC ⟨0x0a, o.d.code, o.a.code, o.b.code, o.c.code, o.p.toNat, o.fmt.code, o.rnd.code, 0⟩ = some (.vneg o) := by
  rw [decVC_0a]
  replace h : VOp.ok _ _ _ _ _ = true := h
  rw [decV_enc _ _ _ _ _ _ _ h (ok_fmt h rfl)]
  rfl

theorem rt_vdiv (o : VOp) (h : (Instr.vdiv o).wf = true) :
    decVC ⟨0x0b, o.d.code, o.a.code, o.b.code, o.c.code, o.p.toNat, o.fmt.code, o.rnd.code, 0⟩ = some (.vdiv o) := by
  rw [decVC_0b]
  replace h : VOp.ok _ _ _ _ _ = true := h
  rw [decV_enc _ _ _ _ _ _ _ h (ok_fmt h rfl)]
  rfl

theorem rt_vsqrt (o : VOp) (h : (Instr.vsqrt o).wf = true) :
    decVC ⟨0x0c, o.d.code, o.a.code, o.b.code, o.c.code, o.p.toNat, o.fmt.code, o.rnd.code, 0⟩ = some (.vsqrt o) := by
  rw [decVC_0c]
  replace h : VOp.ok _ _ _ _ _ = true := h
  rw [decV_enc _ _ _ _ _ _ _ h (ok_fmt h rfl)]
  rfl

theorem rt_vrcp (o : VOp) (h : (Instr.vrcp o).wf = true) :
    decVC ⟨0x0d, o.d.code, o.a.code, o.b.code, o.c.code, o.p.toNat, o.fmt.code, o.rnd.code, 0⟩ = some (.vrcp o) := by
  rw [decVC_0d]
  replace h : VOp.ok _ _ _ _ _ = true := h
  rw [decV_enc _ _ _ _ _ _ _ h (ok_fmt h rfl)]
  rfl

theorem rt_vrsq (o : VOp) (h : (Instr.vrsq o).wf = true) :
    decVC ⟨0x0e, o.d.code, o.a.code, o.b.code, o.c.code, o.p.toNat, o.fmt.code, o.rnd.code, 0⟩ = some (.vrsq o) := by
  rw [decVC_0e]
  replace h : VOp.ok _ _ _ _ _ = true := h
  rw [decV_enc _ _ _ _ _ _ _ h (ok_fmt h rfl)]
  rfl

theorem rt_vexp2 (o : VOp) (h : (Instr.vexp2 o).wf = true) :
    decVC ⟨0x0f, o.d.code, o.a.code, o.b.code, o.c.code, o.p.toNat, o.fmt.code, o.rnd.code, 0⟩ = some (.vexp2 o) := by
  rw [decVC_0f]
  replace h : VOp.ok _ _ _ _ _ = true := h
  rw [decV_enc _ _ _ _ _ _ _ h (ok_fmt h rfl)]
  rfl

theorem rt_vlog2 (o : VOp) (h : (Instr.vlog2 o).wf = true) :
    decVC ⟨0x10, o.d.code, o.a.code, o.b.code, o.c.code, o.p.toNat, o.fmt.code, o.rnd.code, 0⟩ = some (.vlog2 o) := by
  rw [decVC_10]
  replace h : VOp.ok _ _ _ _ _ = true := h
  rw [decV_enc _ _ _ _ _ _ _ h (ok_fmt h rfl)]
  rfl

theorem rt_vtanh (o : VOp) (h : (Instr.vtanh o).wf = true) :
    decVC ⟨0x11, o.d.code, o.a.code, o.b.code, o.c.code, o.p.toNat, o.fmt.code, o.rnd.code, 0⟩ = some (.vtanh o) := by
  rw [decVC_11]
  replace h : VOp.ok _ _ _ _ _ = true := h
  rw [decV_enc _ _ _ _ _ _ _ h (ok_fmt h rfl)]
  rfl

theorem rt_vsigm (o : VOp) (h : (Instr.vsigm o).wf = true) :
    decVC ⟨0x12, o.d.code, o.a.code, o.b.code, o.c.code, o.p.toNat, o.fmt.code, o.rnd.code, 0⟩ = some (.vsigm o) := by
  rw [decVC_12]
  replace h : VOp.ok _ _ _ _ _ = true := h
  rw [decV_enc _ _ _ _ _ _ _ h (ok_fmt h rfl)]
  rfl

theorem rt_vrnd (o : VOp) (h : (Instr.vrnd o).wf = true) :
    decVC ⟨0x13, o.d.code, o.a.code, o.b.code, o.c.code, o.p.toNat, o.fmt.code, o.rnd.code, 0⟩ = some (.vrnd o) := by
  rw [decVC_13]
  replace h : VOp.ok _ _ _ _ _ = true := h
  rw [decV_enc _ _ _ _ _ _ _ h (ok_fmt h rfl)]
  rfl

theorem rt_vclass (o : VOp) (h : (Instr.vclass o).wf = true) :
    decVC ⟨0x14, o.d.code, o.a.code, o.b.code, o.c.code, o.p.toNat, o.fmt.code, o.rnd.code, 0⟩ = some (.vclass o) := by
  rw [decVC_14]
  replace h : VOp.ok _ _ _ _ _ = true := h
  rw [decV_enc _ _ _ _ _ _ _ h (ok_fmt h rfl)]
  rfl

theorem rt_viadd (o : VOp) (h : (Instr.viadd o).wf = true) :
    decVC ⟨0x20, o.d.code, o.a.code, o.b.code, o.c.code, o.p.toNat, o.fmt.code, o.rnd.code, 0⟩ = some (.viadd o) := by
  rw [decVC_20]
  replace h : VOp.ok _ _ _ _ _ = true := h
  rw [decV_enc _ _ _ _ _ _ _ h (ok_fmt h rfl)]
  rfl

theorem rt_visub (o : VOp) (h : (Instr.visub o).wf = true) :
    decVC ⟨0x21, o.d.code, o.a.code, o.b.code, o.c.code, o.p.toNat, o.fmt.code, o.rnd.code, 0⟩ = some (.visub o) := by
  rw [decVC_21]
  replace h : VOp.ok _ _ _ _ _ = true := h
  rw [decV_enc _ _ _ _ _ _ _ h (ok_fmt h rfl)]
  rfl

theorem rt_vimul24 (o : VOp) (h : (Instr.vimul24 o).wf = true) :
    decVC ⟨0x22, o.d.code, o.a.code, o.b.code, o.c.code, o.p.toNat, o.fmt.code, o.rnd.code, 0⟩ = some (.vimul24 o) := by
  rw [decVC_22]
  replace h : VOp.ok _ _ _ _ _ = true := h
  rw [decV_enc _ _ _ _ _ _ _ h (ok_fmt h rfl)]
  rfl

theorem rt_vimulh24 (o : VOp) (h : (Instr.vimulh24 o).wf = true) :
    decVC ⟨0x23, o.d.code, o.a.code, o.b.code, o.c.code, o.p.toNat, o.fmt.code, o.rnd.code, 0⟩ = some (.vimulh24 o) := by
  rw [decVC_23]
  replace h : VOp.ok _ _ _ _ _ = true := h
  rw [decV_enc _ _ _ _ _ _ _ h (ok_fmt h rfl)]
  rfl

theorem rt_vimul32 (o : VOp) (h : (Instr.vimul32 o).wf = true) :
    decVC ⟨0x24, o.d.code, o.a.code, o.b.code, o.c.code, o.p.toNat, o.fmt.code, o.rnd.code, 0⟩ = some (.vimul32 o) := by
  rw [decVC_24]
  replace h : o.ok 2 (fun f => f == .int32 || f == .uint32) noRnd true = true := h
  rw [decV_enc _ _ _ _ _ _ _ h (ok_fmt h rfl)]
  rfl

theorem rt_vimulh32 (o : VOp) (h : (Instr.vimulh32 o).wf = true) :
    decVC ⟨0x25, o.d.code, o.a.code, o.b.code, o.c.code, o.p.toNat, o.fmt.code, o.rnd.code, 0⟩ = some (.vimulh32 o) := by
  rw [decVC_25]
  replace h : o.ok 2 (fun f => f == .int32 || f == .uint32) noRnd true = true := h
  rw [decV_enc _ _ _ _ _ _ _ h (ok_fmt h rfl)]
  rfl

theorem rt_vimac24 (o : VOp) (h : (Instr.vimac24 o).wf = true) :
    decVC ⟨0x26, o.d.code, o.a.code, o.b.code, o.c.code, o.p.toNat, o.fmt.code, o.rnd.code, 0⟩ = some (.vimac24 o) := by
  rw [decVC_26]
  replace h : VOp.ok _ _ _ _ _ = true := h
  rw [decV_enc _ _ _ _ _ _ _ h (ok_fmt h rfl)]
  rfl

theorem rt_vimin (o : VOp) (h : (Instr.vimin o).wf = true) :
    decVC ⟨0x27, o.d.code, o.a.code, o.b.code, o.c.code, o.p.toNat, o.fmt.code, o.rnd.code, 0⟩ = some (.vimin o) := by
  rw [decVC_27]
  replace h : VOp.ok _ _ _ _ _ = true := h
  rw [decV_enc _ _ _ _ _ _ _ h (ok_fmt h rfl)]
  rfl

theorem rt_vimax (o : VOp) (h : (Instr.vimax o).wf = true) :
    decVC ⟨0x28, o.d.code, o.a.code, o.b.code, o.c.code, o.p.toNat, o.fmt.code, o.rnd.code, 0⟩ = some (.vimax o) := by
  rw [decVC_28]
  replace h : VOp.ok _ _ _ _ _ = true := h
  rw [decV_enc _ _ _ _ _ _ _ h (ok_fmt h rfl)]
  rfl

theorem rt_viabs (o : VOp) (h : (Instr.viabs o).wf = true) :
    decVC ⟨0x29, o.d.code, o.a.code, o.b.code, o.c.code, o.p.toNat, o.fmt.code, o.rnd.code, 0⟩ = some (.viabs o) := by
  rw [decVC_29]
  replace h : VOp.ok _ _ _ _ _ = true := h
  rw [decV_enc _ _ _ _ _ _ _ h (ok_fmt h rfl)]
  rfl

theorem rt_vand (o : VOp) (h : (Instr.vand o).wf = true) :
    decVC ⟨0x2a, o.d.code, o.a.code, o.b.code, o.c.code, o.p.toNat, o.fmt.code, o.rnd.code, 0⟩ = some (.vand o) := by
  rw [decVC_2a]
  replace h : VOp.ok _ _ _ _ _ = true := h
  rw [decV_enc _ _ _ _ _ _ _ h (ok_fmt h rfl)]
  rfl

theorem rt_vor (o : VOp) (h : (Instr.vor o).wf = true) :
    decVC ⟨0x2b, o.d.code, o.a.code, o.b.code, o.c.code, o.p.toNat, o.fmt.code, o.rnd.code, 0⟩ = some (.vor o) := by
  rw [decVC_2b]
  replace h : VOp.ok _ _ _ _ _ = true := h
  rw [decV_enc _ _ _ _ _ _ _ h (ok_fmt h rfl)]
  rfl

theorem rt_vxor (o : VOp) (h : (Instr.vxor o).wf = true) :
    decVC ⟨0x2c, o.d.code, o.a.code, o.b.code, o.c.code, o.p.toNat, o.fmt.code, o.rnd.code, 0⟩ = some (.vxor o) := by
  rw [decVC_2c]
  replace h : VOp.ok _ _ _ _ _ = true := h
  rw [decV_enc _ _ _ _ _ _ _ h (ok_fmt h rfl)]
  rfl

theorem rt_vshl (o : VOp) (h : (Instr.vshl o).wf = true) :
    decVC ⟨0x2d, o.d.code, o.a.code, o.b.code, o.c.code, o.p.toNat, o.fmt.code, o.rnd.code, 0⟩ = some (.vshl o) := by
  rw [decVC_2d]
  replace h : VOp.ok _ _ _ _ _ = true := h
  rw [decV_enc _ _ _ _ _ _ _ h (ok_fmt h rfl)]
  rfl

theorem rt_vshr (o : VOp) (h : (Instr.vshr o).wf = true) :
    decVC ⟨0x2e, o.d.code, o.a.code, o.b.code, o.c.code, o.p.toNat, o.fmt.code, o.rnd.code, 0⟩ = some (.vshr o) := by
  rw [decVC_2e]
  replace h : VOp.ok _ _ _ _ _ = true := h
  rw [decV_enc _ _ _ _ _ _ _ h (ok_fmt h rfl)]
  rfl

theorem rt_vsra (o : VOp) (h : (Instr.vsra o).wf = true) :
    decVC ⟨0x2f, o.d.code, o.a.code, o.b.code, o.c.code, o.p.toNat, o.fmt.code, o.rnd.code, 0⟩ = some (.vsra o) := by
  rw [decVC_2f]
  replace h : VOp.ok _ _ _ _ _ = true := h
  rw [decV_enc _ _ _ _ _ _ _ h (ok_fmt h rfl)]
  rfl

theorem rt_vrshr (o : VOp) (h : (Instr.vrshr o).wf = true) :
    decVC ⟨0x30, o.d.code, o.a.code, o.b.code, o.c.code, o.p.toNat, o.fmt.code, o.rnd.code, 0⟩ = some (.vrshr o) := by
  rw [decVC_30]
  replace h : VOp.ok _ _ _ _ _ = true := h
  rw [decV_enc _ _ _ _ _ _ _ h (ok_fmt h rfl)]
  rfl

theorem rt_vsat (o : VOp) (t : Fmt) (h : (Instr.vsat o t).wf = true) :
    decVC ⟨0x31, o.d.code, o.a.code, o.b.code, o.c.code, o.p.toNat, o.fmt.code, o.rnd.code, t.code⟩ = some (.vsat o t) := by
  replace h : (_ && _) = true := h
  simp only [Bool.and_eq_true] at h
  rw [decVC_31]
  rw [decV_enc _ _ _ _ _ _ _ h.1 (ok_fmt (h.1) rfl), fmt_code _ (by rintro h'; simp [h', Fmt.isFP, Fmt.isInt, Fmt.isMX, anyFmt] at h)]
  rfl

theorem rt_viadds (o : VOp) (h : (Instr.viadds o).wf = true) :
    decVC ⟨0x32, o.d.code, o.a.code, o.b.code, o.c.code, o.p.toNat, o.fmt.code, o.rnd.code, 0⟩ = some (.viadds o) := by
  rw [decVC_32]
  replace h : VOp.ok _ _ _ _ _ = true := h
  rw [decV_enc _ _ _ _ _ _ _ h (ok_fmt h rfl)]
  rfl

theorem rt_vcmp (pd : BitVec 4) (cond : CondK) (o : VOp) (h : (Instr.vcmp pd cond o).wf = true) :
    decVC ⟨0x40, pd.toNat, o.a.code, o.b.code, o.c.code, o.p.toNat, o.fmt.code, o.rnd.code, cond.code⟩ = some (.vcmp pd cond o) := by
  replace h : (_ && _) = true := h
  simp only [Bool.and_eq_true] at h
  have hd : o.d = .none := by simpa using h.2
  have := cond_lt cond
  have hv := decV_enc 0x40 cond.code o _ _ _ _ h.1.1 (ok_fmt h.1.1 rfl)
  rw [hd] at hv
  rw [decVC_40]
  simp only [VDst.code] at hv
  rw [hv]
  simp [*, need, bv_toNat, cond_code]

theorem rt_vsel (o : VOp) (h : (Instr.vsel o).wf = true) :
    decVC ⟨0x41, o.d.code, o.a.code, o.b.code, o.c.code, o.p.toNat, o.fmt.code, o.rnd.code, 0⟩ = some (.vsel o) := by
  rw [decVC_41]
  replace h : VOp.ok _ _ _ _ _ = true := h
  rw [decV_enc _ _ _ _ _ _ _ h (ok_fmt h rfl)]
  rfl

theorem rt_pand (pd : BitVec 4) (pa : BitVec 4) (pb : BitVec 4) (h : (Instr.pand pd pa pb).wf = true) :
    decVC ⟨0x42, pd.toNat, pa.toNat, pb.toNat, 127, 0, 0, 0, 0⟩ = some (.pand pd pa pb) := by
  rw [decVC_42]
  simp [need, xr_toNat, bv_toNat, os_code, ord_code, scope_code]

theorem rt_por (pd : BitVec 4) (pa : BitVec 4) (pb : BitVec 4) (h : (Instr.por pd pa pb).wf = true) :
    decVC ⟨0x43, pd.toNat, pa.toNat, pb.toNat, 127, 0, 0, 0, 0⟩ = some (.por pd pa pb) := by
  rw [decVC_43]
  simp [need, xr_toNat, bv_toNat, os_code, ord_code, scope_code]

theorem rt_pxor (pd : BitVec 4) (pa : BitVec 4) (pb : BitVec 4) (h : (Instr.pxor pd pa pb).wf = true) :
    decVC ⟨0x44, pd.toNat, pa.toNat, pb.toNat, 127, 0, 0, 0, 0⟩ = some (.pxor pd pa pb) := by
  rw [decVC_44]
  simp [need, xr_toNat, bv_toNat, os_code, ord_code, scope_code]

theorem rt_pnot (pd : BitVec 4) (pa : BitVec 4) (h : (Instr.pnot pd pa).wf = true) :
    decVC ⟨0x45, pd.toNat, pa.toNat, 127, 127, 0, 0, 0, 0⟩ = some (.pnot pd pa) := by
  rw [decVC_45]
  simp [need, xr_toNat, bv_toNat, os_code, ord_code, scope_code]

theorem rt_vcvt (o : VOp) (t : Fmt) (h : (Instr.vcvt o t).wf = true) :
    decVC ⟨0x50, o.d.code, o.a.code, o.b.code, o.c.code, o.p.toNat, o.fmt.code, o.rnd.code, t.code⟩ = some (.vcvt o t) := by
  replace h : (_ && _) = true := h
  simp only [Bool.and_eq_true] at h
  rw [decVC_50]
  rw [decV_enc _ _ _ _ _ _ _ h.1 (ok_fmt (h.1) rfl), fmt_code _ (by rintro h'; simp [h', Fmt.isFP, Fmt.isInt, Fmt.isMX, anyFmt] at h)]
  rfl

theorem rt_vpack (o : VOp) (t : Fmt) (h : (Instr.vpack o t).wf = true) :
    decVC ⟨0x51, o.d.code, o.a.code, o.b.code, o.c.code, o.p.toNat, o.fmt.code, o.rnd.code, t.code⟩ = some (.vpack o t) := by
  replace h : (_ && _) = true := h
  simp only [Bool.and_eq_true] at h
  rw [decVC_51]
  rw [decV_enc _ _ _ _ _ _ _ h.1.1 (ok_fmt (h.1.1) rfl), fmt_code _ (by rintro h'; simp [h', Fmt.isFP, Fmt.isInt, Fmt.isMX, anyFmt] at h)]
  rfl

theorem rt_vunpk (o : VOp) (hi : Bool) (t : Fmt) (h : (Instr.vunpk o hi t).wf = true) :
    decVC ⟨0x52, o.d.code, o.a.code, o.b.code, o.c.code, o.p.toNat, o.fmt.code, o.rnd.code, bit hi * 16 + t.code⟩ = some (.vunpk o hi t) := by
  replace h : (_ && _) = true := h
  simp only [Bool.and_eq_true] at h
  have ht := fmt_code t (by rintro h'; simp [h', Fmt.isFP, Fmt.isInt, Fmt.isMX, anyFmt] at h)
  have := fmt_lt t
  have hh := hi_lo 16 (bit hi) t.code this
  rw [decVC_52]
  rw [decV_enc _ _ _ _ _ _ _ h.1.1 (ok_fmt h.1.1 rfl), hh.1, hh.2, ht]
  have := bit_lt hi
  cases hi <;> simp_all [need, bit] <;> omega

theorem rt_vqmx (o : VOp) (t : Fmt) (h : (Instr.vqmx o t).wf = true) :
    decVC ⟨0x53, o.d.code, o.a.code, o.b.code, o.c.code, o.p.toNat, o.fmt.code, o.rnd.code, t.code⟩ = some (.vqmx o t) := by
  replace h : (_ && _) = true := h
  simp only [Bool.and_eq_true] at h
  rw [decVC_53]
  rw [decV_enc _ _ _ _ _ _ _ h.1.1 (ok_fmt (h.1.1) rfl), fmt_code _ (by rintro h'; simp [h', Fmt.isFP, Fmt.isInt, Fmt.isMX, anyFmt] at h)]
  rfl

theorem rt_vdqmx (o : VOp) (t : Fmt) (h : (Instr.vdqmx o t).wf = true) :
    decVC ⟨0x54, o.d.code, o.a.code, o.b.code, o.c.code, o.p.toNat, o.fmt.code, o.rnd.code, t.code⟩ = some (.vdqmx o t) := by
  replace h : (_ && _) = true := h
  simp only [Bool.and_eq_true] at h
  rw [decVC_54]
  rw [decV_enc _ _ _ _ _ _ _ h.1 (ok_fmt (h.1) rfl), fmt_code _ (by rintro h'; simp [h', Fmt.isFP, Fmt.isInt, Fmt.isMX, anyFmt] at h)]
  rfl

theorem rt_vmov (o : VOp) (h : (Instr.vmov o).wf = true) :
    decVC ⟨0x60, o.d.code, o.a.code, o.b.code, o.c.code, o.p.toNat, o.fmt.code, o.rnd.code, 0⟩ = some (.vmov o) := by
  rw [decVC_60]
  replace h : VOp.ok _ _ _ _ _ = true := h
  rw [decV_enc _ _ _ _ _ _ _ h (ok_fmt h rfl)]
  rfl

theorem rt_vbrd (o : VOp) (col : Bool) (k : BitVec 6) (h : (Instr.vbrd o col k).wf = true) :
    decVC ⟨0x61, o.d.code, o.a.code, o.b.code, o.c.code, o.p.toNat, o.fmt.code, o.rnd.code, bit col * 256 + k.toNat⟩ = some (.vbrd o col k) := by
  have := k.isLt
  replace h : VOp.ok _ _ _ _ _ = true := h
  rw [decVC_61]
  rw [decV_enc _ _ _ _ _ _ _ h (ok_fmt h rfl)]
  cases col <;> simp [need, bit] <;> and_intros <;> bv_omega

theorem rt_vredr (o : VOp) (op : RedK) (h : (Instr.vredr o op).wf = true) :
    decVC ⟨0x62, o.d.code, o.a.code, o.b.code, o.c.code, o.p.toNat, o.fmt.code, o.rnd.code, op.code⟩ = some (.vredr o op) := by
  replace h : o.redOk op = true := h
  rw [VOp.redOk] at h
  rw [decVC_62]
  rw [decV_enc _ _ _ _ _ _ _ h (ok_fmt h rfl), red_code]
  rfl

theorem rt_vredc (o : VOp) (op : RedK) (h : (Instr.vredc o op).wf = true) :
    decVC ⟨0x63, o.d.code, o.a.code, o.b.code, o.c.code, o.p.toNat, o.fmt.code, o.rnd.code, op.code⟩ = some (.vredc o op) := by
  replace h : o.redOk op = true := h
  rw [VOp.redOk] at h
  rw [decVC_63]
  rw [decV_enc _ _ _ _ _ _ _ h (ok_fmt h rfl), red_code]
  rfl

theorem rt_vtrn (o : VOp) (h : (Instr.vtrn o).wf = true) :
    decVC ⟨0x64, o.d.code, o.a.code, o.b.code, o.c.code, o.p.toNat, o.fmt.code, o.rnd.code, 0⟩ = some (.vtrn o) := by
  rw [decVC_64]
  replace h : VOp.ok _ _ _ _ _ = true := h
  rw [decV_enc _ _ _ _ _ _ _ h (ok_fmt h rfl)]
  rfl

theorem rt_vrotc (o : VOp) (k : BitVec 9) (h : (Instr.vrotc o k).wf = true) :
    decVC ⟨0x65, o.d.code, o.a.code, o.b.code, o.c.code, o.p.toNat, o.fmt.code, o.rnd.code, k.toNat⟩ = some (.vrotc o k) := by
  replace h : VOp.ok _ _ _ _ _ = true := h
  rw [decVC_65]
  rw [decV_enc _ _ _ _ _ _ _ h (ok_fmt h rfl), bv_toNat]
  rfl

theorem rt_vshc (o : VOp) (k : BitVec 9) (h : (Instr.vshc o k).wf = true) :
    decVC ⟨0x66, o.d.code, o.a.code, o.b.code, o.c.code, o.p.toNat, o.fmt.code, o.rnd.code, k.toNat⟩ = some (.vshc o k) := by
  replace h : VOp.ok _ _ _ _ _ = true := h
  rw [decVC_66]
  rw [decV_enc _ _ _ _ _ _ _ h (ok_fmt h rfl), bv_toNat]
  rfl

theorem rt_vgath (o : VOp) (h : (Instr.vgath o).wf = true) :
    decVC ⟨0x67, o.d.code, o.a.code, o.b.code, o.c.code, o.p.toNat, o.fmt.code, o.rnd.code, 0⟩ = some (.vgath o) := by
  rw [decVC_67]
  replace h : VOp.ok _ _ _ _ _ = true := h
  rw [decV_enc _ _ _ _ _ _ _ h (ok_fmt h rfl)]
  rfl

theorem rt_vsetsh (x : XReg) (h : (Instr.vsetsh x).wf = true) :
    decVC ⟨0x68, 127, 95 + x.toNat, 127, 127, 0, 0, 0, 0⟩ = some (.vsetsh x) := by
  have := x.isLt
  have hx : x.toNat ≠ 0 := by
    intro h0
    have : x = 0 := BitVec.eq_of_toNat_eq h0
    subst this
    exact absurd h (by decide)
  rw [decVC_68]
  simp [need]
  omega

theorem rt_viota (o : VOp) (h : (Instr.viota o).wf = true) :
    decVC ⟨0x69, o.d.code, o.a.code, o.b.code, o.c.code, o.p.toNat, o.fmt.code, o.rnd.code, 0⟩ = some (.viota o) := by
  rw [decVC_69]
  replace h : VOp.ok _ _ _ _ _ = true := h
  rw [decV_enc _ _ _ _ _ _ _ h (ok_fmt h rfl)]
  rfl

/-- What the VC encoder writes, the decoder reads back. -/
theorem decVC_enc (i : Instr) (f : VcF) (h : encVC i = some f) (hw : i.wf = true) : decVC f = some i := by
  cases i
  case vnop => cases h; exact rt_vnop hw
  case vadd o => cases h; exact rt_vadd _ hw
  case vsub o => cases h; exact rt_vsub _ hw
  case vmul o => cases h; exact rt_vmul _ hw
  case vfma o => cases h; exact rt_vfma _ hw
  case vfms o => cases h; exact rt_vfms _ hw
  case vfnma o => cases h; exact rt_vfnma _ hw
  case vmin o => cases h; exact rt_vmin _ hw
  case vmax o => cases h; exact rt_vmax _ hw
  case vabs o => cases h; exact rt_vabs _ hw
  case vneg o => cases h; exact rt_vneg _ hw
  case vdiv o => cases h; exact rt_vdiv _ hw
  case vsqrt o => cases h; exact rt_vsqrt _ hw
  case vrcp o => cases h; exact rt_vrcp _ hw
  case vrsq o => cases h; exact rt_vrsq _ hw
  case vexp2 o => cases h; exact rt_vexp2 _ hw
  case vlog2 o => cases h; exact rt_vlog2 _ hw
  case vtanh o => cases h; exact rt_vtanh _ hw
  case vsigm o => cases h; exact rt_vsigm _ hw
  case vrnd o => cases h; exact rt_vrnd _ hw
  case vclass o => cases h; exact rt_vclass _ hw
  case viadd o => cases h; exact rt_viadd _ hw
  case visub o => cases h; exact rt_visub _ hw
  case vimul24 o => cases h; exact rt_vimul24 _ hw
  case vimulh24 o => cases h; exact rt_vimulh24 _ hw
  case vimul32 o => cases h; exact rt_vimul32 _ hw
  case vimulh32 o => cases h; exact rt_vimulh32 _ hw
  case vimac24 o => cases h; exact rt_vimac24 _ hw
  case vimin o => cases h; exact rt_vimin _ hw
  case vimax o => cases h; exact rt_vimax _ hw
  case viabs o => cases h; exact rt_viabs _ hw
  case vand o => cases h; exact rt_vand _ hw
  case vor o => cases h; exact rt_vor _ hw
  case vxor o => cases h; exact rt_vxor _ hw
  case vshl o => cases h; exact rt_vshl _ hw
  case vshr o => cases h; exact rt_vshr _ hw
  case vsra o => cases h; exact rt_vsra _ hw
  case vrshr o => cases h; exact rt_vrshr _ hw
  case vsat o t => cases h; exact rt_vsat _ _ hw
  case viadds o => cases h; exact rt_viadds _ hw
  case vcmp pd cond o => cases h; exact rt_vcmp _ _ _ hw
  case vsel o => cases h; exact rt_vsel _ hw
  case pand pd pa pb => cases h; exact rt_pand _ _ _ hw
  case por pd pa pb => cases h; exact rt_por _ _ _ hw
  case pxor pd pa pb => cases h; exact rt_pxor _ _ _ hw
  case pnot pd pa => cases h; exact rt_pnot _ _ hw
  case vcvt o t => cases h; exact rt_vcvt _ _ hw
  case vpack o t => cases h; exact rt_vpack _ _ hw
  case vunpk o hi t => cases h; exact rt_vunpk _ _ _ hw
  case vqmx o t => cases h; exact rt_vqmx _ _ hw
  case vdqmx o t => cases h; exact rt_vdqmx _ _ hw
  case vmov o => cases h; exact rt_vmov _ hw
  case vbrd o col k => cases h; exact rt_vbrd _ _ _ hw
  case vredr o op => cases h; exact rt_vredr _ _ hw
  case vredc o op => cases h; exact rt_vredc _ _ hw
  case vtrn o => cases h; exact rt_vtrn _ hw
  case vrotc o k => cases h; exact rt_vrotc _ _ hw
  case vshc o k => cases h; exact rt_vshc _ _ hw
  case vgath o => cases h; exact rt_vgath _ hw
  case vsetsh x => cases h; exact rt_vsetsh _ hw
  case viota o => cases h; exact rt_viota _ hw
  all_goals (cases h; done)

theorem encVC_fits (i : Instr) (f : VcF) (h : encVC i = some f) : vcFits f := by
  cases i
  case vnop =>
    cases h
    simp only [vcFits]
    omega
  case vadd o =>
    cases h
    have := dst_lt o.d
    have := src_lt o.a
    have := src_lt o.b
    have := src_lt o.c
    have := fmt_lt o.fmt
    have := rnd_lt o.rnd
    simp only [vcFits]
    omega
  case vsub o =>
    cases h
    have := dst_lt o.d
    have := src_lt o.a
    have := src_lt o.b
    have := src_lt o.c
    have := fmt_lt o.fmt
    have := rnd_lt o.rnd
    simp only [vcFits]
    omega
  case vmul o =>
    cases h
    have := dst_lt o.d
    have := src_lt o.a
    have := src_lt o.b
    have := src_lt o.c
    have := fmt_lt o.fmt
    have := rnd_lt o.rnd
    simp only [vcFits]
    omega
  case vfma o =>
    cases h
    have := dst_lt o.d
    have := src_lt o.a
    have := src_lt o.b
    have := src_lt o.c
    have := fmt_lt o.fmt
    have := rnd_lt o.rnd
    simp only [vcFits]
    omega
  case vfms o =>
    cases h
    have := dst_lt o.d
    have := src_lt o.a
    have := src_lt o.b
    have := src_lt o.c
    have := fmt_lt o.fmt
    have := rnd_lt o.rnd
    simp only [vcFits]
    omega
  case vfnma o =>
    cases h
    have := dst_lt o.d
    have := src_lt o.a
    have := src_lt o.b
    have := src_lt o.c
    have := fmt_lt o.fmt
    have := rnd_lt o.rnd
    simp only [vcFits]
    omega
  case vmin o =>
    cases h
    have := dst_lt o.d
    have := src_lt o.a
    have := src_lt o.b
    have := src_lt o.c
    have := fmt_lt o.fmt
    have := rnd_lt o.rnd
    simp only [vcFits]
    omega
  case vmax o =>
    cases h
    have := dst_lt o.d
    have := src_lt o.a
    have := src_lt o.b
    have := src_lt o.c
    have := fmt_lt o.fmt
    have := rnd_lt o.rnd
    simp only [vcFits]
    omega
  case vabs o =>
    cases h
    have := dst_lt o.d
    have := src_lt o.a
    have := src_lt o.b
    have := src_lt o.c
    have := fmt_lt o.fmt
    have := rnd_lt o.rnd
    simp only [vcFits]
    omega
  case vneg o =>
    cases h
    have := dst_lt o.d
    have := src_lt o.a
    have := src_lt o.b
    have := src_lt o.c
    have := fmt_lt o.fmt
    have := rnd_lt o.rnd
    simp only [vcFits]
    omega
  case vdiv o =>
    cases h
    have := dst_lt o.d
    have := src_lt o.a
    have := src_lt o.b
    have := src_lt o.c
    have := fmt_lt o.fmt
    have := rnd_lt o.rnd
    simp only [vcFits]
    omega
  case vsqrt o =>
    cases h
    have := dst_lt o.d
    have := src_lt o.a
    have := src_lt o.b
    have := src_lt o.c
    have := fmt_lt o.fmt
    have := rnd_lt o.rnd
    simp only [vcFits]
    omega
  case vrcp o =>
    cases h
    have := dst_lt o.d
    have := src_lt o.a
    have := src_lt o.b
    have := src_lt o.c
    have := fmt_lt o.fmt
    have := rnd_lt o.rnd
    simp only [vcFits]
    omega
  case vrsq o =>
    cases h
    have := dst_lt o.d
    have := src_lt o.a
    have := src_lt o.b
    have := src_lt o.c
    have := fmt_lt o.fmt
    have := rnd_lt o.rnd
    simp only [vcFits]
    omega
  case vexp2 o =>
    cases h
    have := dst_lt o.d
    have := src_lt o.a
    have := src_lt o.b
    have := src_lt o.c
    have := fmt_lt o.fmt
    have := rnd_lt o.rnd
    simp only [vcFits]
    omega
  case vlog2 o =>
    cases h
    have := dst_lt o.d
    have := src_lt o.a
    have := src_lt o.b
    have := src_lt o.c
    have := fmt_lt o.fmt
    have := rnd_lt o.rnd
    simp only [vcFits]
    omega
  case vtanh o =>
    cases h
    have := dst_lt o.d
    have := src_lt o.a
    have := src_lt o.b
    have := src_lt o.c
    have := fmt_lt o.fmt
    have := rnd_lt o.rnd
    simp only [vcFits]
    omega
  case vsigm o =>
    cases h
    have := dst_lt o.d
    have := src_lt o.a
    have := src_lt o.b
    have := src_lt o.c
    have := fmt_lt o.fmt
    have := rnd_lt o.rnd
    simp only [vcFits]
    omega
  case vrnd o =>
    cases h
    have := dst_lt o.d
    have := src_lt o.a
    have := src_lt o.b
    have := src_lt o.c
    have := fmt_lt o.fmt
    have := rnd_lt o.rnd
    simp only [vcFits]
    omega
  case vclass o =>
    cases h
    have := dst_lt o.d
    have := src_lt o.a
    have := src_lt o.b
    have := src_lt o.c
    have := fmt_lt o.fmt
    have := rnd_lt o.rnd
    simp only [vcFits]
    omega
  case viadd o =>
    cases h
    have := dst_lt o.d
    have := src_lt o.a
    have := src_lt o.b
    have := src_lt o.c
    have := fmt_lt o.fmt
    have := rnd_lt o.rnd
    simp only [vcFits]
    omega
  case visub o =>
    cases h
    have := dst_lt o.d
    have := src_lt o.a
    have := src_lt o.b
    have := src_lt o.c
    have := fmt_lt o.fmt
    have := rnd_lt o.rnd
    simp only [vcFits]
    omega
  case vimul24 o =>
    cases h
    have := dst_lt o.d
    have := src_lt o.a
    have := src_lt o.b
    have := src_lt o.c
    have := fmt_lt o.fmt
    have := rnd_lt o.rnd
    simp only [vcFits]
    omega
  case vimulh24 o =>
    cases h
    have := dst_lt o.d
    have := src_lt o.a
    have := src_lt o.b
    have := src_lt o.c
    have := fmt_lt o.fmt
    have := rnd_lt o.rnd
    simp only [vcFits]
    omega
  case vimul32 o =>
    cases h
    have := dst_lt o.d
    have := src_lt o.a
    have := src_lt o.b
    have := src_lt o.c
    have := fmt_lt o.fmt
    have := rnd_lt o.rnd
    simp only [vcFits]
    omega
  case vimulh32 o =>
    cases h
    have := dst_lt o.d
    have := src_lt o.a
    have := src_lt o.b
    have := src_lt o.c
    have := fmt_lt o.fmt
    have := rnd_lt o.rnd
    simp only [vcFits]
    omega
  case vimac24 o =>
    cases h
    have := dst_lt o.d
    have := src_lt o.a
    have := src_lt o.b
    have := src_lt o.c
    have := fmt_lt o.fmt
    have := rnd_lt o.rnd
    simp only [vcFits]
    omega
  case vimin o =>
    cases h
    have := dst_lt o.d
    have := src_lt o.a
    have := src_lt o.b
    have := src_lt o.c
    have := fmt_lt o.fmt
    have := rnd_lt o.rnd
    simp only [vcFits]
    omega
  case vimax o =>
    cases h
    have := dst_lt o.d
    have := src_lt o.a
    have := src_lt o.b
    have := src_lt o.c
    have := fmt_lt o.fmt
    have := rnd_lt o.rnd
    simp only [vcFits]
    omega
  case viabs o =>
    cases h
    have := dst_lt o.d
    have := src_lt o.a
    have := src_lt o.b
    have := src_lt o.c
    have := fmt_lt o.fmt
    have := rnd_lt o.rnd
    simp only [vcFits]
    omega
  case vand o =>
    cases h
    have := dst_lt o.d
    have := src_lt o.a
    have := src_lt o.b
    have := src_lt o.c
    have := fmt_lt o.fmt
    have := rnd_lt o.rnd
    simp only [vcFits]
    omega
  case vor o =>
    cases h
    have := dst_lt o.d
    have := src_lt o.a
    have := src_lt o.b
    have := src_lt o.c
    have := fmt_lt o.fmt
    have := rnd_lt o.rnd
    simp only [vcFits]
    omega
  case vxor o =>
    cases h
    have := dst_lt o.d
    have := src_lt o.a
    have := src_lt o.b
    have := src_lt o.c
    have := fmt_lt o.fmt
    have := rnd_lt o.rnd
    simp only [vcFits]
    omega
  case vshl o =>
    cases h
    have := dst_lt o.d
    have := src_lt o.a
    have := src_lt o.b
    have := src_lt o.c
    have := fmt_lt o.fmt
    have := rnd_lt o.rnd
    simp only [vcFits]
    omega
  case vshr o =>
    cases h
    have := dst_lt o.d
    have := src_lt o.a
    have := src_lt o.b
    have := src_lt o.c
    have := fmt_lt o.fmt
    have := rnd_lt o.rnd
    simp only [vcFits]
    omega
  case vsra o =>
    cases h
    have := dst_lt o.d
    have := src_lt o.a
    have := src_lt o.b
    have := src_lt o.c
    have := fmt_lt o.fmt
    have := rnd_lt o.rnd
    simp only [vcFits]
    omega
  case vrshr o =>
    cases h
    have := dst_lt o.d
    have := src_lt o.a
    have := src_lt o.b
    have := src_lt o.c
    have := fmt_lt o.fmt
    have := rnd_lt o.rnd
    simp only [vcFits]
    omega
  case vsat o t =>
    cases h
    have := dst_lt o.d
    have := src_lt o.a
    have := src_lt o.b
    have := src_lt o.c
    have := fmt_lt o.fmt
    have := rnd_lt o.rnd
    have := fmt_lt t
    simp only [vcFits]
    omega
  case viadds o =>
    cases h
    have := dst_lt o.d
    have := src_lt o.a
    have := src_lt o.b
    have := src_lt o.c
    have := fmt_lt o.fmt
    have := rnd_lt o.rnd
    simp only [vcFits]
    omega
  case vcmp pd cond o =>
    cases h
    have := src_lt o.a
    have := src_lt o.b
    have := src_lt o.c
    have := fmt_lt o.fmt
    have := rnd_lt o.rnd
    have := cond_lt cond
    simp only [vcFits]
    omega
  case vsel o =>
    cases h
    have := dst_lt o.d
    have := src_lt o.a
    have := src_lt o.b
    have := src_lt o.c
    have := fmt_lt o.fmt
    have := rnd_lt o.rnd
    simp only [vcFits]
    omega
  case pand pd pa pb =>
    cases h
    simp only [vcFits]
    omega
  case por pd pa pb =>
    cases h
    simp only [vcFits]
    omega
  case pxor pd pa pb =>
    cases h
    simp only [vcFits]
    omega
  case pnot pd pa =>
    cases h
    simp only [vcFits]
    omega
  case vcvt o t =>
    cases h
    have := dst_lt o.d
    have := src_lt o.a
    have := src_lt o.b
    have := src_lt o.c
    have := fmt_lt o.fmt
    have := rnd_lt o.rnd
    have := fmt_lt t
    simp only [vcFits]
    omega
  case vpack o t =>
    cases h
    have := dst_lt o.d
    have := src_lt o.a
    have := src_lt o.b
    have := src_lt o.c
    have := fmt_lt o.fmt
    have := rnd_lt o.rnd
    have := fmt_lt t
    simp only [vcFits]
    omega
  case vunpk o hi t =>
    cases h
    have := dst_lt o.d
    have := src_lt o.a
    have := src_lt o.b
    have := src_lt o.c
    have := fmt_lt o.fmt
    have := rnd_lt o.rnd
    have := fmt_lt t
    have := bit_lt hi
    simp only [vcFits]
    omega
  case vqmx o t =>
    cases h
    have := dst_lt o.d
    have := src_lt o.a
    have := src_lt o.b
    have := src_lt o.c
    have := fmt_lt o.fmt
    have := rnd_lt o.rnd
    have := fmt_lt t
    simp only [vcFits]
    omega
  case vdqmx o t =>
    cases h
    have := dst_lt o.d
    have := src_lt o.a
    have := src_lt o.b
    have := src_lt o.c
    have := fmt_lt o.fmt
    have := rnd_lt o.rnd
    have := fmt_lt t
    simp only [vcFits]
    omega
  case vmov o =>
    cases h
    have := dst_lt o.d
    have := src_lt o.a
    have := src_lt o.b
    have := src_lt o.c
    have := fmt_lt o.fmt
    have := rnd_lt o.rnd
    simp only [vcFits]
    omega
  case vbrd o col k =>
    cases h
    have := dst_lt o.d
    have := src_lt o.a
    have := src_lt o.b
    have := src_lt o.c
    have := fmt_lt o.fmt
    have := rnd_lt o.rnd
    have := bit_lt col
    simp only [vcFits]
    omega
  case vredr o op =>
    cases h
    have := dst_lt o.d
    have := src_lt o.a
    have := src_lt o.b
    have := src_lt o.c
    have := fmt_lt o.fmt
    have := rnd_lt o.rnd
    have := red_lt op
    simp only [vcFits]
    omega
  case vredc o op =>
    cases h
    have := dst_lt o.d
    have := src_lt o.a
    have := src_lt o.b
    have := src_lt o.c
    have := fmt_lt o.fmt
    have := rnd_lt o.rnd
    have := red_lt op
    simp only [vcFits]
    omega
  case vtrn o =>
    cases h
    have := dst_lt o.d
    have := src_lt o.a
    have := src_lt o.b
    have := src_lt o.c
    have := fmt_lt o.fmt
    have := rnd_lt o.rnd
    simp only [vcFits]
    omega
  case vrotc o k =>
    cases h
    have := dst_lt o.d
    have := src_lt o.a
    have := src_lt o.b
    have := src_lt o.c
    have := fmt_lt o.fmt
    have := rnd_lt o.rnd
    simp only [vcFits]
    omega
  case vshc o k =>
    cases h
    have := dst_lt o.d
    have := src_lt o.a
    have := src_lt o.b
    have := src_lt o.c
    have := fmt_lt o.fmt
    have := rnd_lt o.rnd
    simp only [vcFits]
    omega
  case vgath o =>
    cases h
    have := dst_lt o.d
    have := src_lt o.a
    have := src_lt o.b
    have := src_lt o.c
    have := fmt_lt o.fmt
    have := rnd_lt o.rnd
    simp only [vcFits]
    omega
  case vsetsh x =>
    cases h
    simp only [vcFits]
    omega
  case viota o =>
    cases h
    have := dst_lt o.d
    have := src_lt o.a
    have := src_lt o.b
    have := src_lt o.c
    have := fmt_lt o.fmt
    have := rnd_lt o.rnd
    simp only [vcFits]
    omega
  all_goals (cases h; done)

end Sys2Proof.Laws
end

