-- ==== Sys2Proof/Laws/Store.lean ====
section
/-! SUPPORT. The laws of sparse stores and memories: read after write, writes that do not meet, and the canonical form. -/

namespace Sys2Proof.Machine

variable {α : Type}

theorem mget_mdel_same (d : α) (m : Map α) (n : Nat) : mget d (mdel m n) n = d := by
  induction m with
  | nil => rfl
  | cons e m ih =>
    obtain ⟨k, v⟩ := e
    by_cases h : k = n <;> simp [mdel, mget, h, ih]

theorem mget_mdel_ne (d : α) (m : Map α) {n q : Nat} (h : q ≠ n) : mget d (mdel m n) q = mget d m q := by
  induction m with
  | nil => rfl
  | cons e m ih =>
    obtain ⟨k, v⟩ := e
    by_cases hk : k = n
    · subst hk
      rw [mdel, if_pos rfl, ih, mget, if_neg (Ne.symm h)]
    · rw [mdel, if_neg hk, mget, mget, ih]

theorem mget_mins_ne (d : α) (m : Map α) {n q : Nat} (x : α) (h : q ≠ n) : mget d (mins m n x) q = mget d m q := by
  induction m with
  | nil => simp [mins, mget, Ne.symm h]
  | cons e m ih =>
    obtain ⟨k, v⟩ := e
    by_cases hk : n < k
    · rw [mins, if_pos hk, mget, if_neg (Ne.symm h)]
    · rw [mins, if_neg hk, mget, mget, ih]

theorem mget_mins_mdel (d : α) (m : Map α) (n : Nat) (x : α) : mget d (mins (mdel m n) n x) n = x := by
  induction m with
  | nil => simp [mdel, mins, mget]
  | cons e m ih =>
    obtain ⟨k, v⟩ := e
    by_cases hk : k = n
    · simpa [mdel, hk] using ih
    · by_cases hl : n < k <;> simp [mdel, mins, mget, hk, hl, ih]

@[simp] theorem mget_mset_same (d : α) (m : Map α) (n : Nat) (x : α) : mget d (mset m n x) n = x := mget_mins_mdel d m n x

theorem mget_mset_ne (d : α) (m : Map α) {n q : Nat} (x : α) (h : q ≠ n) : mget d (mset m n x) q = mget d m q := by
  rw [mset, mget_mins_ne d _ x h, mget_mdel_ne d m h]

theorem mget_mset (d : α) (m : Map α) (n q : Nat) (x : α) : mget d (mset m n x) q = if q = n then x else mget d m q := by
  split
  · next h => rw [h, mget_mset_same]
  · next h => exact mget_mset_ne d m x h

theorem mdel_mins (m : Map α) (n : Nat) (x : α) : mdel (mins m n x) n = mdel m n := by
  induction m with
  | nil => simp [mins, mdel]
  | cons e m ih =>
    obtain ⟨k, v⟩ := e
    by_cases hl : n < k
    · simp [mins, mdel, hl]
    · by_cases hk : k = n <;> simp [mins, mdel, hl, hk, ih]

theorem mdel_mdel (m : Map α) (n : Nat) : mdel (mdel m n) n = mdel m n := by
  induction m with
  | nil => rfl
  | cons e m ih =>
    obtain ⟨k, v⟩ := e
    by_cases hk : k = n <;> simp [mdel, hk, ih]

/-- The last write of an entry counts. -/
@[simp] theorem mset_mset (m : Map α) (n : Nat) (x y : α) : mset (mset m n x) n y = mset m n y := by
  rw [mset, mset, mset, mdel_mins, mdel_mdel]

@[simp] theorem mget_mput_same [DecidableEq α] (d : α) (m : Map α) (n : Nat) (x : α) : mget d (mput d m n x) n = x := by
  by_cases h : x = d
  · rw [mput, if_pos h, mget_mdel_same, h]
  · rw [mput, if_neg h, mget_mins_mdel]

theorem mget_mput_ne [DecidableEq α] (d : α) (m : Map α) {n q : Nat} (x : α) (h : q ≠ n) :
    mget d (mput d m n x) q = mget d m q := by
  by_cases hx : x = d
  · rw [mput, if_pos hx, mget_mdel_ne d m h]
  · rw [mput, if_neg hx, mget_mins_ne d _ x h, mget_mdel_ne d m h]

theorem mget_mput [DecidableEq α] (d : α) (m : Map α) (n q : Nat) (x : α) :
    mget d (mput d m n x) q = if q = n then x else mget d m q := by
  split
  · next h => rw [h, mget_mput_same]
  · next h => exact mget_mput_ne d m x h

theorem map_mdel {β : Type} (f : α → β) (m : Map α) (n : Nat) :
    (mdel m n).map (fun e => (e.1, f e.2)) = mdel (m.map (fun e => (e.1, f e.2))) n := by
  induction m with
  | nil => rfl
  | cons e m ih =>
    obtain ⟨k, v⟩ := e
    by_cases hk : k = n <;> simp [mdel, hk, ih]

theorem map_mins {β : Type} (f : α → β) (m : Map α) (n : Nat) (x : α) :
    (mins m n x).map (fun e => (e.1, f e.2)) = mins (m.map (fun e => (e.1, f e.2))) n (f x) := by
  induction m with
  | nil => rfl
  | cons e m ih =>
    obtain ⟨k, v⟩ := e
    by_cases hk : n < k <;> simp [mins, hk, ih]

/-- An entry that has been written is listed, with its value. -/
theorem mfind_mset (m : Map α) (n q : Nat) (x : α) : mfind (mset m n x) q = if q = n then some x else mfind m q := by
  rw [mfind, mset, map_mins some, map_mdel some, ← mset, mget_mset]
  rfl

theorem mfind_mdel (m : Map α) (n q : Nat) : mfind (mdel m n) q = if q = n then none else mfind m q := by
  rw [mfind, map_mdel some]
  split
  · next h => rw [h, mget_mdel_same]
  · next h => exact mget_mdel_ne _ _ h

theorem mget_of_mfind {d x : α} {m : Map α} {n : Nat} (h : mfind m n = some x) : mget d m n = x := by
  induction m with
  | nil => cases h
  | cons e m ih =>
    obtain ⟨k, v⟩ := e
    by_cases hk : k = n
    · simpa [mfind, mget, hk] using h
    · simp only [mfind, List.map_cons, mget, if_neg hk] at h
      simpa [mget, hk] using ih h

theorem mget_of_mfind_none {d : α} {m : Map α} {n : Nat} (h : mfind m n = none) : mget d m n = d := by
  induction m with
  | nil => rfl
  | cons e m ih =>
    obtain ⟨k, v⟩ := e
    by_cases hk : k = n
    · simp [mfind, mget, hk] at h
    · simp only [mfind, List.map_cons, mget, if_neg hk] at h
      simpa [mget, hk] using ih h

/-! The canonical form -/

theorem mrise_le {lo l : Nat} (h : l ≤ lo) : ∀ {m : Map α}, mrise lo m = true → mrise l m = true
  | [], _ => rfl
  | (k, v) :: m, hm => by
    simp only [mrise, Bool.and_eq_true, decide_eq_true_eq] at hm ⊢
    exact ⟨by omega, hm.2⟩

theorem mrise_mdel (lo n : Nat) : ∀ m : Map α, mrise lo m = true → mrise lo (mdel m n) = true
  | [], _ => rfl
  | (k, v) :: m, hm => by
    simp only [mrise, Bool.and_eq_true, decide_eq_true_eq] at hm
    have h1 := mrise_mdel (k + 1) n m hm.2
    by_cases hk : k = n
    · simpa [mdel, hk] using mrise_le (by omega : lo ≤ k + 1) h1
    · simpa [mdel, hk, mrise] using ⟨hm.1, h1⟩

theorem mrise_mins (lo n : Nat) (x : α) (hl : lo ≤ n) : ∀ m : Map α, mrise lo m = true → (∀ e ∈ m, e.1 ≠ n) →
    mrise lo (mins m n x) = true
  | [], _, _ => by simp [mins, mrise, hl]
  | (k, v) :: m, hm, hn => by
    simp only [mrise, Bool.and_eq_true, decide_eq_true_eq] at hm
    have hkn : k ≠ n := hn (k, v) List.mem_cons_self
    by_cases hk : n < k
    · have : mrise (k + 1) m = true := hm.2
      simp [mins, hk, mrise, hl, this, Nat.succ_le_of_lt hk]
    · have := mrise_mins (k + 1) n x (by omega) m hm.2 (fun e he => hn e (List.mem_cons_of_mem _ he))
      simp [mins, hk, mrise, hm.1, this]

theorem mem_mdel {m : Map α} {n : Nat} {e : Nat × α} (h : e ∈ mdel m n) : e ∈ m ∧ e.1 ≠ n := by
  induction m with
  | nil => cases h
  | cons a m ih =>
    obtain ⟨k, v⟩ := a
    by_cases hk : k = n
    · rw [mdel, if_pos hk] at h
      exact ⟨List.mem_cons_of_mem _ (ih h).1, (ih h).2⟩
    · rw [mdel, if_neg hk] at h
      rcases List.mem_cons.mp h with rfl | h
      · exact ⟨List.mem_cons_self, hk⟩
      · exact ⟨List.mem_cons_of_mem _ (ih h).1, (ih h).2⟩

theorem mem_mins {m : Map α} {n : Nat} {x : α} {e : Nat × α} (h : e ∈ mins m n x) : e = (n, x) ∨ e ∈ m := by
  induction m with
  | nil => simpa [mins] using h
  | cons a m ih =>
    obtain ⟨k, v⟩ := a
    by_cases hk : n < k
    · rw [mins, if_pos hk] at h
      rcases List.mem_cons.mp h with h | h
      · exact .inl h
      · exact .inr h
    · rw [mins, if_neg hk] at h
      rcases List.mem_cons.mp h with h | h
      · exact .inr (h ▸ List.mem_cons_self)
      · exact (ih h).imp id (List.mem_cons_of_mem _)

/-- Writing an entry keeps the canonical form. -/
theorem wfD_mput [DecidableEq α] (d : α) (m : Map α) (n : Nat) (x : α) (h : Map.wfD d m = true) :
    Map.wfD d (mput d m n x) = true := by
  simp only [Map.wfD, Bool.and_eq_true, List.all_eq_true, bne_iff_ne] at h ⊢
  have hd := mrise_mdel 0 n m h.1
  by_cases hx : x = d
  · rw [mput, if_pos hx]
    exact ⟨hd, fun e he => h.2 e (mem_mdel he).1⟩
  · rw [mput, if_neg hx]
    refine ⟨mrise_mins 0 n x (Nat.zero_le _) _ hd (fun e he => (mem_mdel he).2), fun e he => ?_⟩
    rcases mem_mins he with rfl | he
    · exact hx
    · exact h.2 e (mem_mdel he).1

theorem mrise_filter (lo : Nat) (p : Nat × α → Bool) : ∀ m : Map α, mrise lo m = true → mrise lo (m.filter p) = true
  | [], _ => rfl
  | (k, v) :: m, hm => by
    simp only [mrise, Bool.and_eq_true, decide_eq_true_eq] at hm
    have h1 := mrise_filter (k + 1) p m hm.2
    by_cases hp : p (k, v) = true
    · simpa [List.filter_cons, hp, mrise] using ⟨hm.1, h1⟩
    · simpa [List.filter_cons, hp] using mrise_le (by omega : lo ≤ k + 1) h1

/-- Dropping entries keeps the canonical form. -/
theorem wfD_filter [DecidableEq α] (d : α) (p : Nat × α → Bool) (m : Map α) (h : Map.wfD d m = true) :
    Map.wfD d (m.filter p) = true := by
  simp only [Map.wfD, Bool.and_eq_true, List.all_eq_true] at h ⊢
  exact ⟨mrise_filter 0 p m h.1, fun e he => h.2 e (List.mem_filter.mp he).1⟩

/-! Memory -/

@[simp] theorem wf_nil : Memory.wf [] = true := rfl

theorem wrB_wf (m : Mem) (a : Nat) (b : Byte) (h : Memory.wf m = true) : Memory.wf (wrB m a b) = true := wfD_mput 0 m a b h

theorem wrBs_wf (bs : List Byte) : ∀ (m : Mem) (a : Nat), Memory.wf m = true → Memory.wf (wrBs m a bs) = true := by
  induction bs with
  | nil => intro m a h; exact h
  | cons b bs ih => intro m a h; exact ih _ _ (wrB_wf m a b h)

theorem wrN_wf (m : Mem) (a n v : Nat) (h : Memory.wf m = true) : Memory.wf (wrN m a n v) = true := wrBs_wf _ _ _ h

theorem filter_wf (p : Nat × Byte → Bool) (m : Mem) (h : Memory.wf m = true) : Memory.wf (m.filter p) = true := wfD_filter 0 p m h

@[simp] theorem rdB_nil (a : Nat) : rdB [] a = 0 := rfl

/-- A byte reads as it was written. -/
@[simp] theorem rdB_wrB_same (m : Mem) (a : Nat) (b : Byte) : rdB (wrB m a b) a = b := mget_mput_same 0 m a b

/-- A write of one byte leaves every other byte alone. -/
theorem rdB_wrB_ne (m : Mem) {a x : Nat} (b : Byte) (h : x ≠ a) : rdB (wrB m a b) x = rdB m x := mget_mput_ne 0 m b h

/-- A write leaves every byte outside it alone. -/
theorem rdB_wrBs_out (bs : List Byte) : ∀ (m : Mem) (a x : Nat), x < a ∨ a + bs.length ≤ x → rdB (wrBs m a bs) x = rdB m x := by
  induction bs with
  | nil => intros; rfl
  | cons b bs ih =>
    intro m a x h
    simp only [List.length_cons] at h
    rw [wrBs, ih _ _ _ (by omega), rdB_wrB_ne m b (by omega)]

/-- A write is read back byte by byte. -/
theorem rdB_wrBs_in (bs : List Byte) : ∀ (m : Mem) (a j : Nat), j < bs.length → rdB (wrBs m a bs) (a + j) = bs.getD j 0 := by
  induction bs with
  | nil => intro m a j h; cases h
  | cons b bs ih =>
    intro m a j h
    cases j with
    | zero => rw [wrBs, rdB_wrBs_out _ _ _ _ (by omega), Nat.add_zero, rdB_wrB_same]; rfl
    | succ j =>
      have := ih (wrB m a b) (a + 1) j (by simpa using h)
      rw [wrBs, show a + (j + 1) = a + 1 + j by omega, this]
      rfl

@[simp] theorem rdBs_length (m : Mem) (a n : Nat) : (rdBs m a n).length = n := by simp [rdBs]

theorem rdBs_getD (m : Mem) (a n j : Nat) (h : j < n) : (rdBs m a n).getD j 0 = rdB m (a + j) := by
  simp [rdBs, List.getD, h]

/-- What was written reads back whole. -/
theorem rdBs_wrBs (m : Mem) (a : Nat) (bs : List Byte) : rdBs (wrBs m a bs) a bs.length = bs := by
  apply List.ext_getElem (by simp)
  intro j h1 h2
  have := rdB_wrBs_in bs m a j h2
  simp [rdBs, this, List.getD, h2]

@[simp] theorem leBytes_length (n : Nat) : ∀ v, (leBytes n v).length = n := by
  induction n with
  | zero => intro v; rfl
  | succ n ih => intro v; simp [leBytes, ih]

/-- A number of n bytes spells itself. -/
theorem leNat_leBytes (n : Nat) : ∀ v, leNat (leBytes n v) = v % 2 ^ (8 * n) := by
  induction n with
  | zero => intro v; simp [leBytes, leNat, Nat.mod_one]
  | succ n ih =>
    intro v
    have h : 2 ^ (8 * (n + 1)) = 256 * 2 ^ (8 * n) := by rw [show 8 * (n + 1) = 8 * n + 8 by omega, Nat.pow_add]; omega
    rw [leBytes, leNat, ih, BitVec.toNat_ofNat, h, Nat.mod_mul]

theorem leNat_lt : ∀ bs : List Byte, leNat bs < 2 ^ (8 * bs.length)
  | [] => by decide
  | b :: bs => by
    have h := leNat_lt bs
    have hb := b.isLt
    have : 2 ^ (8 * (b :: bs).length) = 256 * 2 ^ (8 * bs.length) := by
      rw [List.length_cons, show 8 * (bs.length + 1) = 8 * bs.length + 8 by omega, Nat.pow_add]; omega
    rw [leNat, this]
    omega

/-- A number written in n bytes reads back as its low n bytes. -/
theorem rdN_wrN (m : Mem) (a n v : Nat) : rdN (wrN m a n v) a n = v % 2 ^ (8 * n) := by
  have h := rdBs_wrBs m a (leBytes n v)
  rw [leBytes_length] at h
  rw [rdN, wrN, h, leNat_leBytes]

end Sys2Proof.Machine
end

