-- ==== Sys2Proof/Laws/State.lean ====
section
/-! SUPPORT. What each named update of State, of a core, a context and an engine leaves alone, field by field, and how the
registers of a core read after a write. -/

namespace Sys2Proof.Machine

@[simp] theorem State.setCore_cores (s : State) (c : Nat) (k : Core) : (s.setCore c k).cores = mset s.cores c k := rfl
@[simp] theorem State.setCore_kilns (s : State) (c : Nat) (k : Core) : (s.setCore c k).kilns = s.kilns := rfl
@[simp] theorem State.setCore_mem (s : State) (c : Nat) (k : Core) : (s.setCore c k).mem = s.mem := rfl
@[simp] theorem State.setCore_gens (s : State) (c : Nat) (k : Core) : (s.setCore c k).gens = s.gens := rfl
@[simp] theorem State.setCore_hostMem (s : State) (c : Nat) (k : Core) : (s.setCore c k).hostMem = s.hostMem := rfl
@[simp] theorem State.setCore_peerMem (s : State) (c : Nat) (k : Core) : (s.setCore c k).peerMem = s.peerMem := rfl
@[simp] theorem State.setCore_l2 (s : State) (c : Nat) (k : Core) : (s.setCore c k).l2 = s.l2 := rfl
@[simp] theorem State.setCore_invs (s : State) (c : Nat) (k : Core) : (s.setCore c k).invs = s.invs := rfl
@[simp] theorem State.setCore_clks (s : State) (c : Nat) (k : Core) : (s.setCore c k).clks = s.clks := rfl
@[simp] theorem State.setCore_dieWr (s : State) (c : Nat) (k : Core) : (s.setCore c k).dieWr = s.dieWr := rfl
@[simp] theorem State.setCore_ltlb (s : State) (c : Nat) (k : Core) : (s.setCore c k).ltlb = s.ltlb := rfl
@[simp] theorem State.setCore_fmts (s : State) (c : Nat) (k : Core) : (s.setCore c k).fmts = s.fmts := rfl
@[simp] theorem State.setCore_hub (s : State) (c : Nat) (k : Core) : (s.setCore c k).hub = s.hub := rfl
@[simp] theorem State.setCore_clock (s : State) (c : Nat) (k : Core) : (s.setCore c k).clock = s.clock := rfl
@[simp] theorem State.setCore_script (s : State) (c : Nat) (k : Core) : (s.setCore c k).script = s.script := rfl
@[simp] theorem State.setCore_cur (s : State) (c : Nat) (k : Core) : (s.setCore c k).cur = s.cur := rfl
@[simp] theorem State.setCore_inp (s : State) (c : Nat) (k : Core) : (s.setCore c k).inp = s.inp := rfl
@[simp] theorem State.setCore_free (s : State) (c : Nat) (k : Core) : (s.setCore c k).free = s.free := rfl
@[simp] theorem State.setCore_rtag (s : State) (c : Nat) (k : Core) : (s.setCore c k).rtag = s.rtag := rfl
@[simp] theorem State.setCore_out (s : State) (c : Nat) (k : Core) : (s.setCore c k).out = s.out := rfl

@[simp] theorem State.modCore_kilns (s : State) (c : Nat) (g : Core → Core) : (s.modCore c g).kilns = s.kilns := rfl
@[simp] theorem State.modCore_mem (s : State) (c : Nat) (g : Core → Core) : (s.modCore c g).mem = s.mem := rfl
@[simp] theorem State.modCore_gens (s : State) (c : Nat) (g : Core → Core) : (s.modCore c g).gens = s.gens := rfl
@[simp] theorem State.modCore_hostMem (s : State) (c : Nat) (g : Core → Core) : (s.modCore c g).hostMem = s.hostMem := rfl
@[simp] theorem State.modCore_peerMem (s : State) (c : Nat) (g : Core → Core) : (s.modCore c g).peerMem = s.peerMem := rfl
@[simp] theorem State.modCore_l2 (s : State) (c : Nat) (g : Core → Core) : (s.modCore c g).l2 = s.l2 := rfl
@[simp] theorem State.modCore_invs (s : State) (c : Nat) (g : Core → Core) : (s.modCore c g).invs = s.invs := rfl
@[simp] theorem State.modCore_clks (s : State) (c : Nat) (g : Core → Core) : (s.modCore c g).clks = s.clks := rfl
@[simp] theorem State.modCore_dieWr (s : State) (c : Nat) (g : Core → Core) : (s.modCore c g).dieWr = s.dieWr := rfl
@[simp] theorem State.modCore_ltlb (s : State) (c : Nat) (g : Core → Core) : (s.modCore c g).ltlb = s.ltlb := rfl
@[simp] theorem State.modCore_fmts (s : State) (c : Nat) (g : Core → Core) : (s.modCore c g).fmts = s.fmts := rfl
@[simp] theorem State.modCore_hub (s : State) (c : Nat) (g : Core → Core) : (s.modCore c g).hub = s.hub := rfl
@[simp] theorem State.modCore_clock (s : State) (c : Nat) (g : Core → Core) : (s.modCore c g).clock = s.clock := rfl
@[simp] theorem State.modCore_script (s : State) (c : Nat) (g : Core → Core) : (s.modCore c g).script = s.script := rfl
@[simp] theorem State.modCore_cur (s : State) (c : Nat) (g : Core → Core) : (s.modCore c g).cur = s.cur := rfl
@[simp] theorem State.modCore_inp (s : State) (c : Nat) (g : Core → Core) : (s.modCore c g).inp = s.inp := rfl
@[simp] theorem State.modCore_free (s : State) (c : Nat) (g : Core → Core) : (s.modCore c g).free = s.free := rfl
@[simp] theorem State.modCore_rtag (s : State) (c : Nat) (g : Core → Core) : (s.modCore c g).rtag = s.rtag := rfl
@[simp] theorem State.modCore_out (s : State) (c : Nat) (g : Core → Core) : (s.modCore c g).out = s.out := rfl

@[simp] theorem State.setKiln_cores (s : State) (n : Nat) (x : Kiln) : (s.setKiln n x).cores = s.cores := rfl
@[simp] theorem State.setKiln_kilns (s : State) (n : Nat) (x : Kiln) : (s.setKiln n x).kilns = mset s.kilns n x := rfl
@[simp] theorem State.setKiln_mem (s : State) (n : Nat) (x : Kiln) : (s.setKiln n x).mem = s.mem := rfl
@[simp] theorem State.setKiln_gens (s : State) (n : Nat) (x : Kiln) : (s.setKiln n x).gens = s.gens := rfl
@[simp] theorem State.setKiln_hostMem (s : State) (n : Nat) (x : Kiln) : (s.setKiln n x).hostMem = s.hostMem := rfl
@[simp] theorem State.setKiln_peerMem (s : State) (n : Nat) (x : Kiln) : (s.setKiln n x).peerMem = s.peerMem := rfl
@[simp] theorem State.setKiln_l2 (s : State) (n : Nat) (x : Kiln) : (s.setKiln n x).l2 = s.l2 := rfl
@[simp] theorem State.setKiln_invs (s : State) (n : Nat) (x : Kiln) : (s.setKiln n x).invs = s.invs := rfl
@[simp] theorem State.setKiln_clks (s : State) (n : Nat) (x : Kiln) : (s.setKiln n x).clks = s.clks := rfl
@[simp] theorem State.setKiln_dieWr (s : State) (n : Nat) (x : Kiln) : (s.setKiln n x).dieWr = s.dieWr := rfl
@[simp] theorem State.setKiln_ltlb (s : State) (n : Nat) (x : Kiln) : (s.setKiln n x).ltlb = s.ltlb := rfl
@[simp] theorem State.setKiln_fmts (s : State) (n : Nat) (x : Kiln) : (s.setKiln n x).fmts = s.fmts := rfl
@[simp] theorem State.setKiln_hub (s : State) (n : Nat) (x : Kiln) : (s.setKiln n x).hub = s.hub := rfl
@[simp] theorem State.setKiln_clock (s : State) (n : Nat) (x : Kiln) : (s.setKiln n x).clock = s.clock := rfl
@[simp] theorem State.setKiln_script (s : State) (n : Nat) (x : Kiln) : (s.setKiln n x).script = s.script := rfl
@[simp] theorem State.setKiln_cur (s : State) (n : Nat) (x : Kiln) : (s.setKiln n x).cur = s.cur := rfl
@[simp] theorem State.setKiln_inp (s : State) (n : Nat) (x : Kiln) : (s.setKiln n x).inp = s.inp := rfl
@[simp] theorem State.setKiln_free (s : State) (n : Nat) (x : Kiln) : (s.setKiln n x).free = s.free := rfl
@[simp] theorem State.setKiln_rtag (s : State) (n : Nat) (x : Kiln) : (s.setKiln n x).rtag = s.rtag := rfl
@[simp] theorem State.setKiln_out (s : State) (n : Nat) (x : Kiln) : (s.setKiln n x).out = s.out := rfl

@[simp] theorem State.modKiln_cores (s : State) (n : Nat) (g : Kiln → Kiln) : (s.modKiln n g).cores = s.cores := rfl
@[simp] theorem State.modKiln_mem (s : State) (n : Nat) (g : Kiln → Kiln) : (s.modKiln n g).mem = s.mem := rfl
@[simp] theorem State.modKiln_gens (s : State) (n : Nat) (g : Kiln → Kiln) : (s.modKiln n g).gens = s.gens := rfl
@[simp] theorem State.modKiln_hostMem (s : State) (n : Nat) (g : Kiln → Kiln) : (s.modKiln n g).hostMem = s.hostMem := rfl
@[simp] theorem State.modKiln_peerMem (s : State) (n : Nat) (g : Kiln → Kiln) : (s.modKiln n g).peerMem = s.peerMem := rfl
@[simp] theorem State.modKiln_l2 (s : State) (n : Nat) (g : Kiln → Kiln) : (s.modKiln n g).l2 = s.l2 := rfl
@[simp] theorem State.modKiln_invs (s : State) (n : Nat) (g : Kiln → Kiln) : (s.modKiln n g).invs = s.invs := rfl
@[simp] theorem State.modKiln_clks (s : State) (n : Nat) (g : Kiln → Kiln) : (s.modKiln n g).clks = s.clks := rfl
@[simp] theorem State.modKiln_dieWr (s : State) (n : Nat) (g : Kiln → Kiln) : (s.modKiln n g).dieWr = s.dieWr := rfl
@[simp] theorem State.modKiln_ltlb (s : State) (n : Nat) (g : Kiln → Kiln) : (s.modKiln n g).ltlb = s.ltlb := rfl
@[simp] theorem State.modKiln_fmts (s : State) (n : Nat) (g : Kiln → Kiln) : (s.modKiln n g).fmts = s.fmts := rfl
@[simp] theorem State.modKiln_hub (s : State) (n : Nat) (g : Kiln → Kiln) : (s.modKiln n g).hub = s.hub := rfl
@[simp] theorem State.modKiln_clock (s : State) (n : Nat) (g : Kiln → Kiln) : (s.modKiln n g).clock = s.clock := rfl
@[simp] theorem State.modKiln_script (s : State) (n : Nat) (g : Kiln → Kiln) : (s.modKiln n g).script = s.script := rfl
@[simp] theorem State.modKiln_cur (s : State) (n : Nat) (g : Kiln → Kiln) : (s.modKiln n g).cur = s.cur := rfl
@[simp] theorem State.modKiln_inp (s : State) (n : Nat) (g : Kiln → Kiln) : (s.modKiln n g).inp = s.inp := rfl
@[simp] theorem State.modKiln_free (s : State) (n : Nat) (g : Kiln → Kiln) : (s.modKiln n g).free = s.free := rfl
@[simp] theorem State.modKiln_rtag (s : State) (n : Nat) (g : Kiln → Kiln) : (s.modKiln n g).rtag = s.rtag := rfl
@[simp] theorem State.modKiln_out (s : State) (n : Nat) (g : Kiln → Kiln) : (s.modKiln n g).out = s.out := rfl

@[simp] theorem State.modHub_cores (s : State) (g : Hub → Hub) : (s.modHub g).cores = s.cores := rfl
@[simp] theorem State.modHub_kilns (s : State) (g : Hub → Hub) : (s.modHub g).kilns = s.kilns := rfl
@[simp] theorem State.modHub_mem (s : State) (g : Hub → Hub) : (s.modHub g).mem = s.mem := rfl
@[simp] theorem State.modHub_gens (s : State) (g : Hub → Hub) : (s.modHub g).gens = s.gens := rfl
@[simp] theorem State.modHub_hostMem (s : State) (g : Hub → Hub) : (s.modHub g).hostMem = s.hostMem := rfl
@[simp] theorem State.modHub_peerMem (s : State) (g : Hub → Hub) : (s.modHub g).peerMem = s.peerMem := rfl
@[simp] theorem State.modHub_l2 (s : State) (g : Hub → Hub) : (s.modHub g).l2 = s.l2 := rfl
@[simp] theorem State.modHub_invs (s : State) (g : Hub → Hub) : (s.modHub g).invs = s.invs := rfl
@[simp] theorem State.modHub_clks (s : State) (g : Hub → Hub) : (s.modHub g).clks = s.clks := rfl
@[simp] theorem State.modHub_dieWr (s : State) (g : Hub → Hub) : (s.modHub g).dieWr = s.dieWr := rfl
@[simp] theorem State.modHub_ltlb (s : State) (g : Hub → Hub) : (s.modHub g).ltlb = s.ltlb := rfl
@[simp] theorem State.modHub_fmts (s : State) (g : Hub → Hub) : (s.modHub g).fmts = s.fmts := rfl
@[simp] theorem State.modHub_hub (s : State) (g : Hub → Hub) : (s.modHub g).hub = g s.hub := rfl
@[simp] theorem State.modHub_clock (s : State) (g : Hub → Hub) : (s.modHub g).clock = s.clock := rfl
@[simp] theorem State.modHub_script (s : State) (g : Hub → Hub) : (s.modHub g).script = s.script := rfl
@[simp] theorem State.modHub_cur (s : State) (g : Hub → Hub) : (s.modHub g).cur = s.cur := rfl
@[simp] theorem State.modHub_inp (s : State) (g : Hub → Hub) : (s.modHub g).inp = s.inp := rfl
@[simp] theorem State.modHub_free (s : State) (g : Hub → Hub) : (s.modHub g).free = s.free := rfl
@[simp] theorem State.modHub_rtag (s : State) (g : Hub → Hub) : (s.modHub g).rtag = s.rtag := rfl
@[simp] theorem State.modHub_out (s : State) (g : Hub → Hub) : (s.modHub g).out = s.out := rfl

@[simp] theorem State.soon_cores (s : State) (l : List Act) : (s.soon l).cores = s.cores := rfl
@[simp] theorem State.soon_kilns (s : State) (l : List Act) : (s.soon l).kilns = s.kilns := rfl
@[simp] theorem State.soon_mem (s : State) (l : List Act) : (s.soon l).mem = s.mem := rfl
@[simp] theorem State.soon_gens (s : State) (l : List Act) : (s.soon l).gens = s.gens := rfl
@[simp] theorem State.soon_hostMem (s : State) (l : List Act) : (s.soon l).hostMem = s.hostMem := rfl
@[simp] theorem State.soon_peerMem (s : State) (l : List Act) : (s.soon l).peerMem = s.peerMem := rfl
@[simp] theorem State.soon_l2 (s : State) (l : List Act) : (s.soon l).l2 = s.l2 := rfl
@[simp] theorem State.soon_invs (s : State) (l : List Act) : (s.soon l).invs = s.invs := rfl
@[simp] theorem State.soon_clks (s : State) (l : List Act) : (s.soon l).clks = s.clks := rfl
@[simp] theorem State.soon_dieWr (s : State) (l : List Act) : (s.soon l).dieWr = s.dieWr := rfl
@[simp] theorem State.soon_ltlb (s : State) (l : List Act) : (s.soon l).ltlb = s.ltlb := rfl
@[simp] theorem State.soon_fmts (s : State) (l : List Act) : (s.soon l).fmts = s.fmts := rfl
@[simp] theorem State.soon_hub (s : State) (l : List Act) : (s.soon l).hub = s.hub := rfl
@[simp] theorem State.soon_clock (s : State) (l : List Act) : (s.soon l).clock = s.clock := rfl
@[simp] theorem State.soon_script (s : State) (l : List Act) : (s.soon l).script = l ++ s.script := rfl
@[simp] theorem State.soon_cur (s : State) (l : List Act) : (s.soon l).cur = s.cur := rfl
@[simp] theorem State.soon_inp (s : State) (l : List Act) : (s.soon l).inp = s.inp := rfl
@[simp] theorem State.soon_free (s : State) (l : List Act) : (s.soon l).free = s.free := rfl
@[simp] theorem State.soon_rtag (s : State) (l : List Act) : (s.soon l).rtag = s.rtag := rfl
@[simp] theorem State.soon_out (s : State) (l : List Act) : (s.soon l).out = s.out := rfl

@[simp] theorem State.send_cores (s : State) (o : Out) : (s.send o).cores = s.cores := rfl
@[simp] theorem State.send_kilns (s : State) (o : Out) : (s.send o).kilns = s.kilns := rfl
@[simp] theorem State.send_mem (s : State) (o : Out) : (s.send o).mem = s.mem := rfl
@[simp] theorem State.send_gens (s : State) (o : Out) : (s.send o).gens = s.gens := rfl
@[simp] theorem State.send_hostMem (s : State) (o : Out) : (s.send o).hostMem = s.hostMem := rfl
@[simp] theorem State.send_peerMem (s : State) (o : Out) : (s.send o).peerMem = s.peerMem := rfl
@[simp] theorem State.send_l2 (s : State) (o : Out) : (s.send o).l2 = s.l2 := rfl
@[simp] theorem State.send_invs (s : State) (o : Out) : (s.send o).invs = s.invs := rfl
@[simp] theorem State.send_clks (s : State) (o : Out) : (s.send o).clks = s.clks := rfl
@[simp] theorem State.send_dieWr (s : State) (o : Out) : (s.send o).dieWr = s.dieWr := rfl
@[simp] theorem State.send_ltlb (s : State) (o : Out) : (s.send o).ltlb = s.ltlb := rfl
@[simp] theorem State.send_fmts (s : State) (o : Out) : (s.send o).fmts = s.fmts := rfl
@[simp] theorem State.send_hub (s : State) (o : Out) : (s.send o).hub = s.hub := rfl
@[simp] theorem State.send_clock (s : State) (o : Out) : (s.send o).clock = s.clock := rfl
@[simp] theorem State.send_script (s : State) (o : Out) : (s.send o).script = s.script := rfl
@[simp] theorem State.send_cur (s : State) (o : Out) : (s.send o).cur = s.cur := rfl
@[simp] theorem State.send_inp (s : State) (o : Out) : (s.send o).inp = s.inp := rfl
@[simp] theorem State.send_free (s : State) (o : Out) : (s.send o).free = s.free := rfl
@[simp] theorem State.send_rtag (s : State) (o : Out) : (s.send o).rtag = s.rtag := rfl
@[simp] theorem State.send_out (s : State) (o : Out) : (s.send o).out = s.out ++ [o] := rfl

@[simp] theorem State.draw_cores (s : State) : (s.draw ).cores = s.cores := rfl
@[simp] theorem State.draw_kilns (s : State) : (s.draw ).kilns = s.kilns := rfl
@[simp] theorem State.draw_mem (s : State) : (s.draw ).mem = s.mem := rfl
@[simp] theorem State.draw_gens (s : State) : (s.draw ).gens = s.gens := rfl
@[simp] theorem State.draw_hostMem (s : State) : (s.draw ).hostMem = s.hostMem := rfl
@[simp] theorem State.draw_peerMem (s : State) : (s.draw ).peerMem = s.peerMem := rfl
@[simp] theorem State.draw_l2 (s : State) : (s.draw ).l2 = s.l2 := rfl
@[simp] theorem State.draw_invs (s : State) : (s.draw ).invs = s.invs := rfl
@[simp] theorem State.draw_clks (s : State) : (s.draw ).clks = s.clks := rfl
@[simp] theorem State.draw_dieWr (s : State) : (s.draw ).dieWr = s.dieWr := rfl
@[simp] theorem State.draw_ltlb (s : State) : (s.draw ).ltlb = s.ltlb := rfl
@[simp] theorem State.draw_fmts (s : State) : (s.draw ).fmts = s.fmts := rfl
@[simp] theorem State.draw_hub (s : State) : (s.draw ).hub = s.hub := rfl
@[simp] theorem State.draw_clock (s : State) : (s.draw ).clock = s.clock := rfl
@[simp] theorem State.draw_script (s : State) : (s.draw ).script = s.script := rfl
@[simp] theorem State.draw_cur (s : State) : (s.draw ).cur = s.cur := rfl
@[simp] theorem State.draw_inp (s : State) : (s.draw ).inp = s.inp := rfl
@[simp] theorem State.draw_free (s : State) : (s.draw ).free = s.free + 1 := rfl
@[simp] theorem State.draw_rtag (s : State) : (s.draw ).rtag = s.rtag := rfl
@[simp] theorem State.draw_out (s : State) : (s.draw ).out = s.out := rfl

@[simp] theorem State.setMe_kilns (s : State) (k : Core) : (s.setMe k).kilns = s.kilns := rfl
@[simp] theorem State.setMe_mem (s : State) (k : Core) : (s.setMe k).mem = s.mem := rfl
@[simp] theorem State.setMe_gens (s : State) (k : Core) : (s.setMe k).gens = s.gens := rfl
@[simp] theorem State.setMe_hostMem (s : State) (k : Core) : (s.setMe k).hostMem = s.hostMem := rfl
@[simp] theorem State.setMe_peerMem (s : State) (k : Core) : (s.setMe k).peerMem = s.peerMem := rfl
@[simp] theorem State.setMe_l2 (s : State) (k : Core) : (s.setMe k).l2 = s.l2 := rfl
@[simp] theorem State.setMe_invs (s : State) (k : Core) : (s.setMe k).invs = s.invs := rfl
@[simp] theorem State.setMe_clks (s : State) (k : Core) : (s.setMe k).clks = s.clks := rfl
@[simp] theorem State.setMe_dieWr (s : State) (k : Core) : (s.setMe k).dieWr = s.dieWr := rfl
@[simp] theorem State.setMe_ltlb (s : State) (k : Core) : (s.setMe k).ltlb = s.ltlb := rfl
@[simp] theorem State.setMe_fmts (s : State) (k : Core) : (s.setMe k).fmts = s.fmts := rfl
@[simp] theorem State.setMe_hub (s : State) (k : Core) : (s.setMe k).hub = s.hub := rfl
@[simp] theorem State.setMe_clock (s : State) (k : Core) : (s.setMe k).clock = s.clock := rfl
@[simp] theorem State.setMe_script (s : State) (k : Core) : (s.setMe k).script = s.script := rfl
@[simp] theorem State.setMe_cur (s : State) (k : Core) : (s.setMe k).cur = s.cur := rfl
@[simp] theorem State.setMe_inp (s : State) (k : Core) : (s.setMe k).inp = s.inp := rfl
@[simp] theorem State.setMe_free (s : State) (k : Core) : (s.setMe k).free = s.free := rfl
@[simp] theorem State.setMe_rtag (s : State) (k : Core) : (s.setMe k).rtag = s.rtag := rfl
@[simp] theorem State.setMe_out (s : State) (k : Core) : (s.setMe k).out = s.out := rfl

@[simp] theorem State.modMe_kilns (s : State) (g : Core → Core) : (s.modMe g).kilns = s.kilns := rfl
@[simp] theorem State.modMe_mem (s : State) (g : Core → Core) : (s.modMe g).mem = s.mem := rfl
@[simp] theorem State.modMe_gens (s : State) (g : Core → Core) : (s.modMe g).gens = s.gens := rfl
@[simp] theorem State.modMe_hostMem (s : State) (g : Core → Core) : (s.modMe g).hostMem = s.hostMem := rfl
@[simp] theorem State.modMe_peerMem (s : State) (g : Core → Core) : (s.modMe g).peerMem = s.peerMem := rfl
@[simp] theorem State.modMe_l2 (s : State) (g : Core → Core) : (s.modMe g).l2 = s.l2 := rfl
@[simp] theorem State.modMe_invs (s : State) (g : Core → Core) : (s.modMe g).invs = s.invs := rfl
@[simp] theorem State.modMe_clks (s : State) (g : Core → Core) : (s.modMe g).clks = s.clks := rfl
@[simp] theorem State.modMe_dieWr (s : State) (g : Core → Core) : (s.modMe g).dieWr = s.dieWr := rfl
@[simp] theorem State.modMe_ltlb (s : State) (g : Core → Core) : (s.modMe g).ltlb = s.ltlb := rfl
@[simp] theorem State.modMe_fmts (s : State) (g : Core → Core) : (s.modMe g).fmts = s.fmts := rfl
@[simp] theorem State.modMe_hub (s : State) (g : Core → Core) : (s.modMe g).hub = s.hub := rfl
@[simp] theorem State.modMe_clock (s : State) (g : Core → Core) : (s.modMe g).clock = s.clock := rfl
@[simp] theorem State.modMe_script (s : State) (g : Core → Core) : (s.modMe g).script = s.script := rfl
@[simp] theorem State.modMe_cur (s : State) (g : Core → Core) : (s.modMe g).cur = s.cur := rfl
@[simp] theorem State.modMe_inp (s : State) (g : Core → Core) : (s.modMe g).inp = s.inp := rfl
@[simp] theorem State.modMe_free (s : State) (g : Core → Core) : (s.modMe g).free = s.free := rfl
@[simp] theorem State.modMe_rtag (s : State) (g : Core → Core) : (s.modMe g).rtag = s.rtag := rfl
@[simp] theorem State.modMe_out (s : State) (g : Core → Core) : (s.modMe g).out = s.out := rfl

@[simp] theorem State.modMy_kilns (s : State) (g : Ctx → Ctx) : (s.modMy g).kilns = s.kilns := rfl
@[simp] theorem State.modMy_mem (s : State) (g : Ctx → Ctx) : (s.modMy g).mem = s.mem := rfl
@[simp] theorem State.modMy_gens (s : State) (g : Ctx → Ctx) : (s.modMy g).gens = s.gens := rfl
@[simp] theorem State.modMy_hostMem (s : State) (g : Ctx → Ctx) : (s.modMy g).hostMem = s.hostMem := rfl
@[simp] theorem State.modMy_peerMem (s : State) (g : Ctx → Ctx) : (s.modMy g).peerMem = s.peerMem := rfl
@[simp] theorem State.modMy_l2 (s : State) (g : Ctx → Ctx) : (s.modMy g).l2 = s.l2 := rfl
@[simp] theorem State.modMy_invs (s : State) (g : Ctx → Ctx) : (s.modMy g).invs = s.invs := rfl
@[simp] theorem State.modMy_clks (s : State) (g : Ctx → Ctx) : (s.modMy g).clks = s.clks := rfl
@[simp] theorem State.modMy_dieWr (s : State) (g : Ctx → Ctx) : (s.modMy g).dieWr = s.dieWr := rfl
@[simp] theorem State.modMy_ltlb (s : State) (g : Ctx → Ctx) : (s.modMy g).ltlb = s.ltlb := rfl
@[simp] theorem State.modMy_fmts (s : State) (g : Ctx → Ctx) : (s.modMy g).fmts = s.fmts := rfl
@[simp] theorem State.modMy_hub (s : State) (g : Ctx → Ctx) : (s.modMy g).hub = s.hub := rfl
@[simp] theorem State.modMy_clock (s : State) (g : Ctx → Ctx) : (s.modMy g).clock = s.clock := rfl
@[simp] theorem State.modMy_script (s : State) (g : Ctx → Ctx) : (s.modMy g).script = s.script := rfl
@[simp] theorem State.modMy_cur (s : State) (g : Ctx → Ctx) : (s.modMy g).cur = s.cur := rfl
@[simp] theorem State.modMy_inp (s : State) (g : Ctx → Ctx) : (s.modMy g).inp = s.inp := rfl
@[simp] theorem State.modMy_free (s : State) (g : Ctx → Ctx) : (s.modMy g).free = s.free := rfl
@[simp] theorem State.modMy_rtag (s : State) (g : Ctx → Ctx) : (s.modMy g).rtag = s.rtag := rfl
@[simp] theorem State.modMy_out (s : State) (g : Ctx → Ctx) : (s.modMy g).out = s.out := rfl

@[simp] theorem raiseAt_kilns (s : State) (cause detail : Nat) (addr : Word) : (raiseAt s cause detail addr).kilns = s.kilns := rfl
@[simp] theorem raiseAt_mem (s : State) (cause detail : Nat) (addr : Word) : (raiseAt s cause detail addr).mem = s.mem := rfl
@[simp] theorem raiseAt_gens (s : State) (cause detail : Nat) (addr : Word) : (raiseAt s cause detail addr).gens = s.gens := rfl
@[simp] theorem raiseAt_hostMem (s : State) (cause detail : Nat) (addr : Word) : (raiseAt s cause detail addr).hostMem = s.hostMem := rfl
@[simp] theorem raiseAt_peerMem (s : State) (cause detail : Nat) (addr : Word) : (raiseAt s cause detail addr).peerMem = s.peerMem := rfl
@[simp] theorem raiseAt_l2 (s : State) (cause detail : Nat) (addr : Word) : (raiseAt s cause detail addr).l2 = s.l2 := rfl
@[simp] theorem raiseAt_invs (s : State) (cause detail : Nat) (addr : Word) : (raiseAt s cause detail addr).invs = s.invs := rfl
@[simp] theorem raiseAt_clks (s : State) (cause detail : Nat) (addr : Word) : (raiseAt s cause detail addr).clks = s.clks := rfl
@[simp] theorem raiseAt_dieWr (s : State) (cause detail : Nat) (addr : Word) : (raiseAt s cause detail addr).dieWr = s.dieWr := rfl
@[simp] theorem raiseAt_ltlb (s : State) (cause detail : Nat) (addr : Word) : (raiseAt s cause detail addr).ltlb = s.ltlb := rfl
@[simp] theorem raiseAt_fmts (s : State) (cause detail : Nat) (addr : Word) : (raiseAt s cause detail addr).fmts = s.fmts := rfl
@[simp] theorem raiseAt_hub (s : State) (cause detail : Nat) (addr : Word) : (raiseAt s cause detail addr).hub = s.hub := rfl
@[simp] theorem raiseAt_clock (s : State) (cause detail : Nat) (addr : Word) : (raiseAt s cause detail addr).clock = s.clock := rfl
@[simp] theorem raiseAt_script (s : State) (cause detail : Nat) (addr : Word) : (raiseAt s cause detail addr).script = s.script := rfl
@[simp] theorem raiseAt_inp (s : State) (cause detail : Nat) (addr : Word) : (raiseAt s cause detail addr).inp = s.inp := rfl
@[simp] theorem raiseAt_free (s : State) (cause detail : Nat) (addr : Word) : (raiseAt s cause detail addr).free = s.free := rfl
@[simp] theorem raiseAt_rtag (s : State) (cause detail : Nat) (addr : Word) : (raiseAt s cause detail addr).rtag = s.rtag := rfl
@[simp] theorem raiseAt_out (s : State) (cause detail : Nat) (addr : Word) : (raiseAt s cause detail addr).out = s.out := rfl

@[simp] theorem illegal_kilns (s : State) (detail : Nat) : (illegal s detail).kilns = s.kilns := rfl
@[simp] theorem illegal_mem (s : State) (detail : Nat) : (illegal s detail).mem = s.mem := rfl
@[simp] theorem illegal_gens (s : State) (detail : Nat) : (illegal s detail).gens = s.gens := rfl
@[simp] theorem illegal_hostMem (s : State) (detail : Nat) : (illegal s detail).hostMem = s.hostMem := rfl
@[simp] theorem illegal_peerMem (s : State) (detail : Nat) : (illegal s detail).peerMem = s.peerMem := rfl
@[simp] theorem illegal_l2 (s : State) (detail : Nat) : (illegal s detail).l2 = s.l2 := rfl
@[simp] theorem illegal_invs (s : State) (detail : Nat) : (illegal s detail).invs = s.invs := rfl
@[simp] theorem illegal_clks (s : State) (detail : Nat) : (illegal s detail).clks = s.clks := rfl
@[simp] theorem illegal_dieWr (s : State) (detail : Nat) : (illegal s detail).dieWr = s.dieWr := rfl
@[simp] theorem illegal_ltlb (s : State) (detail : Nat) : (illegal s detail).ltlb = s.ltlb := rfl
@[simp] theorem illegal_fmts (s : State) (detail : Nat) : (illegal s detail).fmts = s.fmts := rfl
@[simp] theorem illegal_hub (s : State) (detail : Nat) : (illegal s detail).hub = s.hub := rfl
@[simp] theorem illegal_clock (s : State) (detail : Nat) : (illegal s detail).clock = s.clock := rfl
@[simp] theorem illegal_script (s : State) (detail : Nat) : (illegal s detail).script = s.script := rfl
@[simp] theorem illegal_inp (s : State) (detail : Nat) : (illegal s detail).inp = s.inp := rfl
@[simp] theorem illegal_free (s : State) (detail : Nat) : (illegal s detail).free = s.free := rfl
@[simp] theorem illegal_rtag (s : State) (detail : Nat) : (illegal s detail).rtag = s.rtag := rfl
@[simp] theorem illegal_out (s : State) (detail : Nat) : (illegal s detail).out = s.out := rfl

@[simp] theorem raiseOn_kilns (s : State) (c cause stream slot detail : Nat) (addr : Word) : (raiseOn s c cause stream slot detail addr).kilns = s.kilns := rfl
@[simp] theorem raiseOn_mem (s : State) (c cause stream slot detail : Nat) (addr : Word) : (raiseOn s c cause stream slot detail addr).mem = s.mem := rfl
@[simp] theorem raiseOn_gens (s : State) (c cause stream slot detail : Nat) (addr : Word) : (raiseOn s c cause stream slot detail addr).gens = s.gens := rfl
@[simp] theorem raiseOn_hostMem (s : State) (c cause stream slot detail : Nat) (addr : Word) : (raiseOn s c cause stream slot detail addr).hostMem = s.hostMem := rfl
@[simp] theorem raiseOn_peerMem (s : State) (c cause stream slot detail : Nat) (addr : Word) : (raiseOn s c cause stream slot detail addr).peerMem = s.peerMem := rfl
@[simp] theorem raiseOn_l2 (s : State) (c cause stream slot detail : Nat) (addr : Word) : (raiseOn s c cause stream slot detail addr).l2 = s.l2 := rfl
@[simp] theorem raiseOn_invs (s : State) (c cause stream slot detail : Nat) (addr : Word) : (raiseOn s c cause stream slot detail addr).invs = s.invs := rfl
@[simp] theorem raiseOn_clks (s : State) (c cause stream slot detail : Nat) (addr : Word) : (raiseOn s c cause stream slot detail addr).clks = s.clks := rfl
@[simp] theorem raiseOn_dieWr (s : State) (c cause stream slot detail : Nat) (addr : Word) : (raiseOn s c cause stream slot detail addr).dieWr = s.dieWr := rfl
@[simp] theorem raiseOn_ltlb (s : State) (c cause stream slot detail : Nat) (addr : Word) : (raiseOn s c cause stream slot detail addr).ltlb = s.ltlb := rfl
@[simp] theorem raiseOn_fmts (s : State) (c cause stream slot detail : Nat) (addr : Word) : (raiseOn s c cause stream slot detail addr).fmts = s.fmts := rfl
@[simp] theorem raiseOn_hub (s : State) (c cause stream slot detail : Nat) (addr : Word) : (raiseOn s c cause stream slot detail addr).hub = s.hub := rfl
@[simp] theorem raiseOn_clock (s : State) (c cause stream slot detail : Nat) (addr : Word) : (raiseOn s c cause stream slot detail addr).clock = s.clock := rfl
@[simp] theorem raiseOn_script (s : State) (c cause stream slot detail : Nat) (addr : Word) : (raiseOn s c cause stream slot detail addr).script = s.script := rfl
@[simp] theorem raiseOn_cur (s : State) (c cause stream slot detail : Nat) (addr : Word) : (raiseOn s c cause stream slot detail addr).cur = s.cur := rfl
@[simp] theorem raiseOn_inp (s : State) (c cause stream slot detail : Nat) (addr : Word) : (raiseOn s c cause stream slot detail addr).inp = s.inp := rfl
@[simp] theorem raiseOn_free (s : State) (c cause stream slot detail : Nat) (addr : Word) : (raiseOn s c cause stream slot detail addr).free = s.free := rfl
@[simp] theorem raiseOn_rtag (s : State) (c cause stream slot detail : Nat) (addr : Word) : (raiseOn s c cause stream slot detail addr).rtag = s.rtag := rfl
@[simp] theorem raiseOn_out (s : State) (c cause stream slot detail : Nat) (addr : Word) : (raiseOn s c cause stream slot detail addr).out = s.out := rfl

@[simp] theorem stallOn_kilns (s : State) (w : WaitK) : (stallOn s w).kilns = s.kilns := rfl
@[simp] theorem stallOn_mem (s : State) (w : WaitK) : (stallOn s w).mem = s.mem := rfl
@[simp] theorem stallOn_gens (s : State) (w : WaitK) : (stallOn s w).gens = s.gens := rfl
@[simp] theorem stallOn_hostMem (s : State) (w : WaitK) : (stallOn s w).hostMem = s.hostMem := rfl
@[simp] theorem stallOn_peerMem (s : State) (w : WaitK) : (stallOn s w).peerMem = s.peerMem := rfl
@[simp] theorem stallOn_l2 (s : State) (w : WaitK) : (stallOn s w).l2 = s.l2 := rfl
@[simp] theorem stallOn_invs (s : State) (w : WaitK) : (stallOn s w).invs = s.invs := rfl
@[simp] theorem stallOn_clks (s : State) (w : WaitK) : (stallOn s w).clks = s.clks := rfl
@[simp] theorem stallOn_dieWr (s : State) (w : WaitK) : (stallOn s w).dieWr = s.dieWr := rfl
@[simp] theorem stallOn_ltlb (s : State) (w : WaitK) : (stallOn s w).ltlb = s.ltlb := rfl
@[simp] theorem stallOn_fmts (s : State) (w : WaitK) : (stallOn s w).fmts = s.fmts := rfl
@[simp] theorem stallOn_hub (s : State) (w : WaitK) : (stallOn s w).hub = s.hub := rfl
@[simp] theorem stallOn_clock (s : State) (w : WaitK) : (stallOn s w).clock = s.clock := rfl
@[simp] theorem stallOn_script (s : State) (w : WaitK) : (stallOn s w).script = s.script := rfl
@[simp] theorem stallOn_inp (s : State) (w : WaitK) : (stallOn s w).inp = s.inp := rfl
@[simp] theorem stallOn_free (s : State) (w : WaitK) : (stallOn s w).free = s.free := rfl
@[simp] theorem stallOn_rtag (s : State) (w : WaitK) : (stallOn s w).rtag = s.rtag := rfl
@[simp] theorem stallOn_out (s : State) (w : WaitK) : (stallOn s w).out = s.out := rfl

@[simp] theorem fly_kilns (s : State) (f : Flight) : (fly s f).kilns = s.kilns := rfl
@[simp] theorem fly_mem (s : State) (f : Flight) : (fly s f).mem = s.mem := rfl
@[simp] theorem fly_gens (s : State) (f : Flight) : (fly s f).gens = s.gens := rfl
@[simp] theorem fly_hostMem (s : State) (f : Flight) : (fly s f).hostMem = s.hostMem := rfl
@[simp] theorem fly_peerMem (s : State) (f : Flight) : (fly s f).peerMem = s.peerMem := rfl
@[simp] theorem fly_l2 (s : State) (f : Flight) : (fly s f).l2 = s.l2 := rfl
@[simp] theorem fly_invs (s : State) (f : Flight) : (fly s f).invs = s.invs := rfl
@[simp] theorem fly_clks (s : State) (f : Flight) : (fly s f).clks = s.clks := rfl
@[simp] theorem fly_dieWr (s : State) (f : Flight) : (fly s f).dieWr = s.dieWr := rfl
@[simp] theorem fly_ltlb (s : State) (f : Flight) : (fly s f).ltlb = s.ltlb := rfl
@[simp] theorem fly_fmts (s : State) (f : Flight) : (fly s f).fmts = s.fmts := rfl
@[simp] theorem fly_hub (s : State) (f : Flight) : (fly s f).hub = s.hub := rfl
@[simp] theorem fly_clock (s : State) (f : Flight) : (fly s f).clock = s.clock := rfl
@[simp] theorem fly_script (s : State) (f : Flight) : (fly s f).script = s.script := rfl
@[simp] theorem fly_cur (s : State) (f : Flight) : (fly s f).cur = s.cur := rfl
@[simp] theorem fly_inp (s : State) (f : Flight) : (fly s f).inp = s.inp := rfl
@[simp] theorem fly_free (s : State) (f : Flight) : (fly s f).free = s.free := rfl
@[simp] theorem fly_rtag (s : State) (f : Flight) : (fly s f).rtag = s.rtag := rfl
@[simp] theorem fly_out (s : State) (f : Flight) : (fly s f).out = s.out := rfl

@[simp] theorem flyFixed_kilns (s : State) (i : Instr) (lat : Nat) (ops : List Word) : (flyFixed s i lat ops).kilns = s.kilns := rfl
@[simp] theorem flyFixed_mem (s : State) (i : Instr) (lat : Nat) (ops : List Word) : (flyFixed s i lat ops).mem = s.mem := rfl
@[simp] theorem flyFixed_gens (s : State) (i : Instr) (lat : Nat) (ops : List Word) : (flyFixed s i lat ops).gens = s.gens := rfl
@[simp] theorem flyFixed_hostMem (s : State) (i : Instr) (lat : Nat) (ops : List Word) : (flyFixed s i lat ops).hostMem = s.hostMem := rfl
@[simp] theorem flyFixed_peerMem (s : State) (i : Instr) (lat : Nat) (ops : List Word) : (flyFixed s i lat ops).peerMem = s.peerMem := rfl
@[simp] theorem flyFixed_l2 (s : State) (i : Instr) (lat : Nat) (ops : List Word) : (flyFixed s i lat ops).l2 = s.l2 := rfl
@[simp] theorem flyFixed_invs (s : State) (i : Instr) (lat : Nat) (ops : List Word) : (flyFixed s i lat ops).invs = s.invs := rfl
@[simp] theorem flyFixed_clks (s : State) (i : Instr) (lat : Nat) (ops : List Word) : (flyFixed s i lat ops).clks = s.clks := rfl
@[simp] theorem flyFixed_dieWr (s : State) (i : Instr) (lat : Nat) (ops : List Word) : (flyFixed s i lat ops).dieWr = s.dieWr := rfl
@[simp] theorem flyFixed_ltlb (s : State) (i : Instr) (lat : Nat) (ops : List Word) : (flyFixed s i lat ops).ltlb = s.ltlb := rfl
@[simp] theorem flyFixed_fmts (s : State) (i : Instr) (lat : Nat) (ops : List Word) : (flyFixed s i lat ops).fmts = s.fmts := rfl
@[simp] theorem flyFixed_hub (s : State) (i : Instr) (lat : Nat) (ops : List Word) : (flyFixed s i lat ops).hub = s.hub := rfl
@[simp] theorem flyFixed_clock (s : State) (i : Instr) (lat : Nat) (ops : List Word) : (flyFixed s i lat ops).clock = s.clock := rfl
@[simp] theorem flyFixed_script (s : State) (i : Instr) (lat : Nat) (ops : List Word) : (flyFixed s i lat ops).script = s.script := rfl
@[simp] theorem flyFixed_cur (s : State) (i : Instr) (lat : Nat) (ops : List Word) : (flyFixed s i lat ops).cur = s.cur := rfl
@[simp] theorem flyFixed_inp (s : State) (i : Instr) (lat : Nat) (ops : List Word) : (flyFixed s i lat ops).inp = s.inp := rfl
@[simp] theorem flyFixed_free (s : State) (i : Instr) (lat : Nat) (ops : List Word) : (flyFixed s i lat ops).free = s.free := rfl
@[simp] theorem flyFixed_rtag (s : State) (i : Instr) (lat : Nat) (ops : List Word) : (flyFixed s i lat ops).rtag = s.rtag := rfl
@[simp] theorem flyFixed_out (s : State) (i : Instr) (lat : Nat) (ops : List Word) : (flyFixed s i lat ops).out = s.out := rfl

@[simp] theorem flyVar_kilns (s : State) (i : Instr) (ops : List Word) (ph : Phase) : (flyVar s i ops ph).kilns = s.kilns := rfl
@[simp] theorem flyVar_mem (s : State) (i : Instr) (ops : List Word) (ph : Phase) : (flyVar s i ops ph).mem = s.mem := rfl
@[simp] theorem flyVar_gens (s : State) (i : Instr) (ops : List Word) (ph : Phase) : (flyVar s i ops ph).gens = s.gens := rfl
@[simp] theorem flyVar_hostMem (s : State) (i : Instr) (ops : List Word) (ph : Phase) : (flyVar s i ops ph).hostMem = s.hostMem := rfl
@[simp] theorem flyVar_peerMem (s : State) (i : Instr) (ops : List Word) (ph : Phase) : (flyVar s i ops ph).peerMem = s.peerMem := rfl
@[simp] theorem flyVar_l2 (s : State) (i : Instr) (ops : List Word) (ph : Phase) : (flyVar s i ops ph).l2 = s.l2 := rfl
@[simp] theorem flyVar_invs (s : State) (i : Instr) (ops : List Word) (ph : Phase) : (flyVar s i ops ph).invs = s.invs := rfl
@[simp] theorem flyVar_clks (s : State) (i : Instr) (ops : List Word) (ph : Phase) : (flyVar s i ops ph).clks = s.clks := rfl
@[simp] theorem flyVar_dieWr (s : State) (i : Instr) (ops : List Word) (ph : Phase) : (flyVar s i ops ph).dieWr = s.dieWr := rfl
@[simp] theorem flyVar_ltlb (s : State) (i : Instr) (ops : List Word) (ph : Phase) : (flyVar s i ops ph).ltlb = s.ltlb := rfl
@[simp] theorem flyVar_fmts (s : State) (i : Instr) (ops : List Word) (ph : Phase) : (flyVar s i ops ph).fmts = s.fmts := rfl
@[simp] theorem flyVar_hub (s : State) (i : Instr) (ops : List Word) (ph : Phase) : (flyVar s i ops ph).hub = s.hub := rfl
@[simp] theorem flyVar_clock (s : State) (i : Instr) (ops : List Word) (ph : Phase) : (flyVar s i ops ph).clock = s.clock := rfl
@[simp] theorem flyVar_script (s : State) (i : Instr) (ops : List Word) (ph : Phase) : (flyVar s i ops ph).script = s.script := rfl
@[simp] theorem flyVar_cur (s : State) (i : Instr) (ops : List Word) (ph : Phase) : (flyVar s i ops ph).cur = s.cur := rfl
@[simp] theorem flyVar_inp (s : State) (i : Instr) (ops : List Word) (ph : Phase) : (flyVar s i ops ph).inp = s.inp := rfl
@[simp] theorem flyVar_free (s : State) (i : Instr) (ops : List Word) (ph : Phase) : (flyVar s i ops ph).free = s.free := rfl
@[simp] theorem flyVar_rtag (s : State) (i : Instr) (ops : List Word) (ph : Phase) : (flyVar s i ops ph).rtag = s.rtag := rfl
@[simp] theorem flyVar_out (s : State) (i : Instr) (ops : List Word) (ph : Phase) : (flyVar s i ops ph).out = s.out := rfl

@[simp] theorem flySoon_kilns (s : State) (i : Instr) (ops : List Word) : (flySoon s i ops).kilns = s.kilns := rfl
@[simp] theorem flySoon_mem (s : State) (i : Instr) (ops : List Word) : (flySoon s i ops).mem = s.mem := rfl
@[simp] theorem flySoon_gens (s : State) (i : Instr) (ops : List Word) : (flySoon s i ops).gens = s.gens := rfl
@[simp] theorem flySoon_hostMem (s : State) (i : Instr) (ops : List Word) : (flySoon s i ops).hostMem = s.hostMem := rfl
@[simp] theorem flySoon_peerMem (s : State) (i : Instr) (ops : List Word) : (flySoon s i ops).peerMem = s.peerMem := rfl
@[simp] theorem flySoon_l2 (s : State) (i : Instr) (ops : List Word) : (flySoon s i ops).l2 = s.l2 := rfl
@[simp] theorem flySoon_invs (s : State) (i : Instr) (ops : List Word) : (flySoon s i ops).invs = s.invs := rfl
@[simp] theorem flySoon_clks (s : State) (i : Instr) (ops : List Word) : (flySoon s i ops).clks = s.clks := rfl
@[simp] theorem flySoon_dieWr (s : State) (i : Instr) (ops : List Word) : (flySoon s i ops).dieWr = s.dieWr := rfl
@[simp] theorem flySoon_ltlb (s : State) (i : Instr) (ops : List Word) : (flySoon s i ops).ltlb = s.ltlb := rfl
@[simp] theorem flySoon_fmts (s : State) (i : Instr) (ops : List Word) : (flySoon s i ops).fmts = s.fmts := rfl
@[simp] theorem flySoon_hub (s : State) (i : Instr) (ops : List Word) : (flySoon s i ops).hub = s.hub := rfl
@[simp] theorem flySoon_clock (s : State) (i : Instr) (ops : List Word) : (flySoon s i ops).clock = s.clock := rfl
@[simp] theorem flySoon_script (s : State) (i : Instr) (ops : List Word) : (flySoon s i ops).script = s.script := rfl
@[simp] theorem flySoon_cur (s : State) (i : Instr) (ops : List Word) : (flySoon s i ops).cur = s.cur := rfl
@[simp] theorem flySoon_inp (s : State) (i : Instr) (ops : List Word) : (flySoon s i ops).inp = s.inp := rfl
@[simp] theorem flySoon_rtag (s : State) (i : Instr) (ops : List Word) : (flySoon s i ops).rtag = s.rtag := rfl
@[simp] theorem flySoon_out (s : State) (i : Instr) (ops : List Word) : (flySoon s i ops).out = s.out := rfl

/-! Cores, contexts and engines -/

@[simp] theorem Core.setCtx_scyc (k : Core) (x : Nat) (t : Ctx) : (k.setCtx x t).scyc = k.scyc := by unfold Core.setCtx; split <;> first | rfl | (split <;> rfl)
@[simp] theorem Core.setCtx_v (k : Core) (x : Nat) (t : Ctx) : (k.setCtx x t).v = k.v := by unfold Core.setCtx; split <;> first | rfl | (split <;> rfl)
@[simp] theorem Core.setCtx_p (k : Core) (x : Nat) (t : Ctx) : (k.setCtx x t).p = k.p := by unfold Core.setCtx; split <;> first | rfl | (split <;> rfl)
@[simp] theorem Core.setCtx_sys (k : Core) (x : Nat) (t : Ctx) : (k.setCtx x t).sys = k.sys := by unfold Core.setCtx; split <;> first | rfl | (split <;> rfl)
@[simp] theorem Core.setCtx_queues (k : Core) (x : Nat) (t : Ctx) : (k.setCtx x t).queues = k.queues := by unfold Core.setCtx; split <;> first | rfl | (split <;> rfl)
@[simp] theorem Core.setCtx_ports (k : Core) (x : Nat) (t : Ctx) : (k.setCtx x t).ports = k.ports := by unfold Core.setCtx; split <;> first | rfl | (split <;> rfl)
@[simp] theorem Core.setCtx_flags (k : Core) (x : Nat) (t : Ctx) : (k.setCtx x t).flags = k.flags := by unfold Core.setCtx; split <;> first | rfl | (split <;> rfl)
@[simp] theorem Core.setCtx_fhist (k : Core) (x : Nat) (t : Ctx) : (k.setCtx x t).fhist = k.fhist := by unfold Core.setCtx; split <;> first | rfl | (split <;> rfl)
@[simp] theorem Core.setCtx_flagOs (k : Core) (x : Nat) (t : Ctx) : (k.setCtx x t).flagOs = k.flagOs := by unfold Core.setCtx; split <;> first | rfl | (split <;> rfl)
@[simp] theorem Core.setCtx_incs (k : Core) (x : Nat) (t : Ctx) : (k.setCtx x t).incs = k.incs := by unfold Core.setCtx; split <;> first | rfl | (split <;> rfl)
@[simp] theorem Core.setCtx_va (k : Core) (x : Nat) (t : Ctx) : (k.setCtx x t).va = k.va := by unfold Core.setCtx; split <;> first | rfl | (split <;> rfl)
@[simp] theorem Core.setCtx_vb (k : Core) (x : Nat) (t : Ctx) : (k.setCtx x t).vb = k.vb := by unfold Core.setCtx; split <;> first | rfl | (split <;> rfl)
@[simp] theorem Core.setCtx_vaBusy (k : Core) (x : Nat) (t : Ctx) : (k.setCtx x t).vaBusy = k.vaBusy := by unfold Core.setCtx; split <;> first | rfl | (split <;> rfl)
@[simp] theorem Core.setCtx_vbBusy (k : Core) (x : Nat) (t : Ctx) : (k.setCtx x t).vbBusy = k.vbBusy := by unfold Core.setCtx; split <;> first | rfl | (split <;> rfl)
@[simp] theorem Core.setCtx_flights (k : Core) (x : Nat) (t : Ctx) : (k.setCtx x t).flights = k.flights := by unfold Core.setCtx; split <;> first | rfl | (split <;> rfl)
@[simp] theorem Core.setCtx_nextId (k : Core) (x : Nat) (t : Ctx) : (k.setCtx x t).nextId = k.nextId := by unfold Core.setCtx; split <;> first | rfl | (split <;> rfl)
@[simp] theorem Core.setCtx_wq (k : Core) (x : Nat) (t : Ctx) : (k.setCtx x t).wq = k.wq := by unfold Core.setCtx; split <;> first | rfl | (split <;> rfl)
@[simp] theorem Core.setCtx_e0 (k : Core) (x : Nat) (t : Ctx) : (k.setCtx x t).e0 = k.e0 := by unfold Core.setCtx; split <;> first | rfl | (split <;> rfl)
@[simp] theorem Core.setCtx_e1 (k : Core) (x : Nat) (t : Ctx) : (k.setCtx x t).e1 = k.e1 := by unfold Core.setCtx; split <;> first | rfl | (split <;> rfl)
@[simp] theorem Core.setCtx_em (k : Core) (x : Nat) (t : Ctx) : (k.setCtx x t).em = k.em := by unfold Core.setCtx; split <;> first | rfl | (split <;> rfl)
@[simp] theorem Core.setCtx_lease (k : Core) (x : Nat) (t : Ctx) : (k.setCtx x t).lease = k.lease := by unfold Core.setCtx; split <;> first | rfl | (split <;> rfl)
@[simp] theorem Core.setCtx_leaseReq (k : Core) (x : Nat) (t : Ctx) : (k.setCtx x t).leaseReq = k.leaseReq := by unfold Core.setCtx; split <;> first | rfl | (split <;> rfl)
@[simp] theorem Core.setCtx_recs (k : Core) (x : Nat) (t : Ctx) : (k.setCtx x t).recs = k.recs := by unfold Core.setCtx; split <;> first | rfl | (split <;> rfl)
@[simp] theorem Core.setCtx_sp (k : Core) (x : Nat) (t : Ctx) : (k.setCtx x t).sp = k.sp := by unfold Core.setCtx; split <;> first | rfl | (split <;> rfl)
@[simp] theorem Core.setCtx_bay (k : Core) (x : Nat) (t : Ctx) : (k.setCtx x t).bay = k.bay := by unfold Core.setCtx; split <;> first | rfl | (split <;> rfl)
@[simp] theorem Core.setCtx_gran (k : Core) (x : Nat) (t : Ctx) : (k.setCtx x t).gran = k.gran := by unfold Core.setCtx; split <;> first | rfl | (split <;> rfl)
@[simp] theorem Core.setCtx_split (k : Core) (x : Nat) (t : Ctx) : (k.setCtx x t).split = k.split := by unfold Core.setCtx; split <;> first | rfl | (split <;> rfl)
@[simp] theorem Core.setCtx_l1 (k : Core) (x : Nat) (t : Ctx) : (k.setCtx x t).l1 = k.l1 := by unfold Core.setCtx; split <;> first | rfl | (split <;> rfl)
@[simp] theorem Core.setCtx_l1gen (k : Core) (x : Nat) (t : Ctx) : (k.setCtx x t).l1gen = k.l1gen := by unfold Core.setCtx; split <;> first | rfl | (split <;> rfl)
@[simp] theorem Core.setCtx_sweep (k : Core) (x : Nat) (t : Ctx) : (k.setCtx x t).sweep = k.sweep := by unfold Core.setCtx; split <;> first | rfl | (split <;> rfl)
@[simp] theorem Core.setCtx_tlb (k : Core) (x : Nat) (t : Ctx) : (k.setCtx x t).tlb = k.tlb := by unfold Core.setCtx; split <;> first | rfl | (split <;> rfl)
@[simp] theorem Core.setCtx_far (k : Core) (x : Nat) (t : Ctx) : (k.setCtx x t).far = k.far := by unfold Core.setCtx; split <;> first | rfl | (split <;> rfl)
@[simp] theorem Core.setCtx_icache (k : Core) (x : Nat) (t : Ctx) : (k.setCtx x t).icache = k.icache := by unfold Core.setCtx; split <;> first | rfl | (split <;> rfl)
@[simp] theorem Core.setCtx_ilock (k : Core) (x : Nat) (t : Ctx) : (k.setCtx x t).ilock = k.ilock := by unfold Core.setCtx; split <;> first | rfl | (split <;> rfl)
@[simp] theorem Core.setCtx_hold (k : Core) (x : Nat) (t : Ctx) : (k.setCtx x t).hold = k.hold := by unfold Core.setCtx; split <;> first | rfl | (split <;> rfl)
@[simp] theorem Core.setCtx_miss (k : Core) (x : Nat) (t : Ctx) : (k.setCtx x t).miss = k.miss := by unfold Core.setCtx; split <;> first | rfl | (split <;> rfl)
@[simp] theorem Core.setCtx_raises (k : Core) (x : Nat) (t : Ctx) : (k.setCtx x t).raises = k.raises := by unfold Core.setCtx; split <;> first | rfl | (split <;> rfl)
@[simp] theorem Core.setCtx_stop (k : Core) (x : Nat) (t : Ctx) : (k.setCtx x t).stop = k.stop := by unfold Core.setCtx; split <;> first | rfl | (split <;> rfl)
@[simp] theorem Core.setCtx_hmode (k : Core) (x : Nat) (t : Ctx) : (k.setCtx x t).hmode = k.hmode := by unfold Core.setCtx; split <;> first | rfl | (split <;> rfl)
@[simp] theorem Core.setCtx_resumed (k : Core) (x : Nat) (t : Ctx) : (k.setCtx x t).resumed = k.resumed := by unfold Core.setCtx; split <;> first | rfl | (split <;> rfl)
@[simp] theorem Core.setCtx_hjob (k : Core) (x : Nat) (t : Ctx) : (k.setCtx x t).hjob = k.hjob := by unfold Core.setCtx; split <;> first | rfl | (split <;> rfl)
@[simp] theorem Core.setCtx_mute (k : Core) (x : Nat) (t : Ctx) : (k.setCtx x t).mute = k.mute := by unfold Core.setCtx; split <;> first | rfl | (split <;> rfl)
@[simp] theorem Core.setCtx_preempt (k : Core) (x : Nat) (t : Ctx) : (k.setCtx x t).preempt = k.preempt := by unfold Core.setCtx; split <;> first | rfl | (split <;> rfl)
@[simp] theorem Core.setCtx_job (k : Core) (x : Nat) (t : Ctx) : (k.setCtx x t).job = k.job := by unfold Core.setCtx; split <;> first | rfl | (split <;> rfl)
@[simp] theorem Core.setCtx_starting (k : Core) (x : Nat) (t : Ctx) : (k.setCtx x t).starting = k.starting := by unfold Core.setCtx; split <;> first | rfl | (split <;> rfl)
@[simp] theorem Core.setCtx_lastWorld (k : Core) (x : Nat) (t : Ctx) : (k.setCtx x t).lastWorld = k.lastWorld := by unfold Core.setCtx; split <;> first | rfl | (split <;> rfl)
@[simp] theorem Core.setCtx_clearing (k : Core) (x : Nat) (t : Ctx) : (k.setCtx x t).clearing = k.clearing := by unfold Core.setCtx; split <;> first | rfl | (split <;> rfl)
@[simp] theorem Core.setCtx_prep (k : Core) (x : Nat) (t : Ctx) : (k.setCtx x t).prep = k.prep := by unfold Core.setCtx; split <;> first | rfl | (split <;> rfl)
@[simp] theorem Core.setCtx_ended (k : Core) (x : Nat) (t : Ctx) : (k.setCtx x t).ended = k.ended := by unfold Core.setCtx; split <;> first | rfl | (split <;> rfl)
@[simp] theorem Core.setCtx_failed (k : Core) (x : Nat) (t : Ctx) : (k.setCtx x t).failed = k.failed := by unfold Core.setCtx; split <;> first | rfl | (split <;> rfl)
@[simp] theorem Core.setCtx_attached (k : Core) (x : Nat) (t : Ctx) : (k.setCtx x t).attached = k.attached := by unfold Core.setCtx; split <;> first | rfl | (split <;> rfl)
@[simp] theorem Core.setCtx_moved (k : Core) (x : Nat) (t : Ctx) : (k.setCtx x t).moved = k.moved := by unfold Core.setCtx; split <;> first | rfl | (split <;> rfl)
@[simp] theorem Core.setCtx_rot (k : Core) (x : Nat) (t : Ctx) : (k.setCtx x t).rot = k.rot := by unfold Core.setCtx; split <;> first | rfl | (split <;> rfl)
@[simp] theorem Core.setCtx_back (k : Core) (x : Nat) (t : Ctx) : (k.setCtx x t).back = k.back := by unfold Core.setCtx; split <;> first | rfl | (split <;> rfl)
@[simp] theorem Core.setCtx_halted (k : Core) (x : Nat) (t : Ctx) : (k.setCtx x t).halted = k.halted := by unfold Core.setCtx; split <;> first | rfl | (split <;> rfl)
@[simp] theorem Core.setCtx_bps (k : Core) (x : Nat) (t : Ctx) : (k.setCtx x t).bps = k.bps := by unfold Core.setCtx; split <;> first | rfl | (split <;> rfl)
@[simp] theorem Core.setCtx_bpskip (k : Core) (x : Nat) (t : Ctx) : (k.setCtx x t).bpskip = k.bpskip := by unfold Core.setCtx; split <;> first | rfl | (split <;> rfl)
@[simp] theorem Core.setCtx_hreq (k : Core) (x : Nat) (t : Ctx) : (k.setCtx x t).hreq = k.hreq := by unfold Core.setCtx; split <;> first | rfl | (split <;> rfl)
@[simp] theorem Core.setCtx_wdleft (k : Core) (x : Nat) (t : Ctx) : (k.setCtx x t).wdleft = k.wdleft := by unfold Core.setCtx; split <;> first | rfl | (split <;> rfl)
@[simp] theorem Core.setCtx_parcels (k : Core) (x : Nat) (t : Ctx) : (k.setCtx x t).parcels = k.parcels := by unfold Core.setCtx; split <;> first | rfl | (split <;> rfl)
@[simp] theorem Core.setCtx_banks (k : Core) (x : Nat) (t : Ctx) : (k.setCtx x t).banks = k.banks := by unfold Core.setCtx; split <;> first | rfl | (split <;> rfl)
@[simp] theorem Core.setCtx_refr (k : Core) (x : Nat) (t : Ctx) : (k.setCtx x t).refr = k.refr := by unfold Core.setCtx; split <;> first | rfl | (split <;> rfl)
@[simp] theorem Core.setCtx_passes (k : Core) (x : Nat) (t : Ctx) : (k.setCtx x t).passes = k.passes := by unfold Core.setCtx; split <;> first | rfl | (split <;> rfl)
@[simp] theorem Core.setCtx_todo (k : Core) (x : Nat) (t : Ctx) : (k.setCtx x t).todo = k.todo := by unfold Core.setCtx; split <;> first | rfl | (split <;> rfl)
@[simp] theorem Core.setCtx_ctr (k : Core) (x : Nat) (t : Ctx) : (k.setCtx x t).ctr = k.ctr := by unfold Core.setCtx; split <;> first | rfl | (split <;> rfl)
@[simp] theorem Core.setCtx_cntovf (k : Core) (x : Nat) (t : Ctx) : (k.setCtx x t).cntovf = k.cntovf := by unfold Core.setCtx; split <;> first | rfl | (split <;> rfl)
@[simp] theorem Core.setCtx_cntcfg (k : Core) (x : Nat) (t : Ctx) : (k.setCtx x t).cntcfg = k.cntcfg := by unfold Core.setCtx; split <;> first | rfl | (split <;> rfl)
@[simp] theorem Core.setCtx_cnew (k : Core) (x : Nat) (t : Ctx) : (k.setCtx x t).cnew = k.cnew := by unfold Core.setCtx; split <;> first | rfl | (split <;> rfl)
@[simp] theorem Core.setCtx_cclr (k : Core) (x : Nat) (t : Ctx) : (k.setCtx x t).cclr = k.cclr := by unfold Core.setCtx; split <;> first | rfl | (split <;> rfl)
@[simp] theorem Core.setCtx_cfgNext (k : Core) (x : Nat) (t : Ctx) : (k.setCtx x t).cfgNext = k.cfgNext := by unfold Core.setCtx; split <;> first | rfl | (split <;> rfl)

@[simp] theorem Core.modCtx_scyc (k : Core) (x : Nat) (g : Ctx → Ctx) : (k.modCtx x g).scyc = k.scyc := Core.setCtx_scyc k _ _
@[simp] theorem Core.modCtx_v (k : Core) (x : Nat) (g : Ctx → Ctx) : (k.modCtx x g).v = k.v := Core.setCtx_v k _ _
@[simp] theorem Core.modCtx_p (k : Core) (x : Nat) (g : Ctx → Ctx) : (k.modCtx x g).p = k.p := Core.setCtx_p k _ _
@[simp] theorem Core.modCtx_sys (k : Core) (x : Nat) (g : Ctx → Ctx) : (k.modCtx x g).sys = k.sys := Core.setCtx_sys k _ _
@[simp] theorem Core.modCtx_queues (k : Core) (x : Nat) (g : Ctx → Ctx) : (k.modCtx x g).queues = k.queues := Core.setCtx_queues k _ _
@[simp] theorem Core.modCtx_ports (k : Core) (x : Nat) (g : Ctx → Ctx) : (k.modCtx x g).ports = k.ports := Core.setCtx_ports k _ _
@[simp] theorem Core.modCtx_flags (k : Core) (x : Nat) (g : Ctx → Ctx) : (k.modCtx x g).flags = k.flags := Core.setCtx_flags k _ _
@[simp] theorem Core.modCtx_fhist (k : Core) (x : Nat) (g : Ctx → Ctx) : (k.modCtx x g).fhist = k.fhist := Core.setCtx_fhist k _ _
@[simp] theorem Core.modCtx_flagOs (k : Core) (x : Nat) (g : Ctx → Ctx) : (k.modCtx x g).flagOs = k.flagOs := Core.setCtx_flagOs k _ _
@[simp] theorem Core.modCtx_incs (k : Core) (x : Nat) (g : Ctx → Ctx) : (k.modCtx x g).incs = k.incs := Core.setCtx_incs k _ _
@[simp] theorem Core.modCtx_va (k : Core) (x : Nat) (g : Ctx → Ctx) : (k.modCtx x g).va = k.va := Core.setCtx_va k _ _
@[simp] theorem Core.modCtx_vb (k : Core) (x : Nat) (g : Ctx → Ctx) : (k.modCtx x g).vb = k.vb := Core.setCtx_vb k _ _
@[simp] theorem Core.modCtx_vaBusy (k : Core) (x : Nat) (g : Ctx → Ctx) : (k.modCtx x g).vaBusy = k.vaBusy := Core.setCtx_vaBusy k _ _
@[simp] theorem Core.modCtx_vbBusy (k : Core) (x : Nat) (g : Ctx → Ctx) : (k.modCtx x g).vbBusy = k.vbBusy := Core.setCtx_vbBusy k _ _
@[simp] theorem Core.modCtx_flights (k : Core) (x : Nat) (g : Ctx → Ctx) : (k.modCtx x g).flights = k.flights := Core.setCtx_flights k _ _
@[simp] theorem Core.modCtx_nextId (k : Core) (x : Nat) (g : Ctx → Ctx) : (k.modCtx x g).nextId = k.nextId := Core.setCtx_nextId k _ _
@[simp] theorem Core.modCtx_wq (k : Core) (x : Nat) (g : Ctx → Ctx) : (k.modCtx x g).wq = k.wq := Core.setCtx_wq k _ _
@[simp] theorem Core.modCtx_e0 (k : Core) (x : Nat) (g : Ctx → Ctx) : (k.modCtx x g).e0 = k.e0 := Core.setCtx_e0 k _ _
@[simp] theorem Core.modCtx_e1 (k : Core) (x : Nat) (g : Ctx → Ctx) : (k.modCtx x g).e1 = k.e1 := Core.setCtx_e1 k _ _
@[simp] theorem Core.modCtx_em (k : Core) (x : Nat) (g : Ctx → Ctx) : (k.modCtx x g).em = k.em := Core.setCtx_em k _ _
@[simp] theorem Core.modCtx_lease (k : Core) (x : Nat) (g : Ctx → Ctx) : (k.modCtx x g).lease = k.lease := Core.setCtx_lease k _ _
@[simp] theorem Core.modCtx_leaseReq (k : Core) (x : Nat) (g : Ctx → Ctx) : (k.modCtx x g).leaseReq = k.leaseReq := Core.setCtx_leaseReq k _ _
@[simp] theorem Core.modCtx_recs (k : Core) (x : Nat) (g : Ctx → Ctx) : (k.modCtx x g).recs = k.recs := Core.setCtx_recs k _ _
@[simp] theorem Core.modCtx_sp (k : Core) (x : Nat) (g : Ctx → Ctx) : (k.modCtx x g).sp = k.sp := Core.setCtx_sp k _ _
@[simp] theorem Core.modCtx_bay (k : Core) (x : Nat) (g : Ctx → Ctx) : (k.modCtx x g).bay = k.bay := Core.setCtx_bay k _ _
@[simp] theorem Core.modCtx_gran (k : Core) (x : Nat) (g : Ctx → Ctx) : (k.modCtx x g).gran = k.gran := Core.setCtx_gran k _ _
@[simp] theorem Core.modCtx_split (k : Core) (x : Nat) (g : Ctx → Ctx) : (k.modCtx x g).split = k.split := Core.setCtx_split k _ _
@[simp] theorem Core.modCtx_l1 (k : Core) (x : Nat) (g : Ctx → Ctx) : (k.modCtx x g).l1 = k.l1 := Core.setCtx_l1 k _ _
@[simp] theorem Core.modCtx_l1gen (k : Core) (x : Nat) (g : Ctx → Ctx) : (k.modCtx x g).l1gen = k.l1gen := Core.setCtx_l1gen k _ _
@[simp] theorem Core.modCtx_sweep (k : Core) (x : Nat) (g : Ctx → Ctx) : (k.modCtx x g).sweep = k.sweep := Core.setCtx_sweep k _ _
@[simp] theorem Core.modCtx_tlb (k : Core) (x : Nat) (g : Ctx → Ctx) : (k.modCtx x g).tlb = k.tlb := Core.setCtx_tlb k _ _
@[simp] theorem Core.modCtx_far (k : Core) (x : Nat) (g : Ctx → Ctx) : (k.modCtx x g).far = k.far := Core.setCtx_far k _ _
@[simp] theorem Core.modCtx_icache (k : Core) (x : Nat) (g : Ctx → Ctx) : (k.modCtx x g).icache = k.icache := Core.setCtx_icache k _ _
@[simp] theorem Core.modCtx_ilock (k : Core) (x : Nat) (g : Ctx → Ctx) : (k.modCtx x g).ilock = k.ilock := Core.setCtx_ilock k _ _
@[simp] theorem Core.modCtx_hold (k : Core) (x : Nat) (g : Ctx → Ctx) : (k.modCtx x g).hold = k.hold := Core.setCtx_hold k _ _
@[simp] theorem Core.modCtx_miss (k : Core) (x : Nat) (g : Ctx → Ctx) : (k.modCtx x g).miss = k.miss := Core.setCtx_miss k _ _
@[simp] theorem Core.modCtx_raises (k : Core) (x : Nat) (g : Ctx → Ctx) : (k.modCtx x g).raises = k.raises := Core.setCtx_raises k _ _
@[simp] theorem Core.modCtx_stop (k : Core) (x : Nat) (g : Ctx → Ctx) : (k.modCtx x g).stop = k.stop := Core.setCtx_stop k _ _
@[simp] theorem Core.modCtx_hmode (k : Core) (x : Nat) (g : Ctx → Ctx) : (k.modCtx x g).hmode = k.hmode := Core.setCtx_hmode k _ _
@[simp] theorem Core.modCtx_resumed (k : Core) (x : Nat) (g : Ctx → Ctx) : (k.modCtx x g).resumed = k.resumed := Core.setCtx_resumed k _ _
@[simp] theorem Core.modCtx_hjob (k : Core) (x : Nat) (g : Ctx → Ctx) : (k.modCtx x g).hjob = k.hjob := Core.setCtx_hjob k _ _
@[simp] theorem Core.modCtx_mute (k : Core) (x : Nat) (g : Ctx → Ctx) : (k.modCtx x g).mute = k.mute := Core.setCtx_mute k _ _
@[simp] theorem Core.modCtx_preempt (k : Core) (x : Nat) (g : Ctx → Ctx) : (k.modCtx x g).preempt = k.preempt := Core.setCtx_preempt k _ _
@[simp] theorem Core.modCtx_job (k : Core) (x : Nat) (g : Ctx → Ctx) : (k.modCtx x g).job = k.job := Core.setCtx_job k _ _
@[simp] theorem Core.modCtx_starting (k : Core) (x : Nat) (g : Ctx → Ctx) : (k.modCtx x g).starting = k.starting := Core.setCtx_starting k _ _
@[simp] theorem Core.modCtx_lastWorld (k : Core) (x : Nat) (g : Ctx → Ctx) : (k.modCtx x g).lastWorld = k.lastWorld := Core.setCtx_lastWorld k _ _
@[simp] theorem Core.modCtx_clearing (k : Core) (x : Nat) (g : Ctx → Ctx) : (k.modCtx x g).clearing = k.clearing := Core.setCtx_clearing k _ _
@[simp] theorem Core.modCtx_prep (k : Core) (x : Nat) (g : Ctx → Ctx) : (k.modCtx x g).prep = k.prep := Core.setCtx_prep k _ _
@[simp] theorem Core.modCtx_ended (k : Core) (x : Nat) (g : Ctx → Ctx) : (k.modCtx x g).ended = k.ended := Core.setCtx_ended k _ _
@[simp] theorem Core.modCtx_failed (k : Core) (x : Nat) (g : Ctx → Ctx) : (k.modCtx x g).failed = k.failed := Core.setCtx_failed k _ _
@[simp] theorem Core.modCtx_attached (k : Core) (x : Nat) (g : Ctx → Ctx) : (k.modCtx x g).attached = k.attached := Core.setCtx_attached k _ _
@[simp] theorem Core.modCtx_moved (k : Core) (x : Nat) (g : Ctx → Ctx) : (k.modCtx x g).moved = k.moved := Core.setCtx_moved k _ _
@[simp] theorem Core.modCtx_rot (k : Core) (x : Nat) (g : Ctx → Ctx) : (k.modCtx x g).rot = k.rot := Core.setCtx_rot k _ _
@[simp] theorem Core.modCtx_back (k : Core) (x : Nat) (g : Ctx → Ctx) : (k.modCtx x g).back = k.back := Core.setCtx_back k _ _
@[simp] theorem Core.modCtx_halted (k : Core) (x : Nat) (g : Ctx → Ctx) : (k.modCtx x g).halted = k.halted := Core.setCtx_halted k _ _
@[simp] theorem Core.modCtx_bps (k : Core) (x : Nat) (g : Ctx → Ctx) : (k.modCtx x g).bps = k.bps := Core.setCtx_bps k _ _
@[simp] theorem Core.modCtx_bpskip (k : Core) (x : Nat) (g : Ctx → Ctx) : (k.modCtx x g).bpskip = k.bpskip := Core.setCtx_bpskip k _ _
@[simp] theorem Core.modCtx_hreq (k : Core) (x : Nat) (g : Ctx → Ctx) : (k.modCtx x g).hreq = k.hreq := Core.setCtx_hreq k _ _
@[simp] theorem Core.modCtx_wdleft (k : Core) (x : Nat) (g : Ctx → Ctx) : (k.modCtx x g).wdleft = k.wdleft := Core.setCtx_wdleft k _ _
@[simp] theorem Core.modCtx_parcels (k : Core) (x : Nat) (g : Ctx → Ctx) : (k.modCtx x g).parcels = k.parcels := Core.setCtx_parcels k _ _
@[simp] theorem Core.modCtx_banks (k : Core) (x : Nat) (g : Ctx → Ctx) : (k.modCtx x g).banks = k.banks := Core.setCtx_banks k _ _
@[simp] theorem Core.modCtx_refr (k : Core) (x : Nat) (g : Ctx → Ctx) : (k.modCtx x g).refr = k.refr := Core.setCtx_refr k _ _
@[simp] theorem Core.modCtx_passes (k : Core) (x : Nat) (g : Ctx → Ctx) : (k.modCtx x g).passes = k.passes := Core.setCtx_passes k _ _
@[simp] theorem Core.modCtx_todo (k : Core) (x : Nat) (g : Ctx → Ctx) : (k.modCtx x g).todo = k.todo := Core.setCtx_todo k _ _
@[simp] theorem Core.modCtx_ctr (k : Core) (x : Nat) (g : Ctx → Ctx) : (k.modCtx x g).ctr = k.ctr := Core.setCtx_ctr k _ _
@[simp] theorem Core.modCtx_cntovf (k : Core) (x : Nat) (g : Ctx → Ctx) : (k.modCtx x g).cntovf = k.cntovf := Core.setCtx_cntovf k _ _
@[simp] theorem Core.modCtx_cntcfg (k : Core) (x : Nat) (g : Ctx → Ctx) : (k.modCtx x g).cntcfg = k.cntcfg := Core.setCtx_cntcfg k _ _
@[simp] theorem Core.modCtx_cnew (k : Core) (x : Nat) (g : Ctx → Ctx) : (k.modCtx x g).cnew = k.cnew := Core.setCtx_cnew k _ _
@[simp] theorem Core.modCtx_cclr (k : Core) (x : Nat) (g : Ctx → Ctx) : (k.modCtx x g).cclr = k.cclr := Core.setCtx_cclr k _ _
@[simp] theorem Core.modCtx_cfgNext (k : Core) (x : Nat) (g : Ctx → Ctx) : (k.modCtx x g).cfgNext = k.cfgNext := Core.setCtx_cfgNext k _ _

@[simp] theorem Core.setEng_scyc (k : Core) (e : Nat) (x : Eng) : (k.setEng e x).scyc = k.scyc := by unfold Core.setEng; split <;> first | rfl | (split <;> rfl)
@[simp] theorem Core.setEng_cl (k : Core) (e : Nat) (x : Eng) : (k.setEng e x).cl = k.cl := by unfold Core.setEng; split <;> first | rfl | (split <;> rfl)
@[simp] theorem Core.setEng_ck (k : Core) (e : Nat) (x : Eng) : (k.setEng e x).ck = k.ck := by unfold Core.setEng; split <;> first | rfl | (split <;> rfl)
@[simp] theorem Core.setEng_cs (k : Core) (e : Nat) (x : Eng) : (k.setEng e x).cs = k.cs := by unfold Core.setEng; split <;> first | rfl | (split <;> rfl)
@[simp] theorem Core.setEng_v (k : Core) (e : Nat) (x : Eng) : (k.setEng e x).v = k.v := by unfold Core.setEng; split <;> first | rfl | (split <;> rfl)
@[simp] theorem Core.setEng_p (k : Core) (e : Nat) (x : Eng) : (k.setEng e x).p = k.p := by unfold Core.setEng; split <;> first | rfl | (split <;> rfl)
@[simp] theorem Core.setEng_sys (k : Core) (e : Nat) (x : Eng) : (k.setEng e x).sys = k.sys := by unfold Core.setEng; split <;> first | rfl | (split <;> rfl)
@[simp] theorem Core.setEng_queues (k : Core) (e : Nat) (x : Eng) : (k.setEng e x).queues = k.queues := by unfold Core.setEng; split <;> first | rfl | (split <;> rfl)
@[simp] theorem Core.setEng_ports (k : Core) (e : Nat) (x : Eng) : (k.setEng e x).ports = k.ports := by unfold Core.setEng; split <;> first | rfl | (split <;> rfl)
@[simp] theorem Core.setEng_flags (k : Core) (e : Nat) (x : Eng) : (k.setEng e x).flags = k.flags := by unfold Core.setEng; split <;> first | rfl | (split <;> rfl)
@[simp] theorem Core.setEng_fhist (k : Core) (e : Nat) (x : Eng) : (k.setEng e x).fhist = k.fhist := by unfold Core.setEng; split <;> first | rfl | (split <;> rfl)
@[simp] theorem Core.setEng_flagOs (k : Core) (e : Nat) (x : Eng) : (k.setEng e x).flagOs = k.flagOs := by unfold Core.setEng; split <;> first | rfl | (split <;> rfl)
@[simp] theorem Core.setEng_incs (k : Core) (e : Nat) (x : Eng) : (k.setEng e x).incs = k.incs := by unfold Core.setEng; split <;> first | rfl | (split <;> rfl)
@[simp] theorem Core.setEng_va (k : Core) (e : Nat) (x : Eng) : (k.setEng e x).va = k.va := by unfold Core.setEng; split <;> first | rfl | (split <;> rfl)
@[simp] theorem Core.setEng_vb (k : Core) (e : Nat) (x : Eng) : (k.setEng e x).vb = k.vb := by unfold Core.setEng; split <;> first | rfl | (split <;> rfl)
@[simp] theorem Core.setEng_vaBusy (k : Core) (e : Nat) (x : Eng) : (k.setEng e x).vaBusy = k.vaBusy := by unfold Core.setEng; split <;> first | rfl | (split <;> rfl)
@[simp] theorem Core.setEng_vbBusy (k : Core) (e : Nat) (x : Eng) : (k.setEng e x).vbBusy = k.vbBusy := by unfold Core.setEng; split <;> first | rfl | (split <;> rfl)
@[simp] theorem Core.setEng_flights (k : Core) (e : Nat) (x : Eng) : (k.setEng e x).flights = k.flights := by unfold Core.setEng; split <;> first | rfl | (split <;> rfl)
@[simp] theorem Core.setEng_nextId (k : Core) (e : Nat) (x : Eng) : (k.setEng e x).nextId = k.nextId := by unfold Core.setEng; split <;> first | rfl | (split <;> rfl)
@[simp] theorem Core.setEng_wq (k : Core) (e : Nat) (x : Eng) : (k.setEng e x).wq = k.wq := by unfold Core.setEng; split <;> first | rfl | (split <;> rfl)
@[simp] theorem Core.setEng_lease (k : Core) (e : Nat) (x : Eng) : (k.setEng e x).lease = k.lease := by unfold Core.setEng; split <;> first | rfl | (split <;> rfl)
@[simp] theorem Core.setEng_leaseReq (k : Core) (e : Nat) (x : Eng) : (k.setEng e x).leaseReq = k.leaseReq := by unfold Core.setEng; split <;> first | rfl | (split <;> rfl)
@[simp] theorem Core.setEng_recs (k : Core) (e : Nat) (x : Eng) : (k.setEng e x).recs = k.recs := by unfold Core.setEng; split <;> first | rfl | (split <;> rfl)
@[simp] theorem Core.setEng_sp (k : Core) (e : Nat) (x : Eng) : (k.setEng e x).sp = k.sp := by unfold Core.setEng; split <;> first | rfl | (split <;> rfl)
@[simp] theorem Core.setEng_bay (k : Core) (e : Nat) (x : Eng) : (k.setEng e x).bay = k.bay := by unfold Core.setEng; split <;> first | rfl | (split <;> rfl)
@[simp] theorem Core.setEng_gran (k : Core) (e : Nat) (x : Eng) : (k.setEng e x).gran = k.gran := by unfold Core.setEng; split <;> first | rfl | (split <;> rfl)
@[simp] theorem Core.setEng_split (k : Core) (e : Nat) (x : Eng) : (k.setEng e x).split = k.split := by unfold Core.setEng; split <;> first | rfl | (split <;> rfl)
@[simp] theorem Core.setEng_l1 (k : Core) (e : Nat) (x : Eng) : (k.setEng e x).l1 = k.l1 := by unfold Core.setEng; split <;> first | rfl | (split <;> rfl)
@[simp] theorem Core.setEng_l1gen (k : Core) (e : Nat) (x : Eng) : (k.setEng e x).l1gen = k.l1gen := by unfold Core.setEng; split <;> first | rfl | (split <;> rfl)
@[simp] theorem Core.setEng_sweep (k : Core) (e : Nat) (x : Eng) : (k.setEng e x).sweep = k.sweep := by unfold Core.setEng; split <;> first | rfl | (split <;> rfl)
@[simp] theorem Core.setEng_tlb (k : Core) (e : Nat) (x : Eng) : (k.setEng e x).tlb = k.tlb := by unfold Core.setEng; split <;> first | rfl | (split <;> rfl)
@[simp] theorem Core.setEng_far (k : Core) (e : Nat) (x : Eng) : (k.setEng e x).far = k.far := by unfold Core.setEng; split <;> first | rfl | (split <;> rfl)
@[simp] theorem Core.setEng_icache (k : Core) (e : Nat) (x : Eng) : (k.setEng e x).icache = k.icache := by unfold Core.setEng; split <;> first | rfl | (split <;> rfl)
@[simp] theorem Core.setEng_ilock (k : Core) (e : Nat) (x : Eng) : (k.setEng e x).ilock = k.ilock := by unfold Core.setEng; split <;> first | rfl | (split <;> rfl)
@[simp] theorem Core.setEng_hold (k : Core) (e : Nat) (x : Eng) : (k.setEng e x).hold = k.hold := by unfold Core.setEng; split <;> first | rfl | (split <;> rfl)
@[simp] theorem Core.setEng_miss (k : Core) (e : Nat) (x : Eng) : (k.setEng e x).miss = k.miss := by unfold Core.setEng; split <;> first | rfl | (split <;> rfl)
@[simp] theorem Core.setEng_raises (k : Core) (e : Nat) (x : Eng) : (k.setEng e x).raises = k.raises := by unfold Core.setEng; split <;> first | rfl | (split <;> rfl)
@[simp] theorem Core.setEng_stop (k : Core) (e : Nat) (x : Eng) : (k.setEng e x).stop = k.stop := by unfold Core.setEng; split <;> first | rfl | (split <;> rfl)
@[simp] theorem Core.setEng_hmode (k : Core) (e : Nat) (x : Eng) : (k.setEng e x).hmode = k.hmode := by unfold Core.setEng; split <;> first | rfl | (split <;> rfl)
@[simp] theorem Core.setEng_resumed (k : Core) (e : Nat) (x : Eng) : (k.setEng e x).resumed = k.resumed := by unfold Core.setEng; split <;> first | rfl | (split <;> rfl)
@[simp] theorem Core.setEng_hjob (k : Core) (e : Nat) (x : Eng) : (k.setEng e x).hjob = k.hjob := by unfold Core.setEng; split <;> first | rfl | (split <;> rfl)
@[simp] theorem Core.setEng_mute (k : Core) (e : Nat) (x : Eng) : (k.setEng e x).mute = k.mute := by unfold Core.setEng; split <;> first | rfl | (split <;> rfl)
@[simp] theorem Core.setEng_preempt (k : Core) (e : Nat) (x : Eng) : (k.setEng e x).preempt = k.preempt := by unfold Core.setEng; split <;> first | rfl | (split <;> rfl)
@[simp] theorem Core.setEng_job (k : Core) (e : Nat) (x : Eng) : (k.setEng e x).job = k.job := by unfold Core.setEng; split <;> first | rfl | (split <;> rfl)
@[simp] theorem Core.setEng_starting (k : Core) (e : Nat) (x : Eng) : (k.setEng e x).starting = k.starting := by unfold Core.setEng; split <;> first | rfl | (split <;> rfl)
@[simp] theorem Core.setEng_lastWorld (k : Core) (e : Nat) (x : Eng) : (k.setEng e x).lastWorld = k.lastWorld := by unfold Core.setEng; split <;> first | rfl | (split <;> rfl)
@[simp] theorem Core.setEng_clearing (k : Core) (e : Nat) (x : Eng) : (k.setEng e x).clearing = k.clearing := by unfold Core.setEng; split <;> first | rfl | (split <;> rfl)
@[simp] theorem Core.setEng_prep (k : Core) (e : Nat) (x : Eng) : (k.setEng e x).prep = k.prep := by unfold Core.setEng; split <;> first | rfl | (split <;> rfl)
@[simp] theorem Core.setEng_ended (k : Core) (e : Nat) (x : Eng) : (k.setEng e x).ended = k.ended := by unfold Core.setEng; split <;> first | rfl | (split <;> rfl)
@[simp] theorem Core.setEng_failed (k : Core) (e : Nat) (x : Eng) : (k.setEng e x).failed = k.failed := by unfold Core.setEng; split <;> first | rfl | (split <;> rfl)
@[simp] theorem Core.setEng_attached (k : Core) (e : Nat) (x : Eng) : (k.setEng e x).attached = k.attached := by unfold Core.setEng; split <;> first | rfl | (split <;> rfl)
@[simp] theorem Core.setEng_moved (k : Core) (e : Nat) (x : Eng) : (k.setEng e x).moved = k.moved := by unfold Core.setEng; split <;> first | rfl | (split <;> rfl)
@[simp] theorem Core.setEng_rot (k : Core) (e : Nat) (x : Eng) : (k.setEng e x).rot = k.rot := by unfold Core.setEng; split <;> first | rfl | (split <;> rfl)
@[simp] theorem Core.setEng_back (k : Core) (e : Nat) (x : Eng) : (k.setEng e x).back = k.back := by unfold Core.setEng; split <;> first | rfl | (split <;> rfl)
@[simp] theorem Core.setEng_halted (k : Core) (e : Nat) (x : Eng) : (k.setEng e x).halted = k.halted := by unfold Core.setEng; split <;> first | rfl | (split <;> rfl)
@[simp] theorem Core.setEng_bps (k : Core) (e : Nat) (x : Eng) : (k.setEng e x).bps = k.bps := by unfold Core.setEng; split <;> first | rfl | (split <;> rfl)
@[simp] theorem Core.setEng_bpskip (k : Core) (e : Nat) (x : Eng) : (k.setEng e x).bpskip = k.bpskip := by unfold Core.setEng; split <;> first | rfl | (split <;> rfl)
@[simp] theorem Core.setEng_hreq (k : Core) (e : Nat) (x : Eng) : (k.setEng e x).hreq = k.hreq := by unfold Core.setEng; split <;> first | rfl | (split <;> rfl)
@[simp] theorem Core.setEng_wdleft (k : Core) (e : Nat) (x : Eng) : (k.setEng e x).wdleft = k.wdleft := by unfold Core.setEng; split <;> first | rfl | (split <;> rfl)
@[simp] theorem Core.setEng_parcels (k : Core) (e : Nat) (x : Eng) : (k.setEng e x).parcels = k.parcels := by unfold Core.setEng; split <;> first | rfl | (split <;> rfl)
@[simp] theorem Core.setEng_banks (k : Core) (e : Nat) (x : Eng) : (k.setEng e x).banks = k.banks := by unfold Core.setEng; split <;> first | rfl | (split <;> rfl)
@[simp] theorem Core.setEng_refr (k : Core) (e : Nat) (x : Eng) : (k.setEng e x).refr = k.refr := by unfold Core.setEng; split <;> first | rfl | (split <;> rfl)
@[simp] theorem Core.setEng_passes (k : Core) (e : Nat) (x : Eng) : (k.setEng e x).passes = k.passes := by unfold Core.setEng; split <;> first | rfl | (split <;> rfl)
@[simp] theorem Core.setEng_todo (k : Core) (e : Nat) (x : Eng) : (k.setEng e x).todo = k.todo := by unfold Core.setEng; split <;> first | rfl | (split <;> rfl)
@[simp] theorem Core.setEng_ctr (k : Core) (e : Nat) (x : Eng) : (k.setEng e x).ctr = k.ctr := by unfold Core.setEng; split <;> first | rfl | (split <;> rfl)
@[simp] theorem Core.setEng_cntovf (k : Core) (e : Nat) (x : Eng) : (k.setEng e x).cntovf = k.cntovf := by unfold Core.setEng; split <;> first | rfl | (split <;> rfl)
@[simp] theorem Core.setEng_cntcfg (k : Core) (e : Nat) (x : Eng) : (k.setEng e x).cntcfg = k.cntcfg := by unfold Core.setEng; split <;> first | rfl | (split <;> rfl)
@[simp] theorem Core.setEng_cnew (k : Core) (e : Nat) (x : Eng) : (k.setEng e x).cnew = k.cnew := by unfold Core.setEng; split <;> first | rfl | (split <;> rfl)
@[simp] theorem Core.setEng_cclr (k : Core) (e : Nat) (x : Eng) : (k.setEng e x).cclr = k.cclr := by unfold Core.setEng; split <;> first | rfl | (split <;> rfl)
@[simp] theorem Core.setEng_cfgNext (k : Core) (e : Nat) (x : Eng) : (k.setEng e x).cfgNext = k.cfgNext := by unfold Core.setEng; split <;> first | rfl | (split <;> rfl)

@[simp] theorem Core.modEng_scyc (k : Core) (e : Nat) (g : Eng → Eng) : (k.modEng e g).scyc = k.scyc := Core.setEng_scyc k _ _
@[simp] theorem Core.modEng_cl (k : Core) (e : Nat) (g : Eng → Eng) : (k.modEng e g).cl = k.cl := Core.setEng_cl k _ _
@[simp] theorem Core.modEng_ck (k : Core) (e : Nat) (g : Eng → Eng) : (k.modEng e g).ck = k.ck := Core.setEng_ck k _ _
@[simp] theorem Core.modEng_cs (k : Core) (e : Nat) (g : Eng → Eng) : (k.modEng e g).cs = k.cs := Core.setEng_cs k _ _
@[simp] theorem Core.modEng_v (k : Core) (e : Nat) (g : Eng → Eng) : (k.modEng e g).v = k.v := Core.setEng_v k _ _
@[simp] theorem Core.modEng_p (k : Core) (e : Nat) (g : Eng → Eng) : (k.modEng e g).p = k.p := Core.setEng_p k _ _
@[simp] theorem Core.modEng_sys (k : Core) (e : Nat) (g : Eng → Eng) : (k.modEng e g).sys = k.sys := Core.setEng_sys k _ _
@[simp] theorem Core.modEng_queues (k : Core) (e : Nat) (g : Eng → Eng) : (k.modEng e g).queues = k.queues := Core.setEng_queues k _ _
@[simp] theorem Core.modEng_ports (k : Core) (e : Nat) (g : Eng → Eng) : (k.modEng e g).ports = k.ports := Core.setEng_ports k _ _
@[simp] theorem Core.modEng_flags (k : Core) (e : Nat) (g : Eng → Eng) : (k.modEng e g).flags = k.flags := Core.setEng_flags k _ _
@[simp] theorem Core.modEng_fhist (k : Core) (e : Nat) (g : Eng → Eng) : (k.modEng e g).fhist = k.fhist := Core.setEng_fhist k _ _
@[simp] theorem Core.modEng_flagOs (k : Core) (e : Nat) (g : Eng → Eng) : (k.modEng e g).flagOs = k.flagOs := Core.setEng_flagOs k _ _
@[simp] theorem Core.modEng_incs (k : Core) (e : Nat) (g : Eng → Eng) : (k.modEng e g).incs = k.incs := Core.setEng_incs k _ _
@[simp] theorem Core.modEng_va (k : Core) (e : Nat) (g : Eng → Eng) : (k.modEng e g).va = k.va := Core.setEng_va k _ _
@[simp] theorem Core.modEng_vb (k : Core) (e : Nat) (g : Eng → Eng) : (k.modEng e g).vb = k.vb := Core.setEng_vb k _ _
@[simp] theorem Core.modEng_vaBusy (k : Core) (e : Nat) (g : Eng → Eng) : (k.modEng e g).vaBusy = k.vaBusy := Core.setEng_vaBusy k _ _
@[simp] theorem Core.modEng_vbBusy (k : Core) (e : Nat) (g : Eng → Eng) : (k.modEng e g).vbBusy = k.vbBusy := Core.setEng_vbBusy k _ _
@[simp] theorem Core.modEng_flights (k : Core) (e : Nat) (g : Eng → Eng) : (k.modEng e g).flights = k.flights := Core.setEng_flights k _ _
@[simp] theorem Core.modEng_nextId (k : Core) (e : Nat) (g : Eng → Eng) : (k.modEng e g).nextId = k.nextId := Core.setEng_nextId k _ _
@[simp] theorem Core.modEng_wq (k : Core) (e : Nat) (g : Eng → Eng) : (k.modEng e g).wq = k.wq := Core.setEng_wq k _ _
@[simp] theorem Core.modEng_lease (k : Core) (e : Nat) (g : Eng → Eng) : (k.modEng e g).lease = k.lease := Core.setEng_lease k _ _
@[simp] theorem Core.modEng_leaseReq (k : Core) (e : Nat) (g : Eng → Eng) : (k.modEng e g).leaseReq = k.leaseReq := Core.setEng_leaseReq k _ _
@[simp] theorem Core.modEng_recs (k : Core) (e : Nat) (g : Eng → Eng) : (k.modEng e g).recs = k.recs := Core.setEng_recs k _ _
@[simp] theorem Core.modEng_sp (k : Core) (e : Nat) (g : Eng → Eng) : (k.modEng e g).sp = k.sp := Core.setEng_sp k _ _
@[simp] theorem Core.modEng_bay (k : Core) (e : Nat) (g : Eng → Eng) : (k.modEng e g).bay = k.bay := Core.setEng_bay k _ _
@[simp] theorem Core.modEng_gran (k : Core) (e : Nat) (g : Eng → Eng) : (k.modEng e g).gran = k.gran := Core.setEng_gran k _ _
@[simp] theorem Core.modEng_split (k : Core) (e : Nat) (g : Eng → Eng) : (k.modEng e g).split = k.split := Core.setEng_split k _ _
@[simp] theorem Core.modEng_l1 (k : Core) (e : Nat) (g : Eng → Eng) : (k.modEng e g).l1 = k.l1 := Core.setEng_l1 k _ _
@[simp] theorem Core.modEng_l1gen (k : Core) (e : Nat) (g : Eng → Eng) : (k.modEng e g).l1gen = k.l1gen := Core.setEng_l1gen k _ _
@[simp] theorem Core.modEng_sweep (k : Core) (e : Nat) (g : Eng → Eng) : (k.modEng e g).sweep = k.sweep := Core.setEng_sweep k _ _
@[simp] theorem Core.modEng_tlb (k : Core) (e : Nat) (g : Eng → Eng) : (k.modEng e g).tlb = k.tlb := Core.setEng_tlb k _ _
@[simp] theorem Core.modEng_far (k : Core) (e : Nat) (g : Eng → Eng) : (k.modEng e g).far = k.far := Core.setEng_far k _ _
@[simp] theorem Core.modEng_icache (k : Core) (e : Nat) (g : Eng → Eng) : (k.modEng e g).icache = k.icache := Core.setEng_icache k _ _
@[simp] theorem Core.modEng_ilock (k : Core) (e : Nat) (g : Eng → Eng) : (k.modEng e g).ilock = k.ilock := Core.setEng_ilock k _ _
@[simp] theorem Core.modEng_hold (k : Core) (e : Nat) (g : Eng → Eng) : (k.modEng e g).hold = k.hold := Core.setEng_hold k _ _
@[simp] theorem Core.modEng_miss (k : Core) (e : Nat) (g : Eng → Eng) : (k.modEng e g).miss = k.miss := Core.setEng_miss k _ _
@[simp] theorem Core.modEng_raises (k : Core) (e : Nat) (g : Eng → Eng) : (k.modEng e g).raises = k.raises := Core.setEng_raises k _ _
@[simp] theorem Core.modEng_stop (k : Core) (e : Nat) (g : Eng → Eng) : (k.modEng e g).stop = k.stop := Core.setEng_stop k _ _
@[simp] theorem Core.modEng_hmode (k : Core) (e : Nat) (g : Eng → Eng) : (k.modEng e g).hmode = k.hmode := Core.setEng_hmode k _ _
@[simp] theorem Core.modEng_resumed (k : Core) (e : Nat) (g : Eng → Eng) : (k.modEng e g).resumed = k.resumed := Core.setEng_resumed k _ _
@[simp] theorem Core.modEng_hjob (k : Core) (e : Nat) (g : Eng → Eng) : (k.modEng e g).hjob = k.hjob := Core.setEng_hjob k _ _
@[simp] theorem Core.modEng_mute (k : Core) (e : Nat) (g : Eng → Eng) : (k.modEng e g).mute = k.mute := Core.setEng_mute k _ _
@[simp] theorem Core.modEng_preempt (k : Core) (e : Nat) (g : Eng → Eng) : (k.modEng e g).preempt = k.preempt := Core.setEng_preempt k _ _
@[simp] theorem Core.modEng_job (k : Core) (e : Nat) (g : Eng → Eng) : (k.modEng e g).job = k.job := Core.setEng_job k _ _
@[simp] theorem Core.modEng_starting (k : Core) (e : Nat) (g : Eng → Eng) : (k.modEng e g).starting = k.starting := Core.setEng_starting k _ _
@[simp] theorem Core.modEng_lastWorld (k : Core) (e : Nat) (g : Eng → Eng) : (k.modEng e g).lastWorld = k.lastWorld := Core.setEng_lastWorld k _ _
@[simp] theorem Core.modEng_clearing (k : Core) (e : Nat) (g : Eng → Eng) : (k.modEng e g).clearing = k.clearing := Core.setEng_clearing k _ _
@[simp] theorem Core.modEng_prep (k : Core) (e : Nat) (g : Eng → Eng) : (k.modEng e g).prep = k.prep := Core.setEng_prep k _ _
@[simp] theorem Core.modEng_ended (k : Core) (e : Nat) (g : Eng → Eng) : (k.modEng e g).ended = k.ended := Core.setEng_ended k _ _
@[simp] theorem Core.modEng_failed (k : Core) (e : Nat) (g : Eng → Eng) : (k.modEng e g).failed = k.failed := Core.setEng_failed k _ _
@[simp] theorem Core.modEng_attached (k : Core) (e : Nat) (g : Eng → Eng) : (k.modEng e g).attached = k.attached := Core.setEng_attached k _ _
@[simp] theorem Core.modEng_moved (k : Core) (e : Nat) (g : Eng → Eng) : (k.modEng e g).moved = k.moved := Core.setEng_moved k _ _
@[simp] theorem Core.modEng_rot (k : Core) (e : Nat) (g : Eng → Eng) : (k.modEng e g).rot = k.rot := Core.setEng_rot k _ _
@[simp] theorem Core.modEng_back (k : Core) (e : Nat) (g : Eng → Eng) : (k.modEng e g).back = k.back := Core.setEng_back k _ _
@[simp] theorem Core.modEng_halted (k : Core) (e : Nat) (g : Eng → Eng) : (k.modEng e g).halted = k.halted := Core.setEng_halted k _ _
@[simp] theorem Core.modEng_bps (k : Core) (e : Nat) (g : Eng → Eng) : (k.modEng e g).bps = k.bps := Core.setEng_bps k _ _
@[simp] theorem Core.modEng_bpskip (k : Core) (e : Nat) (g : Eng → Eng) : (k.modEng e g).bpskip = k.bpskip := Core.setEng_bpskip k _ _
@[simp] theorem Core.modEng_hreq (k : Core) (e : Nat) (g : Eng → Eng) : (k.modEng e g).hreq = k.hreq := Core.setEng_hreq k _ _
@[simp] theorem Core.modEng_wdleft (k : Core) (e : Nat) (g : Eng → Eng) : (k.modEng e g).wdleft = k.wdleft := Core.setEng_wdleft k _ _
@[simp] theorem Core.modEng_parcels (k : Core) (e : Nat) (g : Eng → Eng) : (k.modEng e g).parcels = k.parcels := Core.setEng_parcels k _ _
@[simp] theorem Core.modEng_banks (k : Core) (e : Nat) (g : Eng → Eng) : (k.modEng e g).banks = k.banks := Core.setEng_banks k _ _
@[simp] theorem Core.modEng_refr (k : Core) (e : Nat) (g : Eng → Eng) : (k.modEng e g).refr = k.refr := Core.setEng_refr k _ _
@[simp] theorem Core.modEng_passes (k : Core) (e : Nat) (g : Eng → Eng) : (k.modEng e g).passes = k.passes := Core.setEng_passes k _ _
@[simp] theorem Core.modEng_todo (k : Core) (e : Nat) (g : Eng → Eng) : (k.modEng e g).todo = k.todo := Core.setEng_todo k _ _
@[simp] theorem Core.modEng_ctr (k : Core) (e : Nat) (g : Eng → Eng) : (k.modEng e g).ctr = k.ctr := Core.setEng_ctr k _ _
@[simp] theorem Core.modEng_cntovf (k : Core) (e : Nat) (g : Eng → Eng) : (k.modEng e g).cntovf = k.cntovf := Core.setEng_cntovf k _ _
@[simp] theorem Core.modEng_cntcfg (k : Core) (e : Nat) (g : Eng → Eng) : (k.modEng e g).cntcfg = k.cntcfg := Core.setEng_cntcfg k _ _
@[simp] theorem Core.modEng_cnew (k : Core) (e : Nat) (g : Eng → Eng) : (k.modEng e g).cnew = k.cnew := Core.setEng_cnew k _ _
@[simp] theorem Core.modEng_cclr (k : Core) (e : Nat) (g : Eng → Eng) : (k.modEng e g).cclr = k.cclr := Core.setEng_cclr k _ _
@[simp] theorem Core.modEng_cfgNext (k : Core) (e : Nat) (g : Eng → Eng) : (k.modEng e g).cfgNext = k.cfgNext := Core.setEng_cfgNext k _ _

@[simp] theorem Core.wv_scyc (k : Core) (n : Nat) (t : Tile) : (k.wv n t).scyc = k.scyc := rfl
@[simp] theorem Core.wv_cl (k : Core) (n : Nat) (t : Tile) : (k.wv n t).cl = k.cl := rfl
@[simp] theorem Core.wv_ck (k : Core) (n : Nat) (t : Tile) : (k.wv n t).ck = k.ck := rfl
@[simp] theorem Core.wv_cs (k : Core) (n : Nat) (t : Tile) : (k.wv n t).cs = k.cs := rfl
@[simp] theorem Core.wv_p (k : Core) (n : Nat) (t : Tile) : (k.wv n t).p = k.p := rfl
@[simp] theorem Core.wv_sys (k : Core) (n : Nat) (t : Tile) : (k.wv n t).sys = k.sys := rfl
@[simp] theorem Core.wv_queues (k : Core) (n : Nat) (t : Tile) : (k.wv n t).queues = k.queues := rfl
@[simp] theorem Core.wv_ports (k : Core) (n : Nat) (t : Tile) : (k.wv n t).ports = k.ports := rfl
@[simp] theorem Core.wv_flags (k : Core) (n : Nat) (t : Tile) : (k.wv n t).flags = k.flags := rfl
@[simp] theorem Core.wv_fhist (k : Core) (n : Nat) (t : Tile) : (k.wv n t).fhist = k.fhist := rfl
@[simp] theorem Core.wv_flagOs (k : Core) (n : Nat) (t : Tile) : (k.wv n t).flagOs = k.flagOs := rfl
@[simp] theorem Core.wv_incs (k : Core) (n : Nat) (t : Tile) : (k.wv n t).incs = k.incs := rfl
@[simp] theorem Core.wv_va (k : Core) (n : Nat) (t : Tile) : (k.wv n t).va = k.va := rfl
@[simp] theorem Core.wv_vb (k : Core) (n : Nat) (t : Tile) : (k.wv n t).vb = k.vb := rfl
@[simp] theorem Core.wv_vaBusy (k : Core) (n : Nat) (t : Tile) : (k.wv n t).vaBusy = k.vaBusy := rfl
@[simp] theorem Core.wv_vbBusy (k : Core) (n : Nat) (t : Tile) : (k.wv n t).vbBusy = k.vbBusy := rfl
@[simp] theorem Core.wv_flights (k : Core) (n : Nat) (t : Tile) : (k.wv n t).flights = k.flights := rfl
@[simp] theorem Core.wv_nextId (k : Core) (n : Nat) (t : Tile) : (k.wv n t).nextId = k.nextId := rfl
@[simp] theorem Core.wv_wq (k : Core) (n : Nat) (t : Tile) : (k.wv n t).wq = k.wq := rfl
@[simp] theorem Core.wv_e0 (k : Core) (n : Nat) (t : Tile) : (k.wv n t).e0 = k.e0 := rfl
@[simp] theorem Core.wv_e1 (k : Core) (n : Nat) (t : Tile) : (k.wv n t).e1 = k.e1 := rfl
@[simp] theorem Core.wv_em (k : Core) (n : Nat) (t : Tile) : (k.wv n t).em = k.em := rfl
@[simp] theorem Core.wv_lease (k : Core) (n : Nat) (t : Tile) : (k.wv n t).lease = k.lease := rfl
@[simp] theorem Core.wv_leaseReq (k : Core) (n : Nat) (t : Tile) : (k.wv n t).leaseReq = k.leaseReq := rfl
@[simp] theorem Core.wv_recs (k : Core) (n : Nat) (t : Tile) : (k.wv n t).recs = k.recs := rfl
@[simp] theorem Core.wv_sp (k : Core) (n : Nat) (t : Tile) : (k.wv n t).sp = k.sp := rfl
@[simp] theorem Core.wv_bay (k : Core) (n : Nat) (t : Tile) : (k.wv n t).bay = k.bay := rfl
@[simp] theorem Core.wv_gran (k : Core) (n : Nat) (t : Tile) : (k.wv n t).gran = k.gran := rfl
@[simp] theorem Core.wv_split (k : Core) (n : Nat) (t : Tile) : (k.wv n t).split = k.split := rfl
@[simp] theorem Core.wv_l1 (k : Core) (n : Nat) (t : Tile) : (k.wv n t).l1 = k.l1 := rfl
@[simp] theorem Core.wv_l1gen (k : Core) (n : Nat) (t : Tile) : (k.wv n t).l1gen = k.l1gen := rfl
@[simp] theorem Core.wv_sweep (k : Core) (n : Nat) (t : Tile) : (k.wv n t).sweep = k.sweep := rfl
@[simp] theorem Core.wv_tlb (k : Core) (n : Nat) (t : Tile) : (k.wv n t).tlb = k.tlb := rfl
@[simp] theorem Core.wv_far (k : Core) (n : Nat) (t : Tile) : (k.wv n t).far = k.far := rfl
@[simp] theorem Core.wv_icache (k : Core) (n : Nat) (t : Tile) : (k.wv n t).icache = k.icache := rfl
@[simp] theorem Core.wv_ilock (k : Core) (n : Nat) (t : Tile) : (k.wv n t).ilock = k.ilock := rfl
@[simp] theorem Core.wv_hold (k : Core) (n : Nat) (t : Tile) : (k.wv n t).hold = k.hold := rfl
@[simp] theorem Core.wv_miss (k : Core) (n : Nat) (t : Tile) : (k.wv n t).miss = k.miss := rfl
@[simp] theorem Core.wv_raises (k : Core) (n : Nat) (t : Tile) : (k.wv n t).raises = k.raises := rfl
@[simp] theorem Core.wv_stop (k : Core) (n : Nat) (t : Tile) : (k.wv n t).stop = k.stop := rfl
@[simp] theorem Core.wv_hmode (k : Core) (n : Nat) (t : Tile) : (k.wv n t).hmode = k.hmode := rfl
@[simp] theorem Core.wv_resumed (k : Core) (n : Nat) (t : Tile) : (k.wv n t).resumed = k.resumed := rfl
@[simp] theorem Core.wv_hjob (k : Core) (n : Nat) (t : Tile) : (k.wv n t).hjob = k.hjob := rfl
@[simp] theorem Core.wv_mute (k : Core) (n : Nat) (t : Tile) : (k.wv n t).mute = k.mute := rfl
@[simp] theorem Core.wv_preempt (k : Core) (n : Nat) (t : Tile) : (k.wv n t).preempt = k.preempt := rfl
@[simp] theorem Core.wv_job (k : Core) (n : Nat) (t : Tile) : (k.wv n t).job = k.job := rfl
@[simp] theorem Core.wv_starting (k : Core) (n : Nat) (t : Tile) : (k.wv n t).starting = k.starting := rfl
@[simp] theorem Core.wv_lastWorld (k : Core) (n : Nat) (t : Tile) : (k.wv n t).lastWorld = k.lastWorld := rfl
@[simp] theorem Core.wv_clearing (k : Core) (n : Nat) (t : Tile) : (k.wv n t).clearing = k.clearing := rfl
@[simp] theorem Core.wv_prep (k : Core) (n : Nat) (t : Tile) : (k.wv n t).prep = k.prep := rfl
@[simp] theorem Core.wv_ended (k : Core) (n : Nat) (t : Tile) : (k.wv n t).ended = k.ended := rfl
@[simp] theorem Core.wv_failed (k : Core) (n : Nat) (t : Tile) : (k.wv n t).failed = k.failed := rfl
@[simp] theorem Core.wv_attached (k : Core) (n : Nat) (t : Tile) : (k.wv n t).attached = k.attached := rfl
@[simp] theorem Core.wv_moved (k : Core) (n : Nat) (t : Tile) : (k.wv n t).moved = k.moved := rfl
@[simp] theorem Core.wv_rot (k : Core) (n : Nat) (t : Tile) : (k.wv n t).rot = k.rot := rfl
@[simp] theorem Core.wv_back (k : Core) (n : Nat) (t : Tile) : (k.wv n t).back = k.back := rfl
@[simp] theorem Core.wv_halted (k : Core) (n : Nat) (t : Tile) : (k.wv n t).halted = k.halted := rfl
@[simp] theorem Core.wv_bps (k : Core) (n : Nat) (t : Tile) : (k.wv n t).bps = k.bps := rfl
@[simp] theorem Core.wv_bpskip (k : Core) (n : Nat) (t : Tile) : (k.wv n t).bpskip = k.bpskip := rfl
@[simp] theorem Core.wv_hreq (k : Core) (n : Nat) (t : Tile) : (k.wv n t).hreq = k.hreq := rfl
@[simp] theorem Core.wv_wdleft (k : Core) (n : Nat) (t : Tile) : (k.wv n t).wdleft = k.wdleft := rfl
@[simp] theorem Core.wv_parcels (k : Core) (n : Nat) (t : Tile) : (k.wv n t).parcels = k.parcels := rfl
@[simp] theorem Core.wv_banks (k : Core) (n : Nat) (t : Tile) : (k.wv n t).banks = k.banks := rfl
@[simp] theorem Core.wv_refr (k : Core) (n : Nat) (t : Tile) : (k.wv n t).refr = k.refr := rfl
@[simp] theorem Core.wv_passes (k : Core) (n : Nat) (t : Tile) : (k.wv n t).passes = k.passes := rfl
@[simp] theorem Core.wv_todo (k : Core) (n : Nat) (t : Tile) : (k.wv n t).todo = k.todo := rfl
@[simp] theorem Core.wv_ctr (k : Core) (n : Nat) (t : Tile) : (k.wv n t).ctr = k.ctr := rfl
@[simp] theorem Core.wv_cntovf (k : Core) (n : Nat) (t : Tile) : (k.wv n t).cntovf = k.cntovf := rfl
@[simp] theorem Core.wv_cntcfg (k : Core) (n : Nat) (t : Tile) : (k.wv n t).cntcfg = k.cntcfg := rfl
@[simp] theorem Core.wv_cnew (k : Core) (n : Nat) (t : Tile) : (k.wv n t).cnew = k.cnew := rfl
@[simp] theorem Core.wv_cclr (k : Core) (n : Nat) (t : Tile) : (k.wv n t).cclr = k.cclr := rfl
@[simp] theorem Core.wv_cfgNext (k : Core) (n : Nat) (t : Tile) : (k.wv n t).cfgNext = k.cfgNext := rfl

@[simp] theorem Core.modFlight_scyc (k : Core) (id : Nat) (g : Flight → Flight) : (k.modFlight id g).scyc = k.scyc := rfl
@[simp] theorem Core.modFlight_cl (k : Core) (id : Nat) (g : Flight → Flight) : (k.modFlight id g).cl = k.cl := rfl
@[simp] theorem Core.modFlight_ck (k : Core) (id : Nat) (g : Flight → Flight) : (k.modFlight id g).ck = k.ck := rfl
@[simp] theorem Core.modFlight_cs (k : Core) (id : Nat) (g : Flight → Flight) : (k.modFlight id g).cs = k.cs := rfl
@[simp] theorem Core.modFlight_v (k : Core) (id : Nat) (g : Flight → Flight) : (k.modFlight id g).v = k.v := rfl
@[simp] theorem Core.modFlight_p (k : Core) (id : Nat) (g : Flight → Flight) : (k.modFlight id g).p = k.p := rfl
@[simp] theorem Core.modFlight_sys (k : Core) (id : Nat) (g : Flight → Flight) : (k.modFlight id g).sys = k.sys := rfl
@[simp] theorem Core.modFlight_queues (k : Core) (id : Nat) (g : Flight → Flight) : (k.modFlight id g).queues = k.queues := rfl
@[simp] theorem Core.modFlight_ports (k : Core) (id : Nat) (g : Flight → Flight) : (k.modFlight id g).ports = k.ports := rfl
@[simp] theorem Core.modFlight_flags (k : Core) (id : Nat) (g : Flight → Flight) : (k.modFlight id g).flags = k.flags := rfl
@[simp] theorem Core.modFlight_fhist (k : Core) (id : Nat) (g : Flight → Flight) : (k.modFlight id g).fhist = k.fhist := rfl
@[simp] theorem Core.modFlight_flagOs (k : Core) (id : Nat) (g : Flight → Flight) : (k.modFlight id g).flagOs = k.flagOs := rfl
@[simp] theorem Core.modFlight_incs (k : Core) (id : Nat) (g : Flight → Flight) : (k.modFlight id g).incs = k.incs := rfl
@[simp] theorem Core.modFlight_va (k : Core) (id : Nat) (g : Flight → Flight) : (k.modFlight id g).va = k.va := rfl
@[simp] theorem Core.modFlight_vb (k : Core) (id : Nat) (g : Flight → Flight) : (k.modFlight id g).vb = k.vb := rfl
@[simp] theorem Core.modFlight_vaBusy (k : Core) (id : Nat) (g : Flight → Flight) : (k.modFlight id g).vaBusy = k.vaBusy := rfl
@[simp] theorem Core.modFlight_vbBusy (k : Core) (id : Nat) (g : Flight → Flight) : (k.modFlight id g).vbBusy = k.vbBusy := rfl
@[simp] theorem Core.modFlight_nextId (k : Core) (id : Nat) (g : Flight → Flight) : (k.modFlight id g).nextId = k.nextId := rfl
@[simp] theorem Core.modFlight_wq (k : Core) (id : Nat) (g : Flight → Flight) : (k.modFlight id g).wq = k.wq := rfl
@[simp] theorem Core.modFlight_e0 (k : Core) (id : Nat) (g : Flight → Flight) : (k.modFlight id g).e0 = k.e0 := rfl
@[simp] theorem Core.modFlight_e1 (k : Core) (id : Nat) (g : Flight → Flight) : (k.modFlight id g).e1 = k.e1 := rfl
@[simp] theorem Core.modFlight_em (k : Core) (id : Nat) (g : Flight → Flight) : (k.modFlight id g).em = k.em := rfl
@[simp] theorem Core.modFlight_lease (k : Core) (id : Nat) (g : Flight → Flight) : (k.modFlight id g).lease = k.lease := rfl
@[simp] theorem Core.modFlight_leaseReq (k : Core) (id : Nat) (g : Flight → Flight) : (k.modFlight id g).leaseReq = k.leaseReq := rfl
@[simp] theorem Core.modFlight_recs (k : Core) (id : Nat) (g : Flight → Flight) : (k.modFlight id g).recs = k.recs := rfl
@[simp] theorem Core.modFlight_sp (k : Core) (id : Nat) (g : Flight → Flight) : (k.modFlight id g).sp = k.sp := rfl
@[simp] theorem Core.modFlight_bay (k : Core) (id : Nat) (g : Flight → Flight) : (k.modFlight id g).bay = k.bay := rfl
@[simp] theorem Core.modFlight_gran (k : Core) (id : Nat) (g : Flight → Flight) : (k.modFlight id g).gran = k.gran := rfl
@[simp] theorem Core.modFlight_split (k : Core) (id : Nat) (g : Flight → Flight) : (k.modFlight id g).split = k.split := rfl
@[simp] theorem Core.modFlight_l1 (k : Core) (id : Nat) (g : Flight → Flight) : (k.modFlight id g).l1 = k.l1 := rfl
@[simp] theorem Core.modFlight_l1gen (k : Core) (id : Nat) (g : Flight → Flight) : (k.modFlight id g).l1gen = k.l1gen := rfl
@[simp] theorem Core.modFlight_sweep (k : Core) (id : Nat) (g : Flight → Flight) : (k.modFlight id g).sweep = k.sweep := rfl
@[simp] theorem Core.modFlight_tlb (k : Core) (id : Nat) (g : Flight → Flight) : (k.modFlight id g).tlb = k.tlb := rfl
@[simp] theorem Core.modFlight_far (k : Core) (id : Nat) (g : Flight → Flight) : (k.modFlight id g).far = k.far := rfl
@[simp] theorem Core.modFlight_icache (k : Core) (id : Nat) (g : Flight → Flight) : (k.modFlight id g).icache = k.icache := rfl
@[simp] theorem Core.modFlight_ilock (k : Core) (id : Nat) (g : Flight → Flight) : (k.modFlight id g).ilock = k.ilock := rfl
@[simp] theorem Core.modFlight_hold (k : Core) (id : Nat) (g : Flight → Flight) : (k.modFlight id g).hold = k.hold := rfl
@[simp] theorem Core.modFlight_miss (k : Core) (id : Nat) (g : Flight → Flight) : (k.modFlight id g).miss = k.miss := rfl
@[simp] theorem Core.modFlight_raises (k : Core) (id : Nat) (g : Flight → Flight) : (k.modFlight id g).raises = k.raises := rfl
@[simp] theorem Core.modFlight_stop (k : Core) (id : Nat) (g : Flight → Flight) : (k.modFlight id g).stop = k.stop := rfl
@[simp] theorem Core.modFlight_hmode (k : Core) (id : Nat) (g : Flight → Flight) : (k.modFlight id g).hmode = k.hmode := rfl
@[simp] theorem Core.modFlight_resumed (k : Core) (id : Nat) (g : Flight → Flight) : (k.modFlight id g).resumed = k.resumed := rfl
@[simp] theorem Core.modFlight_hjob (k : Core) (id : Nat) (g : Flight → Flight) : (k.modFlight id g).hjob = k.hjob := rfl
@[simp] theorem Core.modFlight_mute (k : Core) (id : Nat) (g : Flight → Flight) : (k.modFlight id g).mute = k.mute := rfl
@[simp] theorem Core.modFlight_preempt (k : Core) (id : Nat) (g : Flight → Flight) : (k.modFlight id g).preempt = k.preempt := rfl
@[simp] theorem Core.modFlight_job (k : Core) (id : Nat) (g : Flight → Flight) : (k.modFlight id g).job = k.job := rfl
@[simp] theorem Core.modFlight_starting (k : Core) (id : Nat) (g : Flight → Flight) : (k.modFlight id g).starting = k.starting := rfl
@[simp] theorem Core.modFlight_lastWorld (k : Core) (id : Nat) (g : Flight → Flight) : (k.modFlight id g).lastWorld = k.lastWorld := rfl
@[simp] theorem Core.modFlight_clearing (k : Core) (id : Nat) (g : Flight → Flight) : (k.modFlight id g).clearing = k.clearing := rfl
@[simp] theorem Core.modFlight_prep (k : Core) (id : Nat) (g : Flight → Flight) : (k.modFlight id g).prep = k.prep := rfl
@[simp] theorem Core.modFlight_ended (k : Core) (id : Nat) (g : Flight → Flight) : (k.modFlight id g).ended = k.ended := rfl
@[simp] theorem Core.modFlight_failed (k : Core) (id : Nat) (g : Flight → Flight) : (k.modFlight id g).failed = k.failed := rfl
@[simp] theorem Core.modFlight_attached (k : Core) (id : Nat) (g : Flight → Flight) : (k.modFlight id g).attached = k.attached := rfl
@[simp] theorem Core.modFlight_moved (k : Core) (id : Nat) (g : Flight → Flight) : (k.modFlight id g).moved = k.moved := rfl
@[simp] theorem Core.modFlight_rot (k : Core) (id : Nat) (g : Flight → Flight) : (k.modFlight id g).rot = k.rot := rfl
@[simp] theorem Core.modFlight_back (k : Core) (id : Nat) (g : Flight → Flight) : (k.modFlight id g).back = k.back := rfl
@[simp] theorem Core.modFlight_halted (k : Core) (id : Nat) (g : Flight → Flight) : (k.modFlight id g).halted = k.halted := rfl
@[simp] theorem Core.modFlight_bps (k : Core) (id : Nat) (g : Flight → Flight) : (k.modFlight id g).bps = k.bps := rfl
@[simp] theorem Core.modFlight_bpskip (k : Core) (id : Nat) (g : Flight → Flight) : (k.modFlight id g).bpskip = k.bpskip := rfl
@[simp] theorem Core.modFlight_hreq (k : Core) (id : Nat) (g : Flight → Flight) : (k.modFlight id g).hreq = k.hreq := rfl
@[simp] theorem Core.modFlight_wdleft (k : Core) (id : Nat) (g : Flight → Flight) : (k.modFlight id g).wdleft = k.wdleft := rfl
@[simp] theorem Core.modFlight_parcels (k : Core) (id : Nat) (g : Flight → Flight) : (k.modFlight id g).parcels = k.parcels := rfl
@[simp] theorem Core.modFlight_banks (k : Core) (id : Nat) (g : Flight → Flight) : (k.modFlight id g).banks = k.banks := rfl
@[simp] theorem Core.modFlight_refr (k : Core) (id : Nat) (g : Flight → Flight) : (k.modFlight id g).refr = k.refr := rfl
@[simp] theorem Core.modFlight_passes (k : Core) (id : Nat) (g : Flight → Flight) : (k.modFlight id g).passes = k.passes := rfl
@[simp] theorem Core.modFlight_todo (k : Core) (id : Nat) (g : Flight → Flight) : (k.modFlight id g).todo = k.todo := rfl
@[simp] theorem Core.modFlight_ctr (k : Core) (id : Nat) (g : Flight → Flight) : (k.modFlight id g).ctr = k.ctr := rfl
@[simp] theorem Core.modFlight_cntovf (k : Core) (id : Nat) (g : Flight → Flight) : (k.modFlight id g).cntovf = k.cntovf := rfl
@[simp] theorem Core.modFlight_cntcfg (k : Core) (id : Nat) (g : Flight → Flight) : (k.modFlight id g).cntcfg = k.cntcfg := rfl
@[simp] theorem Core.modFlight_cnew (k : Core) (id : Nat) (g : Flight → Flight) : (k.modFlight id g).cnew = k.cnew := rfl
@[simp] theorem Core.modFlight_cclr (k : Core) (id : Nat) (g : Flight → Flight) : (k.modFlight id g).cclr = k.cclr := rfl
@[simp] theorem Core.modFlight_cfgNext (k : Core) (id : Nat) (g : Flight → Flight) : (k.modFlight id g).cfgNext = k.cfgNext := rfl

@[simp] theorem Core.bump_scyc (k : Core) (i n : Nat) : (k.bump i n).scyc = k.scyc := rfl
@[simp] theorem Core.bump_cl (k : Core) (i n : Nat) : (k.bump i n).cl = k.cl := rfl
@[simp] theorem Core.bump_ck (k : Core) (i n : Nat) : (k.bump i n).ck = k.ck := rfl
@[simp] theorem Core.bump_cs (k : Core) (i n : Nat) : (k.bump i n).cs = k.cs := rfl
@[simp] theorem Core.bump_v (k : Core) (i n : Nat) : (k.bump i n).v = k.v := rfl
@[simp] theorem Core.bump_p (k : Core) (i n : Nat) : (k.bump i n).p = k.p := rfl
@[simp] theorem Core.bump_sys (k : Core) (i n : Nat) : (k.bump i n).sys = k.sys := rfl
@[simp] theorem Core.bump_queues (k : Core) (i n : Nat) : (k.bump i n).queues = k.queues := rfl
@[simp] theorem Core.bump_ports (k : Core) (i n : Nat) : (k.bump i n).ports = k.ports := rfl
@[simp] theorem Core.bump_flags (k : Core) (i n : Nat) : (k.bump i n).flags = k.flags := rfl
@[simp] theorem Core.bump_fhist (k : Core) (i n : Nat) : (k.bump i n).fhist = k.fhist := rfl
@[simp] theorem Core.bump_flagOs (k : Core) (i n : Nat) : (k.bump i n).flagOs = k.flagOs := rfl
@[simp] theorem Core.bump_incs (k : Core) (i n : Nat) : (k.bump i n).incs = k.incs := rfl
@[simp] theorem Core.bump_va (k : Core) (i n : Nat) : (k.bump i n).va = k.va := rfl
@[simp] theorem Core.bump_vb (k : Core) (i n : Nat) : (k.bump i n).vb = k.vb := rfl
@[simp] theorem Core.bump_vaBusy (k : Core) (i n : Nat) : (k.bump i n).vaBusy = k.vaBusy := rfl
@[simp] theorem Core.bump_vbBusy (k : Core) (i n : Nat) : (k.bump i n).vbBusy = k.vbBusy := rfl
@[simp] theorem Core.bump_flights (k : Core) (i n : Nat) : (k.bump i n).flights = k.flights := rfl
@[simp] theorem Core.bump_nextId (k : Core) (i n : Nat) : (k.bump i n).nextId = k.nextId := rfl
@[simp] theorem Core.bump_wq (k : Core) (i n : Nat) : (k.bump i n).wq = k.wq := rfl
@[simp] theorem Core.bump_e0 (k : Core) (i n : Nat) : (k.bump i n).e0 = k.e0 := rfl
@[simp] theorem Core.bump_e1 (k : Core) (i n : Nat) : (k.bump i n).e1 = k.e1 := rfl
@[simp] theorem Core.bump_em (k : Core) (i n : Nat) : (k.bump i n).em = k.em := rfl
@[simp] theorem Core.bump_lease (k : Core) (i n : Nat) : (k.bump i n).lease = k.lease := rfl
@[simp] theorem Core.bump_leaseReq (k : Core) (i n : Nat) : (k.bump i n).leaseReq = k.leaseReq := rfl
@[simp] theorem Core.bump_recs (k : Core) (i n : Nat) : (k.bump i n).recs = k.recs := rfl
@[simp] theorem Core.bump_sp (k : Core) (i n : Nat) : (k.bump i n).sp = k.sp := rfl
@[simp] theorem Core.bump_bay (k : Core) (i n : Nat) : (k.bump i n).bay = k.bay := rfl
@[simp] theorem Core.bump_gran (k : Core) (i n : Nat) : (k.bump i n).gran = k.gran := rfl
@[simp] theorem Core.bump_split (k : Core) (i n : Nat) : (k.bump i n).split = k.split := rfl
@[simp] theorem Core.bump_l1 (k : Core) (i n : Nat) : (k.bump i n).l1 = k.l1 := rfl
@[simp] theorem Core.bump_l1gen (k : Core) (i n : Nat) : (k.bump i n).l1gen = k.l1gen := rfl
@[simp] theorem Core.bump_sweep (k : Core) (i n : Nat) : (k.bump i n).sweep = k.sweep := rfl
@[simp] theorem Core.bump_tlb (k : Core) (i n : Nat) : (k.bump i n).tlb = k.tlb := rfl
@[simp] theorem Core.bump_far (k : Core) (i n : Nat) : (k.bump i n).far = k.far := rfl
@[simp] theorem Core.bump_icache (k : Core) (i n : Nat) : (k.bump i n).icache = k.icache := rfl
@[simp] theorem Core.bump_ilock (k : Core) (i n : Nat) : (k.bump i n).ilock = k.ilock := rfl
@[simp] theorem Core.bump_hold (k : Core) (i n : Nat) : (k.bump i n).hold = k.hold := rfl
@[simp] theorem Core.bump_miss (k : Core) (i n : Nat) : (k.bump i n).miss = k.miss := rfl
@[simp] theorem Core.bump_raises (k : Core) (i n : Nat) : (k.bump i n).raises = k.raises := rfl
@[simp] theorem Core.bump_stop (k : Core) (i n : Nat) : (k.bump i n).stop = k.stop := rfl
@[simp] theorem Core.bump_hmode (k : Core) (i n : Nat) : (k.bump i n).hmode = k.hmode := rfl
@[simp] theorem Core.bump_resumed (k : Core) (i n : Nat) : (k.bump i n).resumed = k.resumed := rfl
@[simp] theorem Core.bump_hjob (k : Core) (i n : Nat) : (k.bump i n).hjob = k.hjob := rfl
@[simp] theorem Core.bump_mute (k : Core) (i n : Nat) : (k.bump i n).mute = k.mute := rfl
@[simp] theorem Core.bump_preempt (k : Core) (i n : Nat) : (k.bump i n).preempt = k.preempt := rfl
@[simp] theorem Core.bump_job (k : Core) (i n : Nat) : (k.bump i n).job = k.job := rfl
@[simp] theorem Core.bump_starting (k : Core) (i n : Nat) : (k.bump i n).starting = k.starting := rfl
@[simp] theorem Core.bump_lastWorld (k : Core) (i n : Nat) : (k.bump i n).lastWorld = k.lastWorld := rfl
@[simp] theorem Core.bump_clearing (k : Core) (i n : Nat) : (k.bump i n).clearing = k.clearing := rfl
@[simp] theorem Core.bump_prep (k : Core) (i n : Nat) : (k.bump i n).prep = k.prep := rfl
@[simp] theorem Core.bump_ended (k : Core) (i n : Nat) : (k.bump i n).ended = k.ended := rfl
@[simp] theorem Core.bump_failed (k : Core) (i n : Nat) : (k.bump i n).failed = k.failed := rfl
@[simp] theorem Core.bump_attached (k : Core) (i n : Nat) : (k.bump i n).attached = k.attached := rfl
@[simp] theorem Core.bump_moved (k : Core) (i n : Nat) : (k.bump i n).moved = k.moved := rfl
@[simp] theorem Core.bump_rot (k : Core) (i n : Nat) : (k.bump i n).rot = k.rot := rfl
@[simp] theorem Core.bump_back (k : Core) (i n : Nat) : (k.bump i n).back = k.back := rfl
@[simp] theorem Core.bump_halted (k : Core) (i n : Nat) : (k.bump i n).halted = k.halted := rfl
@[simp] theorem Core.bump_bps (k : Core) (i n : Nat) : (k.bump i n).bps = k.bps := rfl
@[simp] theorem Core.bump_bpskip (k : Core) (i n : Nat) : (k.bump i n).bpskip = k.bpskip := rfl
@[simp] theorem Core.bump_hreq (k : Core) (i n : Nat) : (k.bump i n).hreq = k.hreq := rfl
@[simp] theorem Core.bump_wdleft (k : Core) (i n : Nat) : (k.bump i n).wdleft = k.wdleft := rfl
@[simp] theorem Core.bump_parcels (k : Core) (i n : Nat) : (k.bump i n).parcels = k.parcels := rfl
@[simp] theorem Core.bump_banks (k : Core) (i n : Nat) : (k.bump i n).banks = k.banks := rfl
@[simp] theorem Core.bump_refr (k : Core) (i n : Nat) : (k.bump i n).refr = k.refr := rfl
@[simp] theorem Core.bump_passes (k : Core) (i n : Nat) : (k.bump i n).passes = k.passes := rfl
@[simp] theorem Core.bump_todo (k : Core) (i n : Nat) : (k.bump i n).todo = k.todo := rfl
@[simp] theorem Core.bump_cntcfg (k : Core) (i n : Nat) : (k.bump i n).cntcfg = k.cntcfg := rfl
@[simp] theorem Core.bump_cnew (k : Core) (i n : Nat) : (k.bump i n).cnew = k.cnew := rfl
@[simp] theorem Core.bump_cclr (k : Core) (i n : Nat) : (k.bump i n).cclr = k.cclr := rfl
@[simp] theorem Core.bump_cfgNext (k : Core) (i n : Nat) : (k.bump i n).cfgNext = k.cfgNext := rfl

@[simp] theorem Core.wp_scyc (k : Core) (n : Nat) (t : PredReg) : (k.wp n t).scyc = k.scyc := by unfold Core.wp; split <;> rfl
@[simp] theorem Core.wp_cl (k : Core) (n : Nat) (t : PredReg) : (k.wp n t).cl = k.cl := by unfold Core.wp; split <;> rfl
@[simp] theorem Core.wp_ck (k : Core) (n : Nat) (t : PredReg) : (k.wp n t).ck = k.ck := by unfold Core.wp; split <;> rfl
@[simp] theorem Core.wp_cs (k : Core) (n : Nat) (t : PredReg) : (k.wp n t).cs = k.cs := by unfold Core.wp; split <;> rfl
@[simp] theorem Core.wp_v (k : Core) (n : Nat) (t : PredReg) : (k.wp n t).v = k.v := by unfold Core.wp; split <;> rfl
@[simp] theorem Core.wp_sys (k : Core) (n : Nat) (t : PredReg) : (k.wp n t).sys = k.sys := by unfold Core.wp; split <;> rfl
@[simp] theorem Core.wp_queues (k : Core) (n : Nat) (t : PredReg) : (k.wp n t).queues = k.queues := by unfold Core.wp; split <;> rfl
@[simp] theorem Core.wp_ports (k : Core) (n : Nat) (t : PredReg) : (k.wp n t).ports = k.ports := by unfold Core.wp; split <;> rfl
@[simp] theorem Core.wp_flags (k : Core) (n : Nat) (t : PredReg) : (k.wp n t).flags = k.flags := by unfold Core.wp; split <;> rfl
@[simp] theorem Core.wp_fhist (k : Core) (n : Nat) (t : PredReg) : (k.wp n t).fhist = k.fhist := by unfold Core.wp; split <;> rfl
@[simp] theorem Core.wp_flagOs (k : Core) (n : Nat) (t : PredReg) : (k.wp n t).flagOs = k.flagOs := by unfold Core.wp; split <;> rfl
@[simp] theorem Core.wp_incs (k : Core) (n : Nat) (t : PredReg) : (k.wp n t).incs = k.incs := by unfold Core.wp; split <;> rfl
@[simp] theorem Core.wp_va (k : Core) (n : Nat) (t : PredReg) : (k.wp n t).va = k.va := by unfold Core.wp; split <;> rfl
@[simp] theorem Core.wp_vb (k : Core) (n : Nat) (t : PredReg) : (k.wp n t).vb = k.vb := by unfold Core.wp; split <;> rfl
@[simp] theorem Core.wp_vaBusy (k : Core) (n : Nat) (t : PredReg) : (k.wp n t).vaBusy = k.vaBusy := by unfold Core.wp; split <;> rfl
@[simp] theorem Core.wp_vbBusy (k : Core) (n : Nat) (t : PredReg) : (k.wp n t).vbBusy = k.vbBusy := by unfold Core.wp; split <;> rfl
@[simp] theorem Core.wp_flights (k : Core) (n : Nat) (t : PredReg) : (k.wp n t).flights = k.flights := by unfold Core.wp; split <;> rfl
@[simp] theorem Core.wp_nextId (k : Core) (n : Nat) (t : PredReg) : (k.wp n t).nextId = k.nextId := by unfold Core.wp; split <;> rfl
@[simp] theorem Core.wp_wq (k : Core) (n : Nat) (t : PredReg) : (k.wp n t).wq = k.wq := by unfold Core.wp; split <;> rfl
@[simp] theorem Core.wp_e0 (k : Core) (n : Nat) (t : PredReg) : (k.wp n t).e0 = k.e0 := by unfold Core.wp; split <;> rfl
@[simp] theorem Core.wp_e1 (k : Core) (n : Nat) (t : PredReg) : (k.wp n t).e1 = k.e1 := by unfold Core.wp; split <;> rfl
@[simp] theorem Core.wp_em (k : Core) (n : Nat) (t : PredReg) : (k.wp n t).em = k.em := by unfold Core.wp; split <;> rfl
@[simp] theorem Core.wp_lease (k : Core) (n : Nat) (t : PredReg) : (k.wp n t).lease = k.lease := by unfold Core.wp; split <;> rfl
@[simp] theorem Core.wp_leaseReq (k : Core) (n : Nat) (t : PredReg) : (k.wp n t).leaseReq = k.leaseReq := by unfold Core.wp; split <;> rfl
@[simp] theorem Core.wp_recs (k : Core) (n : Nat) (t : PredReg) : (k.wp n t).recs = k.recs := by unfold Core.wp; split <;> rfl
@[simp] theorem Core.wp_sp (k : Core) (n : Nat) (t : PredReg) : (k.wp n t).sp = k.sp := by unfold Core.wp; split <;> rfl
@[simp] theorem Core.wp_bay (k : Core) (n : Nat) (t : PredReg) : (k.wp n t).bay = k.bay := by unfold Core.wp; split <;> rfl
@[simp] theorem Core.wp_gran (k : Core) (n : Nat) (t : PredReg) : (k.wp n t).gran = k.gran := by unfold Core.wp; split <;> rfl
@[simp] theorem Core.wp_split (k : Core) (n : Nat) (t : PredReg) : (k.wp n t).split = k.split := by unfold Core.wp; split <;> rfl
@[simp] theorem Core.wp_l1 (k : Core) (n : Nat) (t : PredReg) : (k.wp n t).l1 = k.l1 := by unfold Core.wp; split <;> rfl
@[simp] theorem Core.wp_l1gen (k : Core) (n : Nat) (t : PredReg) : (k.wp n t).l1gen = k.l1gen := by unfold Core.wp; split <;> rfl
@[simp] theorem Core.wp_sweep (k : Core) (n : Nat) (t : PredReg) : (k.wp n t).sweep = k.sweep := by unfold Core.wp; split <;> rfl
@[simp] theorem Core.wp_tlb (k : Core) (n : Nat) (t : PredReg) : (k.wp n t).tlb = k.tlb := by unfold Core.wp; split <;> rfl
@[simp] theorem Core.wp_far (k : Core) (n : Nat) (t : PredReg) : (k.wp n t).far = k.far := by unfold Core.wp; split <;> rfl
@[simp] theorem Core.wp_icache (k : Core) (n : Nat) (t : PredReg) : (k.wp n t).icache = k.icache := by unfold Core.wp; split <;> rfl
@[simp] theorem Core.wp_ilock (k : Core) (n : Nat) (t : PredReg) : (k.wp n t).ilock = k.ilock := by unfold Core.wp; split <;> rfl
@[simp] theorem Core.wp_hold (k : Core) (n : Nat) (t : PredReg) : (k.wp n t).hold = k.hold := by unfold Core.wp; split <;> rfl
@[simp] theorem Core.wp_miss (k : Core) (n : Nat) (t : PredReg) : (k.wp n t).miss = k.miss := by unfold Core.wp; split <;> rfl
@[simp] theorem Core.wp_raises (k : Core) (n : Nat) (t : PredReg) : (k.wp n t).raises = k.raises := by unfold Core.wp; split <;> rfl
@[simp] theorem Core.wp_stop (k : Core) (n : Nat) (t : PredReg) : (k.wp n t).stop = k.stop := by unfold Core.wp; split <;> rfl
@[simp] theorem Core.wp_hmode (k : Core) (n : Nat) (t : PredReg) : (k.wp n t).hmode = k.hmode := by unfold Core.wp; split <;> rfl
@[simp] theorem Core.wp_resumed (k : Core) (n : Nat) (t : PredReg) : (k.wp n t).resumed = k.resumed := by unfold Core.wp; split <;> rfl
@[simp] theorem Core.wp_hjob (k : Core) (n : Nat) (t : PredReg) : (k.wp n t).hjob = k.hjob := by unfold Core.wp; split <;> rfl
@[simp] theorem Core.wp_mute (k : Core) (n : Nat) (t : PredReg) : (k.wp n t).mute = k.mute := by unfold Core.wp; split <;> rfl
@[simp] theorem Core.wp_preempt (k : Core) (n : Nat) (t : PredReg) : (k.wp n t).preempt = k.preempt := by unfold Core.wp; split <;> rfl
@[simp] theorem Core.wp_job (k : Core) (n : Nat) (t : PredReg) : (k.wp n t).job = k.job := by unfold Core.wp; split <;> rfl
@[simp] theorem Core.wp_starting (k : Core) (n : Nat) (t : PredReg) : (k.wp n t).starting = k.starting := by unfold Core.wp; split <;> rfl
@[simp] theorem Core.wp_lastWorld (k : Core) (n : Nat) (t : PredReg) : (k.wp n t).lastWorld = k.lastWorld := by unfold Core.wp; split <;> rfl
@[simp] theorem Core.wp_clearing (k : Core) (n : Nat) (t : PredReg) : (k.wp n t).clearing = k.clearing := by unfold Core.wp; split <;> rfl
@[simp] theorem Core.wp_prep (k : Core) (n : Nat) (t : PredReg) : (k.wp n t).prep = k.prep := by unfold Core.wp; split <;> rfl
@[simp] theorem Core.wp_ended (k : Core) (n : Nat) (t : PredReg) : (k.wp n t).ended = k.ended := by unfold Core.wp; split <;> rfl
@[simp] theorem Core.wp_failed (k : Core) (n : Nat) (t : PredReg) : (k.wp n t).failed = k.failed := by unfold Core.wp; split <;> rfl
@[simp] theorem Core.wp_attached (k : Core) (n : Nat) (t : PredReg) : (k.wp n t).attached = k.attached := by unfold Core.wp; split <;> rfl
@[simp] theorem Core.wp_moved (k : Core) (n : Nat) (t : PredReg) : (k.wp n t).moved = k.moved := by unfold Core.wp; split <;> rfl
@[simp] theorem Core.wp_rot (k : Core) (n : Nat) (t : PredReg) : (k.wp n t).rot = k.rot := by unfold Core.wp; split <;> rfl
@[simp] theorem Core.wp_back (k : Core) (n : Nat) (t : PredReg) : (k.wp n t).back = k.back := by unfold Core.wp; split <;> rfl
@[simp] theorem Core.wp_halted (k : Core) (n : Nat) (t : PredReg) : (k.wp n t).halted = k.halted := by unfold Core.wp; split <;> rfl
@[simp] theorem Core.wp_bps (k : Core) (n : Nat) (t : PredReg) : (k.wp n t).bps = k.bps := by unfold Core.wp; split <;> rfl
@[simp] theorem Core.wp_bpskip (k : Core) (n : Nat) (t : PredReg) : (k.wp n t).bpskip = k.bpskip := by unfold Core.wp; split <;> rfl
@[simp] theorem Core.wp_hreq (k : Core) (n : Nat) (t : PredReg) : (k.wp n t).hreq = k.hreq := by unfold Core.wp; split <;> rfl
@[simp] theorem Core.wp_wdleft (k : Core) (n : Nat) (t : PredReg) : (k.wp n t).wdleft = k.wdleft := by unfold Core.wp; split <;> rfl
@[simp] theorem Core.wp_parcels (k : Core) (n : Nat) (t : PredReg) : (k.wp n t).parcels = k.parcels := by unfold Core.wp; split <;> rfl
@[simp] theorem Core.wp_banks (k : Core) (n : Nat) (t : PredReg) : (k.wp n t).banks = k.banks := by unfold Core.wp; split <;> rfl
@[simp] theorem Core.wp_refr (k : Core) (n : Nat) (t : PredReg) : (k.wp n t).refr = k.refr := by unfold Core.wp; split <;> rfl
@[simp] theorem Core.wp_passes (k : Core) (n : Nat) (t : PredReg) : (k.wp n t).passes = k.passes := by unfold Core.wp; split <;> rfl
@[simp] theorem Core.wp_todo (k : Core) (n : Nat) (t : PredReg) : (k.wp n t).todo = k.todo := by unfold Core.wp; split <;> rfl
@[simp] theorem Core.wp_ctr (k : Core) (n : Nat) (t : PredReg) : (k.wp n t).ctr = k.ctr := by unfold Core.wp; split <;> rfl
@[simp] theorem Core.wp_cntovf (k : Core) (n : Nat) (t : PredReg) : (k.wp n t).cntovf = k.cntovf := by unfold Core.wp; split <;> rfl
@[simp] theorem Core.wp_cntcfg (k : Core) (n : Nat) (t : PredReg) : (k.wp n t).cntcfg = k.cntcfg := by unfold Core.wp; split <;> rfl
@[simp] theorem Core.wp_cnew (k : Core) (n : Nat) (t : PredReg) : (k.wp n t).cnew = k.cnew := by unfold Core.wp; split <;> rfl
@[simp] theorem Core.wp_cclr (k : Core) (n : Nat) (t : PredReg) : (k.wp n t).cclr = k.cclr := by unfold Core.wp; split <;> rfl
@[simp] theorem Core.wp_cfgNext (k : Core) (n : Nat) (t : PredReg) : (k.wp n t).cfgNext = k.cfgNext := by unfold Core.wp; split <;> rfl

@[simp] theorem Ctx.wx_pc (t : Ctx) (r : XReg) (w : Word) : (t.wx r w).pc = t.pc := by unfold Ctx.wx; split <;> rfl
@[simp] theorem Ctx.wx_st (t : Ctx) (r : XReg) (w : Word) : (t.wx r w).st = t.st := by unfold Ctx.wx; split <;> rfl
@[simp] theorem Ctx.wx_delay (t : Ctx) (r : XReg) (w : Word) : (t.wx r w).delay = t.delay := by unfold Ctx.wx; split <;> rfl
@[simp] theorem Ctx.wx_loops (t : Ctx) (r : XReg) (w : Word) : (t.wx r w).loops = t.loops := by unfold Ctx.wx; split <;> rfl
@[simp] theorem Ctx.wx_seq (t : Ctx) (r : XReg) (w : Word) : (t.wx r w).seq = t.seq := by unfold Ctx.wx; split <;> rfl
@[simp] theorem Ctx.wx_tok (t : Ctx) (r : XReg) (w : Word) : (t.wx r w).tok = t.tok := by unfold Ctx.wx; split <;> rfl
@[simp] theorem Ctx.wx_mcBusy (t : Ctx) (r : XReg) (w : Word) : (t.wx r w).mcBusy = t.mcBusy := by unfold Ctx.wx; split <;> rfl
@[simp] theorem Ctx.wx_wait (t : Ctx) (r : XReg) (w : Word) : (t.wx r w).wait = t.wait := by unfold Ctx.wx; split <;> rfl
@[simp] theorem Ctx.wx_waitFrom (t : Ctx) (r : XReg) (w : Word) : (t.wx r w).waitFrom = t.waitFrom := by unfold Ctx.wx; split <;> rfl
@[simp] theorem Ctx.wx_rel (t : Ctx) (r : XReg) (w : Word) : (t.wx r w).rel = t.rel := by unfold Ctx.wx; split <;> rfl
@[simp] theorem Ctx.wx_arrived (t : Ctx) (r : XReg) (w : Word) : (t.wx r w).arrived = t.arrived := by unfold Ctx.wx; split <;> rfl
@[simp] theorem Ctx.wx_halting (t : Ctx) (r : XReg) (w : Word) : (t.wx r w).halting = t.halting := by unfold Ctx.wx; split <;> rfl
@[simp] theorem Ctx.wx_frel (t : Ctx) (r : XReg) (w : Word) : (t.wx r w).frel = t.frel := by unfold Ctx.wx; split <;> rfl

@[simp] theorem Eng.wr_pc (e : Eng) (n : Nat) (w : Word) : (e.wr n w).pc = e.pc := rfl
@[simp] theorem Eng.wr_st (e : Eng) (n : Nat) (w : Word) : (e.wr n w).st = e.st := rfl
@[simp] theorem Eng.wr_shape (e : Eng) (n : Nat) (w : Word) : (e.wr n w).shape = e.shape := rfl
@[simp] theorem Eng.wr_cur (e : Eng) (n : Nat) (w : Word) : (e.wr n w).cur = e.cur := rfl
@[simp] theorem Eng.wr_chan (e : Eng) (n : Nat) (w : Word) : (e.wr n w).chan = e.chan := rfl
@[simp] theorem Eng.wr_chFrom (e : Eng) (n : Nat) (w : Word) : (e.wr n w).chFrom = e.chFrom := rfl
@[simp] theorem Eng.wr_sent (e : Eng) (n : Nat) (w : Word) : (e.wr n w).sent = e.sent := rfl
@[simp] theorem Eng.wr_waitFrom (e : Eng) (n : Nat) (w : Word) : (e.wr n w).waitFrom = e.waitFrom := rfl
@[simp] theorem Eng.wr_rel (e : Eng) (n : Nat) (w : Word) : (e.wr n w).rel = e.rel := rfl
@[simp] theorem Eng.wr_page (e : Eng) (n : Nat) (w : Word) : (e.wr n w).page = e.page := rfl
@[simp] theorem Eng.wr_acqs (e : Eng) (n : Nat) (w : Word) : (e.wr n w).acqs = e.acqs := rfl
@[simp] theorem Eng.wr_startIn (e : Eng) (n : Nat) (w : Word) : (e.wr n w).startIn = e.startIn := rfl
@[simp] theorem Eng.wr_stopReq (e : Eng) (n : Nat) (w : Word) : (e.wr n w).stopReq = e.stopReq := rfl
@[simp] theorem Eng.wr_slotOk (e : Eng) (n : Nat) (w : Word) : (e.wr n w).slotOk = e.slotOk := rfl
@[simp] theorem Eng.wr_swept (e : Eng) (n : Nat) (w : Word) : (e.wr n w).swept = e.swept := rfl

/-! A core, kiln or register after an update -/

@[simp] theorem State.core_setCore_same (s : State) (c : Nat) (k : Core) : (s.setCore c k).core c = k := mget_mset_same ({} : Core) s.cores c k
theorem State.core_setCore_ne (s : State) {c d : Nat} (k : Core) (h : d ≠ c) : (s.setCore c k).core d = s.core d :=
  mget_mset_ne ({} : Core) s.cores k h
theorem State.core_setCore (s : State) (c d : Nat) (k : Core) : (s.setCore c k).core d = if d = c then k else s.core d :=
  mget_mset ({} : Core) s.cores c d k
@[simp] theorem State.core_modCore_same (s : State) (c : Nat) (g : Core → Core) : (s.modCore c g).core c = g (s.core c) :=
  s.core_setCore_same c _
theorem State.core_modCore_ne (s : State) {c d : Nat} (g : Core → Core) (h : d ≠ c) : (s.modCore c g).core d = s.core d :=
  s.core_setCore_ne _ h
@[simp] theorem State.setCore_setCore (s : State) (c : Nat) (k q : Core) : (s.setCore c k).setCore c q = s.setCore c q := by
  simp [State.setCore]
@[simp] theorem State.modCore_modCore (s : State) (c : Nat) (g q : Core → Core) :
    (s.modCore c g).modCore c q = s.modCore c (fun k => q (g k)) := by
  simp [State.modCore]
@[simp] theorem State.kiln_setKiln_same (s : State) (n : Nat) (x : Kiln) : (s.setKiln n x).kiln n = x := mget_mset_same ({} : Kiln) s.kilns n x
theorem State.kiln_setKiln_ne (s : State) {n q : Nat} (x : Kiln) (h : q ≠ n) : (s.setKiln n x).kiln q = s.kiln q :=
  mget_mset_ne ({} : Kiln) s.kilns x h
@[simp] theorem State.kiln_modKiln_same (s : State) (n : Nat) (g : Kiln → Kiln) : (s.modKiln n g).kiln n = g (s.kiln n) :=
  s.kiln_setKiln_same n _
@[simp] theorem State.core_modHub (s : State) (g : Hub → Hub) (c : Nat) : (s.modHub g).core c = s.core c := rfl
@[simp] theorem State.kiln_modHub (s : State) (g : Hub → Hub) (n : Nat) : (s.modHub g).kiln n = s.kiln n := rfl
@[simp] theorem State.core_modKiln (s : State) (n : Nat) (g : Kiln → Kiln) (c : Nat) : (s.modKiln n g).core c = s.core c := rfl
@[simp] theorem State.kiln_modCore (s : State) (c : Nat) (g : Core → Core) (n : Nat) : (s.modCore c g).kiln n = s.kiln n := rfl
@[simp] theorem State.core_soon (s : State) (l : List Act) (c : Nat) : (s.soon l).core c = s.core c := rfl
@[simp] theorem State.core_send (s : State) (o : Out) (c : Nat) : (s.send o).core c = s.core c := rfl
@[simp] theorem State.me_setMe (s : State) (k : Core) : (s.setMe k).me = k := s.core_setCore_same _ k
@[simp] theorem State.me_modMe (s : State) (g : Core → Core) : (s.modMe g).me = g s.me := s.core_modCore_same _ g

/-- A context reads as it was set, and the others as before. -/
theorem Core.ctx_setCtx (k : Core) (x : Nat) (t : Ctx) : (k.setCtx x t).ctx x = t := by
  unfold Core.setCtx Core.ctx
  split
  · rfl
  · split <;> rfl
theorem Core.ctx_modCtx (k : Core) (x : Nat) (g : Ctx → Ctx) : (k.modCtx x g).ctx x = g (k.ctx x) := k.ctx_setCtx x _
/-- Contexts 0 to 2 have each their own. -/
theorem Core.ctx_setCtx_ne (k : Core) {x y : Nat} (t : Ctx) (hx : x ≤ 2) (hy : y ≤ 2) (h : y ≠ x) :
    (k.setCtx x t).ctx y = k.ctx y := by
  have : x = 0 ∨ x = 1 ∨ x = 2 := by omega
  have : y = 0 ∨ y = 1 ∨ y = 2 := by omega
  rcases ‹x = 0 ∨ _› with rfl | rfl | rfl <;> rcases ‹y = 0 ∨ _› with rfl | rfl | rfl <;> first | contradiction | rfl
theorem Core.eng_setEng (k : Core) (e : Nat) (x : Eng) : (k.setEng e x).eng e = x := by
  unfold Core.setEng Core.eng
  split
  · rfl
  · split <;> rfl
theorem Core.eng_setEng_ne (k : Core) {e q : Nat} (x : Eng) (he : e ≤ 2) (hq : q ≤ 2) (h : q ≠ e) :
    (k.setEng e x).eng q = k.eng q := by
  have : e = 0 ∨ e = 1 ∨ e = 2 := by omega
  have : q = 0 ∨ q = 1 ∨ q = 2 := by omega
  rcases ‹e = 0 ∨ _› with rfl | rfl | rfl <;> rcases ‹q = 0 ∨ _› with rfl | rfl | rfl <;> first | contradiction | rfl

@[simp] theorem Ctx.rx_zero (t : Ctx) : t.rx 0 = 0 := rfl
@[simp] theorem Ctx.wx_zero (t : Ctx) (w : Word) : t.wx 0 w = t := rfl
/-- A scalar register reads as written. -/
theorem Ctx.rx_wx_same (t : Ctx) {r : XReg} (w : Word) (h : r ≠ 0) : (t.wx r w).rx r = w := by
  rw [Ctx.wx, if_neg h, Ctx.rx, if_neg h, mget_mput_same]
theorem Ctx.rx_wx_ne (t : Ctx) {r q : XReg} (w : Word) (h : q ≠ r) : (t.wx r w).rx q = t.rx q := by
  by_cases hr : r = 0
  · rw [hr, Ctx.wx_zero]
  · by_cases hq : q = 0
    · rw [hq]; rfl
    · have : q.toNat ≠ r.toNat := fun e => h (BitVec.eq_of_toNat_eq e)
      rw [Ctx.wx, if_neg hr, Ctx.rx, Ctx.rx, if_neg hq, if_neg hq, mget_mput_ne 0 t.x w this]
@[simp] theorem Core.rv_wv_same (k : Core) (n : Nat) (t : Tile) : (k.wv n t).rv n = t := mget_mput_same 0 k.v n t
theorem Core.rv_wv_ne (k : Core) {n q : Nat} (t : Tile) (h : q ≠ n) : (k.wv n t).rv q = k.rv q := mget_mput_ne 0 k.v t h
theorem Core.rp_wp_same (k : Core) {n : Nat} (t : PredReg) (h : n ≠ 0) : (k.wp n t).rp n = t := by simp [Core.rp, Core.wp, h]
@[simp] theorem Core.rp_zero (k : Core) : k.rp 0 = BitVec.allOnes 2048 := rfl
@[simp] theorem Core.wp_zero (k : Core) (t : PredReg) : k.wp 0 t = k := rfl
theorem Core.rp_wp_ne (k : Core) {n q : Nat} (t : PredReg) (h : q ≠ n) : (k.wp n t).rp q = k.rp q := by
  by_cases hn : n = 0
  · rw [hn, Core.wp_zero]
  · by_cases hq : q = 0
    · rw [hq]; rfl
    · rw [Core.wp, if_neg hn, Core.rp, Core.rp, if_neg hq, if_neg hq, mget_mput_ne 0 k.p t h]
@[simp] theorem Eng.rr_wr_same (e : Eng) (n : Nat) (w : Word) : (e.wr n w).rr n = w := mget_mput_same 0 e.r n w
theorem Eng.rr_wr_ne (e : Eng) {n q : Nat} (w : Word) (h : q ≠ n) : (e.wr n w).rr q = e.rr q := mget_mput_ne 0 e.r w h

end Sys2Proof.Machine
end

