-- ==== Sys2Proof/Laws/Ops.lean ====
section
/-! SUPPORT. What the shared operations can do, each said once: issue, the raising of causes, operations put in flight, the
stall of a parcel, and the writers of memory. -/

namespace Sys2Proof.Machine

/-! Issue -/

/-- A bundle context's instruction issues: a well-formed one has its effect, another is an ILLEGAL stop. -/
theorem issue_eq {i : Instr} {s : State} {f : State → State} (h : s.cur.src ≤ 2) :
    issue i s f = .next (if i.wf = true then f s else illegal s 0) := by
  rw [issue, if_pos h]
  split <;> rfl
theorem issue_wf {i : Instr} {s : State} {f : State → State} (h : s.cur.src ≤ 2) (hw : i.wf = true) :
    issue i s f = .next (f s) := by
  rw [issue_eq h, if_pos hw]
theorem issueV_eq {i : Instr} {s : State} {f : State → State} (h : s.cur.src = 1) :
    issueV i s f = .next (if i.wf = true then f s else illegal s 0) := by
  rw [issueV, if_pos h]
  split <;> rfl
theorem issueC_eq {i : Instr} {s : State} {f : State → State} (h : s.copies) :
    issueC i s f = .next (if i.wf = true then f s else wordIllegal s) := by
  rw [issueC, if_pos (show s.cur.src = 3 ∨ s.cur.src = 4 from h)]
  split <;> rfl
theorem issueM_eq {i : Instr} {s : State} {f : State → State} (h : s.mIssues) :
    issueM i s f = .next (if i.wf = true then f s else wordIllegal s) := by
  rw [issueM, if_pos (show s.cur.src = 5 from h)]
  split <;> rfl
theorem issueF_eq {i : Instr} {s : State} {f : State → Drain → State} {d : Drain} (h : s.cur.src = 6) (hd : s.fd = some d) :
    issueF i s f = .next (if i.wf = true then f s d else raiseOn s d.acc 4 6 0 d.slot 0) := by
  simp only [issueF, if_pos h, hd]
  split <;> rfl

/-- A next state at issue is the instruction's effect or the ILLEGAL stop, and there was an issuer. -/
theorem issue_next {i : Instr} {s t : State} {f : State → State} (h : issue i s f = .next t) :
    s.cur.src ≤ 2 ∧ (i.wf = true ∧ t = f s ∨ i.wf = false ∧ t = illegal s 0) := by
  unfold issue at h
  split at h
  · next hs =>
    refine ⟨hs, ?_⟩
    split at h
    · next hw => exact .inl ⟨hw, by cases h; rfl⟩
    · next hw => exact .inr ⟨by simpa using hw, by cases h; rfl⟩
  · cases h
theorem issueV_next {i : Instr} {s t : State} {f : State → State} (h : issueV i s f = .next t) :
    s.cur.src = 1 ∧ (i.wf = true ∧ t = f s ∨ i.wf = false ∧ t = illegal s 0) := by
  unfold issueV at h
  split at h
  · next hs =>
    refine ⟨hs, ?_⟩
    split at h
    · next hw => exact .inl ⟨hw, by cases h; rfl⟩
    · next hw => exact .inr ⟨by simpa using hw, by cases h; rfl⟩
  · cases h
theorem issueC_next {i : Instr} {s t : State} {f : State → State} (h : issueC i s f = .next t) :
    s.copies ∧ (i.wf = true ∧ t = f s ∨ i.wf = false ∧ t = wordIllegal s) := by
  unfold issueC at h
  split at h
  · next hs =>
    refine ⟨hs, ?_⟩
    split at h
    · next hw => exact .inl ⟨hw, by cases h; rfl⟩
    · next hw => exact .inr ⟨by simpa using hw, by cases h; rfl⟩
  · cases h
theorem issueM_next {i : Instr} {s t : State} {f : State → State} (h : issueM i s f = .next t) :
    s.mIssues ∧ (i.wf = true ∧ t = f s ∨ i.wf = false ∧ t = wordIllegal s) := by
  unfold issueM at h
  split at h
  · next hs =>
    refine ⟨hs, ?_⟩
    split at h
    · next hw => exact .inl ⟨hw, by cases h; rfl⟩
    · next hw => exact .inr ⟨by simpa using hw, by cases h; rfl⟩
  · cases h

/-- Issue is never a refusal. -/
theorem issue_not_refused (i : Instr) (s : State) (f : State → State) (r : Refusal) : issue i s f ≠ .refused r := by
  unfold issue
  split
  · split <;> exact nofun
  · exact nofun
theorem issueV_not_refused (i : Instr) (s : State) (f : State → State) (r : Refusal) : issueV i s f ≠ .refused r := by
  unfold issueV
  split
  · split <;> exact nofun
  · exact nofun
theorem issueC_not_refused (i : Instr) (s : State) (f : State → State) (r : Refusal) : issueC i s f ≠ .refused r := by
  unfold issueC
  split
  · split <;> exact nofun
  · exact nofun
theorem issueM_not_refused (i : Instr) (s : State) (f : State → State) (r : Refusal) : issueM i s f ≠ .refused r := by
  unfold issueM
  split
  · split <;> exact nofun
  · exact nofun
theorem issueF_not_refused (i : Instr) (s : State) (f : State → Drain → State) (r : Refusal) : issueF i s f ≠ .refused r := by
  unfold issueF
  split
  · split
    · split <;> exact nofun
    · exact nofun
  · exact nofun

/-! Causes, operations in flight and stalls -/

/-- A cause raised at issue is the issuing core's last one, and the parcel stops. -/
theorem raiseAt_raises (s : State) (cause detail : Nat) (addr : Word) :
    (raiseAt s cause detail addr).me.raises = s.me.raises ++ [⟨cause, s.cur.src, s.cur.slot, detail, addr, 0xFFFF, false⟩] := by
  have := s.me_modMe (fun k => { k with raises := k.raises ++ [⟨cause, s.cur.src, s.cur.slot, detail, addr, 0xFFFF, false⟩] })
  exact congrArg Core.raises this
@[simp] theorem raiseAt_verdict (s : State) (cause detail : Nat) (addr : Word) : (raiseAt s cause detail addr).cur.verdict = .stop := rfl
/-- A cause raised at issue changes no other core. -/
theorem raiseAt_core_ne (s : State) (cause detail : Nat) (addr : Word) {c : Nat} (h : c ≠ s.cur.core) :
    (raiseAt s cause detail addr).core c = s.core c :=
  s.core_modCore_ne (fun k => { k with raises := k.raises ++ [⟨cause, s.cur.src, s.cur.slot, detail, addr, 0xFFFF, false⟩] }) h

theorem raiseOn_raises (s : State) (c cause stream slot detail : Nat) (addr : Word) :
    ((raiseOn s c cause stream slot detail addr).core c).raises
      = (s.core c).raises ++ [⟨cause, stream, slot, detail, addr, 0xFFFF, true⟩] :=
  congrArg Core.raises (s.core_modCore_same c _)
theorem raiseOn_core_ne (s : State) {c d : Nat} (cause stream slot detail : Nat) (addr : Word) (h : d ≠ c) :
    (raiseOn s c cause stream slot detail addr).core d = s.core d := s.core_modCore_ne _ h

@[simp] theorem stallOn_verdict (s : State) (w : WaitK) : (stallOn s w).cur.verdict = .stall := rfl
theorem stallOn_core_ne (s : State) (w : WaitK) {c : Nat} (h : c ≠ s.cur.core) : (stallOn s w).core c = s.core c :=
  s.core_modCore_ne (fun k => k.modCtx s.cur.src (fun t => if t.wait = some w then t else { t with wait := some w, waitFrom := 0 })) h

/-- An operation put in flight is the issuing core's last one. -/
theorem fly_flights (s : State) (f : Flight) : (fly s f).me.flights = s.me.flights ++ [f] := by
  have := s.me_modMe (fun k =>
    let k := { k with flights := k.flights ++ [f], nextId := k.nextId + 1 }
    match f.tok with
    | some t => k.modCtx f.src (fun x => { x with tok := mmod 0 x.tok t.toNat (· + 1) })
    | none => k)
  refine (congrArg Core.flights this).trans ?_
  cases f.tok <;> simp
theorem fly_core_ne (s : State) (f : Flight) {c : Nat} (h : c ≠ s.cur.core) : (fly s f).core c = s.core c := s.core_modCore_ne _ h

/-! Memory -/

/-- Memories that are as before keep their form. -/
theorem State.memOk_of_eq {s t : State} (h : s.memOk) (h1 : t.mem = s.mem) (h2 : t.hostMem = s.hostMem)
    (h3 : t.peerMem = s.peerMem) : t.memOk := by
  unfold State.memOk at h ⊢
  rw [h1, h2, h3]
  exact h

theorem State.rawWr_memOk (s : State) (pa : Nat) (bs : List Byte) (h : s.memOk) : (s.rawWr pa bs).memOk := by
  unfold State.rawWr
  split
  · exact ⟨wrBs_wf _ _ _ h.1, h.2⟩
  · exact ⟨h.1, h.2.1, wrBs_wf _ _ _ h.2.2⟩
  · exact ⟨h.1, wrBs_wf _ _ _ h.2.1, h.2.2⟩
  · exact h

theorem State.pwr_memOk (s : State) (pa : Nat) (bs : List Byte) (h : s.memOk) : (s.pwr pa bs).memOk := s.rawWr_memOk _ bs h

theorem trPlace_memOk {s t : State} {ty core scyc a b : Nat} {more : List Byte} (h : s.memOk)
    (ht : trPlace s ty core scyc a b more = some t) : t.memOk := by
  simp only [trPlace, Option.ite_none_left_eq_some, Option.some.injEq] at ht
  obtain ⟨-, rfl⟩ := ht
  refine State.pwr_memOk _ _ _ ?_
  split
  · exact State.pwr_memOk _ _ _ h
  · exact h

theorem State.trace_memOk (s : State) (bitNo ty core scyc a b : Nat) (more : List Byte) (h : s.memOk) :
    (s.trace bitNo ty core scyc a b more).memOk := by
  unfold State.trace
  simp only
  split
  · exact h
  · split
    · next t ht =>
      obtain ⟨u, hu, ht⟩ := Option.bind_eq_some_iff.mp ht
      refine trPlace_memOk ?_ ht
      split at hu
      · cases hu; exact h
      · obtain ⟨v, hv, rfl⟩ := Option.map_eq_some_iff.mp hu
        have hv' : v.memOk := trPlace_memOk h hv
        exact hv'
    · exact h

theorem State.count_memOk (s : State) (c i n : Nat) (h : s.memOk) : (s.count c i n).memOk := h

/-- A property that every step of a fold keeps holds at its end. -/
theorem foldl_keeps {α β : Type} {P : β → Prop} {f : β → α → β} (hf : ∀ b a, P b → P (f b a)) :
    ∀ (l : List α) (b : β), P b → P (l.foldl f b)
  | [], _, h => h
  | a :: l, b, h => foldl_keeps hf l (f b a) (hf b a h)

theorem State.settleCounts_memOk (s : State) (h : s.memOk) : s.settleCounts.memOk := by
  unfold State.settleCounts
  refine foldl_keeps (P := State.memOk) (fun t e ht => ?_) _ _ ?_
  · simp only
    split
    · exact ht
    · refine foldl_keeps (P := State.memOk) (fun u x hu => ?_) e.2.cnew t ht
      split
      · exact hu
      · split
        · exact hu
        · exact State.trace_memOk _ _ _ _ _ _ _ _ hu
  · split
    · exact State.trace_memOk _ _ _ _ _ _ _ _ h
    · exact h

/-- What HBM alone holds is in canonical form. -/
theorem State.hbmOnly_wf (s : State) (h : Memory.wf s.mem = true) : Memory.wf s.hbmOnly = true := by
  refine foldl_keeps (P := fun m : Mem => Memory.wf m = true) (fun m e hm => ?_) s.l2 s.mem h
  split
  · split
    · exact wrBs_wf _ _ _ hm
    · exact hm
  · exact hm

theorem State.cleared_memOk (s : State) (warm : Bool) (h : s.memOk) : (s.cleared warm).memOk := by
  refine ⟨?_, h.2⟩
  show Memory.wf (ite _ _ _) = true
  split
  · exact s.hbmOnly_wf h.1
  · rfl

theorem reset_memOk : State.reset.memOk := ⟨rfl, rfl, rfl⟩

/-! Steps -/

/-- An event of the module's own happens if it can occur, else nothing does. -/
theorem State.attempt_next {s t : State} {i : Instr} {inp : Inp} (h : exec i { s with inp := inp } = .next t) :
    s.attempt i inp = t := by
  rw [State.attempt, h]
theorem State.attempt_not {s : State} {i : Instr} {inp : Inp} (h : ∀ t, exec i { s with inp := inp } ≠ .next t) :
    s.attempt i inp = s := by
  rw [State.attempt]
  split
  · next t ht => exact absurd ht (h t)
  · rfl

theorem step_nil {s : State} (h : s.script = []) : step s = .next s.tick := by
  rw [step, State.stepAct, h]
theorem step_cons {s : State} {a : Act} {rest : List Act} (h : s.script = a :: rest) :
    step s = ({ s with script := rest }).doAct a := by
  rw [step, State.stepAct, h]

end Sys2Proof.Machine
end

