-- ==== Sys2Proof/Laws/PerInstr.lean ====
section
/-! SUPPORT. One family of statements per instruction: the word of an instruction has the width of its class
and an opcode that Tables 13-5 to 13-9 assign. -/

namespace Sys2Proof.Laws

/-- Bits of a word of a class (R250, R261, R262). -/
def Fits.width : Cls → Nat
  | .sc | .mc | .vc => 56
  | .copy | .kiln => 48
  | .flue => 32

/-- An instruction that has an encoding has one of its class's width, under an assigned opcode. -/
def Fits.Statement (i : Instr) : Prop :=
  ∀ c w, encodeFields i = some (c, w) → w < 2 ^ Fits.width c ∧ c.assigned (c.opcode w) = true

theorem fit_sc (f : ScF) (h : scFits f) (ha : Cls.sc.assigned f.op = true) :
    f.pack < 2 ^ Fits.width .sc ∧ Cls.sc.assigned (Cls.sc.opcode f.pack) = true := by
  have ho : Cls.sc.opcode f.pack = f.op := congrArg ScF.op (sc_unpack_pack f h)
  refine ⟨?_, by rw [ho]; exact ha⟩
  simp only [scFits] at h
  simp only [ScF.pack, Fits.width]
  omega
theorem fit_mc (f : McF) (h : mcFits f) (ha : Cls.mc.assigned f.op = true) :
    f.pack < 2 ^ Fits.width .mc ∧ Cls.mc.assigned (Cls.mc.opcode f.pack) = true := by
  have ho : Cls.mc.opcode f.pack = f.op := congrArg McF.op (mc_unpack_pack f h)
  refine ⟨?_, by rw [ho]; exact ha⟩
  simp only [mcFits] at h
  simp only [McF.pack, Fits.width]
  omega
theorem fit_vc (f : VcF) (h : vcFits f) (ha : Cls.vc.assigned f.op = true) :
    f.pack < 2 ^ Fits.width .vc ∧ Cls.vc.assigned (Cls.vc.opcode f.pack) = true := by
  have ho : Cls.vc.opcode f.pack = f.op := congrArg VcF.op (vc_unpack_pack f h)
  refine ⟨?_, by rw [ho]; exact ha⟩
  simp only [vcFits] at h
  simp only [VcF.pack, Fits.width]
  omega
theorem fit_copy (f : EwF) (h : ewFits f) (ha : Cls.copy.assigned f.op = true) :
    f.pack < 2 ^ Fits.width .copy ∧ Cls.copy.assigned (Cls.copy.opcode f.pack) = true := by
  have ho : Cls.copy.opcode f.pack = f.op := congrArg EwF.op (ew_unpack_pack f h)
  refine ⟨?_, by rw [ho]; exact ha⟩
  simp only [ewFits] at h
  simp only [EwF.pack, Fits.width]
  omega
theorem fit_kiln (f : EwF) (h : ewFits f) (ha : Cls.kiln.assigned f.op = true) :
    f.pack < 2 ^ Fits.width .kiln ∧ Cls.kiln.assigned (Cls.kiln.opcode f.pack) = true := by
  have ho : Cls.kiln.opcode f.pack = f.op := congrArg EwF.op (ew_unpack_pack f h)
  refine ⟨?_, by rw [ho]; exact ha⟩
  simp only [ewFits] at h
  simp only [EwF.pack, Fits.width]
  omega
theorem fit_flue (f : FlF) (h : flFits f) (ha : Cls.flue.assigned f.op = true) :
    f.pack < 2 ^ Fits.width .flue ∧ Cls.flue.assigned (Cls.flue.opcode f.pack) = true := by
  have ho : Cls.flue.opcode f.pack = f.op := congrArg FlF.op (fl_unpack_pack f h)
  refine ⟨?_, by rw [ho]; exact ha⟩
  simp only [flFits] at h
  simp only [FlF.pack, Fits.width]
  omega

end Sys2Proof.Laws

open Sys2Proof Sys2Proof.Laws

theorem Sys2Proof.Laws.Fits.add (o : R3) : Fits.Statement (.add o) := by
  intro c w h; cases h; exact fit_sc _ (encSC_fits (.add o) _ rfl) rfl
theorem Sys2Proof.Laws.Fits.sub (o : R3) : Fits.Statement (.sub o) := by
  intro c w h; cases h; exact fit_sc _ (encSC_fits (.sub o) _ rfl) rfl
theorem Sys2Proof.Laws.Fits.and (o : R3) : Fits.Statement (.and o) := by
  intro c w h; cases h; exact fit_sc _ (encSC_fits (.and o) _ rfl) rfl
theorem Sys2Proof.Laws.Fits.or (o : R3) : Fits.Statement (.or o) := by
  intro c w h; cases h; exact fit_sc _ (encSC_fits (.or o) _ rfl) rfl
theorem Sys2Proof.Laws.Fits.xor (o : R3) : Fits.Statement (.xor o) := by
  intro c w h; cases h; exact fit_sc _ (encSC_fits (.xor o) _ rfl) rfl
theorem Sys2Proof.Laws.Fits.andn (o : R3) : Fits.Statement (.andn o) := by
  intro c w h; cases h; exact fit_sc _ (encSC_fits (.andn o) _ rfl) rfl
theorem Sys2Proof.Laws.Fits.shl (o : R3) : Fits.Statement (.shl o) := by
  intro c w h; cases h; exact fit_sc _ (encSC_fits (.shl o) _ rfl) rfl
theorem Sys2Proof.Laws.Fits.shr (o : R3) : Fits.Statement (.shr o) := by
  intro c w h; cases h; exact fit_sc _ (encSC_fits (.shr o) _ rfl) rfl
theorem Sys2Proof.Laws.Fits.sra (o : R3) : Fits.Statement (.sra o) := by
  intro c w h; cases h; exact fit_sc _ (encSC_fits (.sra o) _ rfl) rfl
theorem Sys2Proof.Laws.Fits.rotr (o : R3) : Fits.Statement (.rotr o) := by
  intro c w h; cases h; exact fit_sc _ (encSC_fits (.rotr o) _ rfl) rfl
theorem Sys2Proof.Laws.Fits.mul (o : R3) : Fits.Statement (.mul o) := by
  intro c w h; cases h; exact fit_sc _ (encSC_fits (.mul o) _ rfl) rfl
theorem Sys2Proof.Laws.Fits.mulh (o : R3) : Fits.Statement (.mulh o) := by
  intro c w h; cases h; exact fit_sc _ (encSC_fits (.mulh o) _ rfl) rfl
theorem Sys2Proof.Laws.Fits.mulhu (o : R3) : Fits.Statement (.mulhu o) := by
  intro c w h; cases h; exact fit_sc _ (encSC_fits (.mulhu o) _ rfl) rfl
theorem Sys2Proof.Laws.Fits.div (o : R3) : Fits.Statement (.div o) := by
  intro c w h; cases h; exact fit_sc _ (encSC_fits (.div o) _ rfl) rfl
theorem Sys2Proof.Laws.Fits.divu (o : R3) : Fits.Statement (.divu o) := by
  intro c w h; cases h; exact fit_sc _ (encSC_fits (.divu o) _ rfl) rfl
theorem Sys2Proof.Laws.Fits.rem (o : R3) : Fits.Statement (.rem o) := by
  intro c w h; cases h; exact fit_sc _ (encSC_fits (.rem o) _ rfl) rfl
theorem Sys2Proof.Laws.Fits.remu (o : R3) : Fits.Statement (.remu o) := by
  intro c w h; cases h; exact fit_sc _ (encSC_fits (.remu o) _ rfl) rfl
theorem Sys2Proof.Laws.Fits.min (o : R3) : Fits.Statement (.min o) := by
  intro c w h; cases h; exact fit_sc _ (encSC_fits (.min o) _ rfl) rfl
theorem Sys2Proof.Laws.Fits.max (o : R3) : Fits.Statement (.max o) := by
  intro c w h; cases h; exact fit_sc _ (encSC_fits (.max o) _ rfl) rfl
theorem Sys2Proof.Laws.Fits.minu (o : R3) : Fits.Statement (.minu o) := by
  intro c w h; cases h; exact fit_sc _ (encSC_fits (.minu o) _ rfl) rfl
theorem Sys2Proof.Laws.Fits.maxu (o : R3) : Fits.Statement (.maxu o) := by
  intro c w h; cases h; exact fit_sc _ (encSC_fits (.maxu o) _ rfl) rfl
theorem Sys2Proof.Laws.Fits.seq (o : R3) : Fits.Statement (.seq o) := by
  intro c w h; cases h; exact fit_sc _ (encSC_fits (.seq o) _ rfl) rfl
theorem Sys2Proof.Laws.Fits.sne (o : R3) : Fits.Statement (.sne o) := by
  intro c w h; cases h; exact fit_sc _ (encSC_fits (.sne o) _ rfl) rfl
theorem Sys2Proof.Laws.Fits.slt (o : R3) : Fits.Statement (.slt o) := by
  intro c w h; cases h; exact fit_sc _ (encSC_fits (.slt o) _ rfl) rfl
theorem Sys2Proof.Laws.Fits.sltu (o : R3) : Fits.Statement (.sltu o) := by
  intro c w h; cases h; exact fit_sc _ (encSC_fits (.sltu o) _ rfl) rfl
theorem Sys2Proof.Laws.Fits.sel (o : R3) (xc : XReg) : Fits.Statement (.sel o xc) := by
  intro c w h; cases h; exact fit_sc _ (encSC_fits (.sel o xc) _ rfl) rfl
theorem Sys2Proof.Laws.Fits.clz (o : R2) : Fits.Statement (.clz o) := by
  intro c w h; cases h; exact fit_sc _ (encSC_fits (.clz o) _ rfl) rfl
theorem Sys2Proof.Laws.Fits.ctz (o : R2) : Fits.Statement (.ctz o) := by
  intro c w h; cases h; exact fit_sc _ (encSC_fits (.ctz o) _ rfl) rfl
theorem Sys2Proof.Laws.Fits.popc (o : R2) : Fits.Statement (.popc o) := by
  intro c w h; cases h; exact fit_sc _ (encSC_fits (.popc o) _ rfl) rfl
theorem Sys2Proof.Laws.Fits.bfx (o : R2) (sx : Bool) (pos : BitVec 6) (len1 : BitVec 6) : Fits.Statement (.bfx o sx pos len1) := by
  intro c w h; cases h; exact fit_sc _ (encSC_fits (.bfx o sx pos len1) _ rfl) rfl
theorem Sys2Proof.Laws.Fits.bfi (o : R3) (pos : BitVec 6) (len1 : BitVec 6) : Fits.Statement (.bfi o pos len1) := by
  intro c w h; cases h; exact fit_sc _ (encSC_fits (.bfi o pos len1) _ rfl) rfl
theorem Sys2Proof.Laws.Fits.addi (o : I2) : Fits.Statement (.addi o) := by
  intro c w h; cases h; exact fit_sc _ (encSC_fits (.addi o) _ rfl) rfl
theorem Sys2Proof.Laws.Fits.andi (o : I2) : Fits.Statement (.andi o) := by
  intro c w h; cases h; exact fit_sc _ (encSC_fits (.andi o) _ rfl) rfl
theorem Sys2Proof.Laws.Fits.ori (o : I2) : Fits.Statement (.ori o) := by
  intro c w h; cases h; exact fit_sc _ (encSC_fits (.ori o) _ rfl) rfl
theorem Sys2Proof.Laws.Fits.xori (o : I2) : Fits.Statement (.xori o) := by
  intro c w h; cases h; exact fit_sc _ (encSC_fits (.xori o) _ rfl) rfl
theorem Sys2Proof.Laws.Fits.shli (o : Sh) : Fits.Statement (.shli o) := by
  intro c w h; cases h; exact fit_sc _ (encSC_fits (.shli o) _ rfl) rfl
theorem Sys2Proof.Laws.Fits.shri (o : Sh) : Fits.Statement (.shri o) := by
  intro c w h; cases h; exact fit_sc _ (encSC_fits (.shri o) _ rfl) rfl
theorem Sys2Proof.Laws.Fits.srai (o : Sh) : Fits.Statement (.srai o) := by
  intro c w h; cases h; exact fit_sc _ (encSC_fits (.srai o) _ rfl) rfl
theorem Sys2Proof.Laws.Fits.muli (o : I2) : Fits.Statement (.muli o) := by
  intro c w h; cases h; exact fit_sc _ (encSC_fits (.muli o) _ rfl) rfl
theorem Sys2Proof.Laws.Fits.slti (o : I2) : Fits.Statement (.slti o) := by
  intro c w h; cases h; exact fit_sc _ (encSC_fits (.slti o) _ rfl) rfl
theorem Sys2Proof.Laws.Fits.sltui (o : I2) : Fits.Statement (.sltui o) := by
  intro c w h; cases h; exact fit_sc _ (encSC_fits (.sltui o) _ rfl) rfl
theorem Sys2Proof.Laws.Fits.seqi (o : I2) : Fits.Statement (.seqi o) := by
  intro c w h; cases h; exact fit_sc _ (encSC_fits (.seqi o) _ rfl) rfl
theorem Sys2Proof.Laws.Fits.li (xd : XReg) (imm : BitVec 30) : Fits.Statement (.li xd imm) := by
  intro c w h; cases h; exact fit_sc _ (encSC_fits (.li xd imm) _ rfl) rfl
theorem Sys2Proof.Laws.Fits.lic (o : I2) : Fits.Statement (.lic o) := by
  intro c w h; cases h; exact fit_sc _ (encSC_fits (.lic o) _ rfl) rfl
theorem Sys2Proof.Laws.Fits.addpc (xd : XReg) (imm : BitVec 30) : Fits.Statement (.addpc xd imm) := by
  intro c w h; cases h; exact fit_sc _ (encSC_fits (.addpc xd imm) _ rfl) rfl
theorem Sys2Proof.Laws.Fits.lea (o : R3) (s : BitVec 3) (d : BitVec 27) : Fits.Statement (.lea o s d) := by
  intro c w h; cases h; exact fit_sc _ (encSC_fits (.lea o s d) _ rfl) rfl
theorem Sys2Proof.Laws.Fits.br (off : BitVec 30) : Fits.Statement (.br off) := by
  intro c w h; cases h; exact fit_sc _ (encSC_fits (.br off) _ rfl) rfl
theorem Sys2Proof.Laws.Fits.brz (xa : XReg) (off : BitVec 30) : Fits.Statement (.brz xa off) := by
  intro c w h; cases h; exact fit_sc _ (encSC_fits (.brz xa off) _ rfl) rfl
theorem Sys2Proof.Laws.Fits.brnz (xa : XReg) (off : BitVec 30) : Fits.Statement (.brnz xa off) := by
  intro c w h; cases h; exact fit_sc _ (encSC_fits (.brnz xa off) _ rfl) rfl
theorem Sys2Proof.Laws.Fits.brlt (xa : XReg) (xb : XReg) (off : BitVec 30) : Fits.Statement (.brlt xa xb off) := by
  intro c w h; cases h; exact fit_sc _ (encSC_fits (.brlt xa xb off) _ rfl) rfl
theorem Sys2Proof.Laws.Fits.brge (xa : XReg) (xb : XReg) (off : BitVec 30) : Fits.Statement (.brge xa xb off) := by
  intro c w h; cases h; exact fit_sc _ (encSC_fits (.brge xa xb off) _ rfl) rfl
theorem Sys2Proof.Laws.Fits.brltu (xa : XReg) (xb : XReg) (off : BitVec 30) : Fits.Statement (.brltu xa xb off) := by
  intro c w h; cases h; exact fit_sc _ (encSC_fits (.brltu xa xb off) _ rfl) rfl
theorem Sys2Proof.Laws.Fits.brgeu (xa : XReg) (xb : XReg) (off : BitVec 30) : Fits.Statement (.brgeu xa xb off) := by
  intro c w h; cases h; exact fit_sc _ (encSC_fits (.brgeu xa xb off) _ rfl) rfl
theorem Sys2Proof.Laws.Fits.jr (xa : XReg) : Fits.Statement (.jr xa) := by
  intro c w h; cases h; exact fit_sc _ (encSC_fits (.jr xa) _ rfl) rfl
theorem Sys2Proof.Laws.Fits.call (off : BitVec 30) : Fits.Statement (.call off) := by
  intro c w h; cases h; exact fit_sc _ (encSC_fits (.call off) _ rfl) rfl
theorem Sys2Proof.Laws.Fits.brlc (o : I2) : Fits.Statement (.brlc o) := by
  intro c w h; cases h; exact fit_sc _ (encSC_fits (.brlc o) _ rfl) rfl
theorem Sys2Proof.Laws.Fits.loop (xa : XReg) (len : BitVec 30) : Fits.Statement (.loop xa len) := by
  intro c w h; cases h; exact fit_sc _ (encSC_fits (.loop xa len) _ rfl) rfl
theorem Sys2Proof.Laws.Fits.loopm (xa : XReg) (ns1 : BitVec 3) (ii1 : BitVec 10) : Fits.Statement (.loopm xa ns1 ii1) := by
  intro c w h; cases h; exact fit_sc _ (encSC_fits (.loopm xa ns1 ii1) _ rfl) rfl
theorem Sys2Proof.Laws.Fits.qpush (q : BitVec 3) (xa : XReg) : Fits.Statement (.qpush q xa) := by
  intro c w h; cases h; exact fit_sc _ (encSC_fits (.qpush q xa) _ rfl) rfl
theorem Sys2Proof.Laws.Fits.qpop (xd : XReg) (q : BitVec 3) : Fits.Statement (.qpop xd q) := by
  intro c w h; cases h; exact fit_sc _ (encSC_fits (.qpop xd q) _ rfl) rfl
theorem Sys2Proof.Laws.Fits.qpeek (xd : XReg) (q : BitVec 3) : Fits.Statement (.qpeek xd q) := by
  intro c w h; cases h; exact fit_sc _ (encSC_fits (.qpeek xd q) _ rfl) rfl
theorem Sys2Proof.Laws.Fits.fset (os : OS) (f : BitVec 6) (xa : XReg) : Fits.Statement (.fset os f xa) := by
  intro c w h; cases h; exact fit_sc _ (encSC_fits (.fset os f xa) _ rfl) rfl
theorem Sys2Proof.Laws.Fits.finc (os : OS) (f : BitVec 6) (xa : XReg) (xb : XReg) : Fits.Statement (.finc os f xa xb) := by
  intro c w h; cases h; exact fit_sc _ (encSC_fits (.finc os f xa xb) _ rfl) rfl
theorem Sys2Proof.Laws.Fits.fwait (xd : XReg) (f : BitVec 6) (xb : XReg) : Fits.Statement (.fwait xd f xb) := by
  intro c w h; cases h; exact fit_sc _ (encSC_fits (.fwait xd f xb) _ rfl) rfl
theorem Sys2Proof.Laws.Fits.safept (idx : BitVec 16) : Fits.Statement (.safept idx) := by
  intro c w h; cases h; exact fit_sc _ (encSC_fits (.safept idx) _ rfl) rfl
theorem Sys2Proof.Laws.Fits.gbar (xd : XReg) (g : BitVec 2) : Fits.Statement (.gbar xd g) := by
  intro c w h; cases h; exact fit_sc _ (encSC_fits (.gbar xd g) _ rfl) rfl
theorem Sys2Proof.Laws.Fits.gred (op : BitVec 4) (xd : XReg) (g : BitVec 2) (xb : XReg) (xc : XReg) : Fits.Statement (.gred op xd g xb xc) := by
  intro c w h; cases h; exact fit_sc _ (encSC_fits (.gred op xd g xb xc) _ rfl) rfl
theorem Sys2Proof.Laws.Fits.gstep (xd : XReg) (g : BitVec 2) : Fits.Statement (.gstep xd g) := by
  intro c w h; cases h; exact fit_sc _ (encSC_fits (.gstep xd g) _ rfl) rfl
theorem Sys2Proof.Laws.Fits.launch (o : R3) : Fits.Statement (.launch o) := by
  intro c w h; cases h; exact fit_sc _ (encSC_fits (.launch o) _ rfl) rfl
theorem Sys2Proof.Laws.Fits.mwait (xd : XReg) : Fits.Statement (.mwait xd) := by
  intro c w h; cases h; exact fit_sc _ (encSC_fits (.mwait xd) _ rfl) rfl
theorem Sys2Proof.Laws.Fits.fork (xd : XReg) (g : BitVec 2) (xb : XReg) : Fits.Statement (.fork xd g xb) := by
  intro c w h; cases h; exact fit_sc _ (encSC_fits (.fork xd g xb) _ rfl) rfl
theorem Sys2Proof.Laws.Fits.sreward (o : R2) : Fits.Statement (.sreward o) := by
  intro c w h; cases h; exact fit_sc _ (encSC_fits (.sreward o) _ rfl) rfl
theorem Sys2Proof.Laws.Fits.sgwait (xd : XReg) (g : BitVec 2) : Fits.Statement (.sgwait xd g) := by
  intro c w h; cases h; exact fit_sc _ (encSC_fits (.sgwait xd g) _ rfl) rfl
theorem Sys2Proof.Laws.Fits.sgcancel (xd : XReg) (g : BitVec 2) (xb : XReg) : Fits.Statement (.sgcancel xd g xb) := by
  intro c w h; cases h; exact fit_sc _ (encSC_fits (.sgcancel xd g xb) _ rfl) rfl
theorem Sys2Proof.Laws.Fits.sginfo (xd : XReg) (g : BitVec 2) (sel : BitVec 2) : Fits.Statement (.sginfo xd g sel) := by
  intro c w h; cases h; exact fit_sc _ (encSC_fits (.sginfo xd g sel) _ rfl) rfl
theorem Sys2Proof.Laws.Fits.tscore (o : R2) : Fits.Statement (.tscore o) := by
  intro c w h; cases h; exact fit_sc _ (encSC_fits (.tscore o) _ rfl) rfl
theorem Sys2Proof.Laws.Fits.tgrow (o : R2) : Fits.Statement (.tgrow o) := by
  intro c w h; cases h; exact fit_sc _ (encSC_fits (.tgrow o) _ rfl) rfl
theorem Sys2Proof.Laws.Fits.tinfo (xd : XReg) (sel : BitVec 2) : Fits.Statement (.tinfo xd sel) := by
  intro c w h; cases h; exact fit_sc _ (encSC_fits (.tinfo xd sel) _ rfl) rfl
theorem Sys2Proof.Laws.Fits.klease (xd : XReg) : Fits.Statement (.klease xd) := by
  intro c w h; cases h; exact fit_sc _ (encSC_fits (.klease xd) _ rfl) rfl
theorem Sys2Proof.Laws.Fits.krel (xd : XReg) : Fits.Statement (.krel xd) := by
  intro c w h; cases h; exact fit_sc _ (encSC_fits (.krel xd) _ rfl) rfl
theorem Sys2Proof.Laws.Fits.kstart (o : R2) : Fits.Statement (.kstart o) := by
  intro c w h; cases h; exact fit_sc _ (encSC_fits (.kstart o) _ rfl) rfl
theorem Sys2Proof.Laws.Fits.cstart (o : R2) (e : BitVec 1) : Fits.Statement (.cstart o e) := by
  intro c w h; cases h; exact fit_sc _ (encSC_fits (.cstart o e) _ rfl) rfl
theorem Sys2Proof.Laws.Fits.estop (xd : XReg) (sel : BitVec 2) : Fits.Statement (.estop xd sel) := by
  intro c w h; cases h; exact fit_sc _ (encSC_fits (.estop xd sel) _ rfl) rfl
theorem Sys2Proof.Laws.Fits.estat (xd : XReg) (sel : BitVec 2) : Fits.Statement (.estat xd sel) := by
  intro c w h; cases h; exact fit_sc _ (encSC_fits (.estat xd sel) _ rfl) rfl
theorem Sys2Proof.Laws.Fits.flueld (o : R2) (slot : BitVec 3) : Fits.Statement (.flueld o slot) := by
  intro c w h; cases h; exact fit_sc _ (encSC_fits (.flueld o slot) _ rfl) rfl
theorem Sys2Proof.Laws.Fits.rds (xd : XReg) (n : BitVec 12) : Fits.Statement (.rds xd n) := by
  intro c w h; cases h; exact fit_sc _ (encSC_fits (.rds xd n) _ rfl) rfl
theorem Sys2Proof.Laws.Fits.wrs (n : BitVec 12) (xa : XReg) : Fits.Statement (.wrs n xa) := by
  intro c w h; cases h; exact fit_sc _ (encSC_fits (.wrs n xa) _ rfl) rfl
theorem Sys2Proof.Laws.Fits.trap (imm : BitVec 8) : Fits.Statement (.trap imm) := by
  intro c w h; cases h; exact fit_sc _ (encSC_fits (.trap imm) _ rfl) rfl
theorem Sys2Proof.Laws.Fits.icinv (xd : XReg) (scope : ScopeK) : Fits.Statement (.icinv xd scope) := by
  intro c w h; cases h; exact fit_sc _ (encSC_fits (.icinv xd scope) _ rfl) rfl
theorem Sys2Proof.Laws.Fits.iclock (o : R3) : Fits.Statement (.iclock o) := by
  intro c w h; cases h; exact fit_sc _ (encSC_fits (.iclock o) _ rfl) rfl
theorem Sys2Proof.Laws.Fits.icunlk (xa : XReg) (xb : XReg) : Fits.Statement (.icunlk xa xb) := by
  intro c w h; cases h; exact fit_sc _ (encSC_fits (.icunlk xa xb) _ rfl) rfl
theorem Sys2Proof.Laws.Fits.split (s : BitVec 5) : Fits.Statement (.split s) := by
  intro c w h; cases h; exact fit_sc _ (encSC_fits (.split s) _ rfl) rfl
theorem Sys2Proof.Laws.Fits.bkpt (imm : BitVec 8) : Fits.Statement (.bkpt imm) := by
  intro c w h; cases h; exact fit_sc _ (encSC_fits (.bkpt imm) _ rfl) rfl
theorem Sys2Proof.Laws.Fits.ldb (o : LdOp) : Fits.Statement (.ldb o) := by
  intro c w h; cases h; exact fit_mc _ (encMC_fits (.ldb o) _ rfl) rfl
theorem Sys2Proof.Laws.Fits.ldbu (o : LdOp) : Fits.Statement (.ldbu o) := by
  intro c w h; cases h; exact fit_mc _ (encMC_fits (.ldbu o) _ rfl) rfl
theorem Sys2Proof.Laws.Fits.ldh (o : LdOp) : Fits.Statement (.ldh o) := by
  intro c w h; cases h; exact fit_mc _ (encMC_fits (.ldh o) _ rfl) rfl
theorem Sys2Proof.Laws.Fits.ldhu (o : LdOp) : Fits.Statement (.ldhu o) := by
  intro c w h; cases h; exact fit_mc _ (encMC_fits (.ldhu o) _ rfl) rfl
theorem Sys2Proof.Laws.Fits.ldw (o : LdOp) : Fits.Statement (.ldw o) := by
  intro c w h; cases h; exact fit_mc _ (encMC_fits (.ldw o) _ rfl) rfl
theorem Sys2Proof.Laws.Fits.ldwu (o : LdOp) : Fits.Statement (.ldwu o) := by
  intro c w h; cases h; exact fit_mc _ (encMC_fits (.ldwu o) _ rfl) rfl
theorem Sys2Proof.Laws.Fits.ldd (o : LdOp) : Fits.Statement (.ldd o) := by
  intro c w h; cases h; exact fit_mc _ (encMC_fits (.ldd o) _ rfl) rfl
theorem Sys2Proof.Laws.Fits.stb (o : StOp) : Fits.Statement (.stb o) := by
  intro c w h; cases h; exact fit_mc _ (encMC_fits (.stb o) _ rfl) rfl
theorem Sys2Proof.Laws.Fits.sth (o : StOp) : Fits.Statement (.sth o) := by
  intro c w h; cases h; exact fit_mc _ (encMC_fits (.sth o) _ rfl) rfl
theorem Sys2Proof.Laws.Fits.stw (o : StOp) : Fits.Statement (.stw o) := by
  intro c w h; cases h; exact fit_mc _ (encMC_fits (.stw o) _ rfl) rfl
theorem Sys2Proof.Laws.Fits.std (o : StOp) : Fits.Statement (.std o) := by
  intro c w h; cases h; exact fit_mc _ (encMC_fits (.std o) _ rfl) rfl
theorem Sys2Proof.Laws.Fits.ldq (q : BitVec 3) (m : MAddr) : Fits.Statement (.ldq q m) := by
  intro c w h; cases h; exact fit_mc _ (encMC_fits (.ldq q m) _ rfl) rfl
theorem Sys2Proof.Laws.Fits.pref (l2 : Bool) (xbase : XReg) (xpol : XReg) (disp : BitVec 23) : Fits.Statement (.pref l2 xbase xpol disp) := by
  intro c w h; cases h; exact fit_mc _ (encMC_fits (.pref l2 xbase xpol disp) _ rfl) rfl
theorem Sys2Proof.Laws.Fits.ldv (v : BitVec 6) (m : MAddr) : Fits.Statement (.ldv v m) := by
  intro c w h; cases h; exact fit_mc _ (encMC_fits (.ldv v m) _ rfl) rfl
theorem Sys2Proof.Laws.Fits.stv (v : BitVec 6) (m : MAddr) : Fits.Statement (.stv v m) := by
  intro c w h; cases h; exact fit_mc _ (encMC_fits (.stv v m) _ rfl) rfl
theorem Sys2Proof.Laws.Fits.ldp (p : BitVec 4) (m : MAddr) : Fits.Statement (.ldp p m) := by
  intro c w h; cases h; exact fit_mc _ (encMC_fits (.ldp p m) _ rfl) rfl
theorem Sys2Proof.Laws.Fits.stp (p : BitVec 4) (m : MAddr) : Fits.Statement (.stp p m) := by
  intro c w h; cases h; exact fit_mc _ (encMC_fits (.stp p m) _ rfl) rfl
theorem Sys2Proof.Laws.Fits.bind (wr : Bool) (s : BitVec 2) (m : MAddr) : Fits.Statement (.bind wr s m) := by
  intro c w h; cases h; exact fit_mc _ (encMC_fits (.bind wr s m) _ rfl) rfl
theorem Sys2Proof.Laws.Fits.unbind (s : BitVec 2) : Fits.Statement (.unbind s) := by
  intro c w h; cases h; exact fit_mc _ (encMC_fits (.unbind s) _ rfl) rfl
theorem Sys2Proof.Laws.Fits.spstat (xd : XReg) (s : BitVec 2) : Fits.Statement (.spstat xd s) := by
  intro c w h; cases h; exact fit_mc _ (encMC_fits (.spstat xd s) _ rfl) rfl
theorem Sys2Proof.Laws.Fits.aadd (o : AtOp) : Fits.Statement (.aadd o) := by
  intro c w h; cases h; exact fit_mc _ (encMC_fits (.aadd o) _ rfl) rfl
theorem Sys2Proof.Laws.Fits.aand (o : AtOp) : Fits.Statement (.aand o) := by
  intro c w h; cases h; exact fit_mc _ (encMC_fits (.aand o) _ rfl) rfl
theorem Sys2Proof.Laws.Fits.aor (o : AtOp) : Fits.Statement (.aor o) := by
  intro c w h; cases h; exact fit_mc _ (encMC_fits (.aor o) _ rfl) rfl
theorem Sys2Proof.Laws.Fits.axor (o : AtOp) : Fits.Statement (.axor o) := by
  intro c w h; cases h; exact fit_mc _ (encMC_fits (.axor o) _ rfl) rfl
theorem Sys2Proof.Laws.Fits.amin (o : AtOp) : Fits.Statement (.amin o) := by
  intro c w h; cases h; exact fit_mc _ (encMC_fits (.amin o) _ rfl) rfl
theorem Sys2Proof.Laws.Fits.amax (o : AtOp) : Fits.Statement (.amax o) := by
  intro c w h; cases h; exact fit_mc _ (encMC_fits (.amax o) _ rfl) rfl
theorem Sys2Proof.Laws.Fits.aminu (o : AtOp) : Fits.Statement (.aminu o) := by
  intro c w h; cases h; exact fit_mc _ (encMC_fits (.aminu o) _ rfl) rfl
theorem Sys2Proof.Laws.Fits.amaxu (o : AtOp) : Fits.Statement (.amaxu o) := by
  intro c w h; cases h; exact fit_mc _ (encMC_fits (.amaxu o) _ rfl) rfl
theorem Sys2Proof.Laws.Fits.aswap (o : AtOp) : Fits.Statement (.aswap o) := by
  intro c w h; cases h; exact fit_mc _ (encMC_fits (.aswap o) _ rfl) rfl
theorem Sys2Proof.Laws.Fits.acas (o : AtOp) : Fits.Statement (.acas o) := by
  intro c w h; cases h; exact fit_mc _ (encMC_fits (.acas o) _ rfl) rfl
theorem Sys2Proof.Laws.Fits.afadd (o : AtOp) : Fits.Statement (.afadd o) := by
  intro c w h; cases h; exact fit_mc _ (encMC_fits (.afadd o) _ rfl) rfl
theorem Sys2Proof.Laws.Fits.afmax (o : AtOp) : Fits.Statement (.afmax o) := by
  intro c w h; cases h; exact fit_mc _ (encMC_fits (.afmax o) _ rfl) rfl
theorem Sys2Proof.Laws.Fits.fence (os : OS) : Fits.Statement (.fence os) := by
  intro c w h; cases h; exact fit_mc _ (encMC_fits (.fence os) _ rfl) rfl
theorem Sys2Proof.Laws.Fits.syncg (scope : ScopeK) : Fits.Statement (.syncg scope) := by
  intro c w h; cases h; exact fit_mc _ (encMC_fits (.syncg scope) _ rfl) rfl
theorem Sys2Proof.Laws.Fits.cinv (scope : ScopeK) (xbase : XReg) (xlen : XReg) (disp : BitVec 23) : Fits.Statement (.cinv scope xbase xlen disp) := by
  intro c w h; cases h; exact fit_mc _ (encMC_fits (.cinv scope xbase xlen disp) _ rfl) rfl
theorem Sys2Proof.Laws.Fits.vadd (o : VOp) : Fits.Statement (.vadd o) := by
  intro c w h; cases h; exact fit_vc _ (encVC_fits (.vadd o) _ rfl) rfl
theorem Sys2Proof.Laws.Fits.vsub (o : VOp) : Fits.Statement (.vsub o) := by
  intro c w h; cases h; exact fit_vc _ (encVC_fits (.vsub o) _ rfl) rfl
theorem Sys2Proof.Laws.Fits.vmul (o : VOp) : Fits.Statement (.vmul o) := by
  intro c w h; cases h; exact fit_vc _ (encVC_fits (.vmul o) _ rfl) rfl
theorem Sys2Proof.Laws.Fits.vfma (o : VOp) : Fits.Statement (.vfma o) := by
  intro c w h; cases h; exact fit_vc _ (encVC_fits (.vfma o) _ rfl) rfl
theorem Sys2Proof.Laws.Fits.vfms (o : VOp) : Fits.Statement (.vfms o) := by
  intro c w h; cases h; exact fit_vc _ (encVC_fits (.vfms o) _ rfl) rfl
theorem Sys2Proof.Laws.Fits.vfnma (o : VOp) : Fits.Statement (.vfnma o) := by
  intro c w h; cases h; exact fit_vc _ (encVC_fits (.vfnma o) _ rfl) rfl
theorem Sys2Proof.Laws.Fits.vmin (o : VOp) : Fits.Statement (.vmin o) := by
  intro c w h; cases h; exact fit_vc _ (encVC_fits (.vmin o) _ rfl) rfl
theorem Sys2Proof.Laws.Fits.vmax (o : VOp) : Fits.Statement (.vmax o) := by
  intro c w h; cases h; exact fit_vc _ (encVC_fits (.vmax o) _ rfl) rfl
theorem Sys2Proof.Laws.Fits.vabs (o : VOp) : Fits.Statement (.vabs o) := by
  intro c w h; cases h; exact fit_vc _ (encVC_fits (.vabs o) _ rfl) rfl
theorem Sys2Proof.Laws.Fits.vneg (o : VOp) : Fits.Statement (.vneg o) := by
  intro c w h; cases h; exact fit_vc _ (encVC_fits (.vneg o) _ rfl) rfl
theorem Sys2Proof.Laws.Fits.vdiv (o : VOp) : Fits.Statement (.vdiv o) := by
  intro c w h; cases h; exact fit_vc _ (encVC_fits (.vdiv o) _ rfl) rfl
theorem Sys2Proof.Laws.Fits.vsqrt (o : VOp) : Fits.Statement (.vsqrt o) := by
  intro c w h; cases h; exact fit_vc _ (encVC_fits (.vsqrt o) _ rfl) rfl
theorem Sys2Proof.Laws.Fits.vrcp (o : VOp) : Fits.Statement (.vrcp o) := by
  intro c w h; cases h; exact fit_vc _ (encVC_fits (.vrcp o) _ rfl) rfl
theorem Sys2Proof.Laws.Fits.vrsq (o : VOp) : Fits.Statement (.vrsq o) := by
  intro c w h; cases h; exact fit_vc _ (encVC_fits (.vrsq o) _ rfl) rfl
theorem Sys2Proof.Laws.Fits.vexp2 (o : VOp) : Fits.Statement (.vexp2 o) := by
  intro c w h; cases h; exact fit_vc _ (encVC_fits (.vexp2 o) _ rfl) rfl
theorem Sys2Proof.Laws.Fits.vlog2 (o : VOp) : Fits.Statement (.vlog2 o) := by
  intro c w h; cases h; exact fit_vc _ (encVC_fits (.vlog2 o) _ rfl) rfl
theorem Sys2Proof.Laws.Fits.vtanh (o : VOp) : Fits.Statement (.vtanh o) := by
  intro c w h; cases h; exact fit_vc _ (encVC_fits (.vtanh o) _ rfl) rfl
theorem Sys2Proof.Laws.Fits.vsigm (o : VOp) : Fits.Statement (.vsigm o) := by
  intro c w h; cases h; exact fit_vc _ (encVC_fits (.vsigm o) _ rfl) rfl
theorem Sys2Proof.Laws.Fits.vrnd (o : VOp) : Fits.Statement (.vrnd o) := by
  intro c w h; cases h; exact fit_vc _ (encVC_fits (.vrnd o) _ rfl) rfl
theorem Sys2Proof.Laws.Fits.vclass (o : VOp) : Fits.Statement (.vclass o) := by
  intro c w h; cases h; exact fit_vc _ (encVC_fits (.vclass o) _ rfl) rfl
theorem Sys2Proof.Laws.Fits.viadd (o : VOp) : Fits.Statement (.viadd o) := by
  intro c w h; cases h; exact fit_vc _ (encVC_fits (.viadd o) _ rfl) rfl
theorem Sys2Proof.Laws.Fits.visub (o : VOp) : Fits.Statement (.visub o) := by
  intro c w h; cases h; exact fit_vc _ (encVC_fits (.visub o) _ rfl) rfl
theorem Sys2Proof.Laws.Fits.vimul24 (o : VOp) : Fits.Statement (.vimul24 o) := by
  intro c w h; cases h; exact fit_vc _ (encVC_fits (.vimul24 o) _ rfl) rfl
theorem Sys2Proof.Laws.Fits.vimulh24 (o : VOp) : Fits.Statement (.vimulh24 o) := by
  intro c w h; cases h; exact fit_vc _ (encVC_fits (.vimulh24 o) _ rfl) rfl
theorem Sys2Proof.Laws.Fits.vimul32 (o : VOp) : Fits.Statement (.vimul32 o) := by
  intro c w h; cases h; exact fit_vc _ (encVC_fits (.vimul32 o) _ rfl) rfl
theorem Sys2Proof.Laws.Fits.vimulh32 (o : VOp) : Fits.Statement (.vimulh32 o) := by
  intro c w h; cases h; exact fit_vc _ (encVC_fits (.vimulh32 o) _ rfl) rfl
theorem Sys2Proof.Laws.Fits.vimac24 (o : VOp) : Fits.Statement (.vimac24 o) := by
  intro c w h; cases h; exact fit_vc _ (encVC_fits (.vimac24 o) _ rfl) rfl
theorem Sys2Proof.Laws.Fits.vimin (o : VOp) : Fits.Statement (.vimin o) := by
  intro c w h; cases h; exact fit_vc _ (encVC_fits (.vimin o) _ rfl) rfl
theorem Sys2Proof.Laws.Fits.vimax (o : VOp) : Fits.Statement (.vimax o) := by
  intro c w h; cases h; exact fit_vc _ (encVC_fits (.vimax o) _ rfl) rfl
theorem Sys2Proof.Laws.Fits.viabs (o : VOp) : Fits.Statement (.viabs o) := by
  intro c w h; cases h; exact fit_vc _ (encVC_fits (.viabs o) _ rfl) rfl
theorem Sys2Proof.Laws.Fits.vand (o : VOp) : Fits.Statement (.vand o) := by
  intro c w h; cases h; exact fit_vc _ (encVC_fits (.vand o) _ rfl) rfl
theorem Sys2Proof.Laws.Fits.vor (o : VOp) : Fits.Statement (.vor o) := by
  intro c w h; cases h; exact fit_vc _ (encVC_fits (.vor o) _ rfl) rfl
theorem Sys2Proof.Laws.Fits.vxor (o : VOp) : Fits.Statement (.vxor o) := by
  intro c w h; cases h; exact fit_vc _ (encVC_fits (.vxor o) _ rfl) rfl
theorem Sys2Proof.Laws.Fits.vshl (o : VOp) : Fits.Statement (.vshl o) := by
  intro c w h; cases h; exact fit_vc _ (encVC_fits (.vshl o) _ rfl) rfl
theorem Sys2Proof.Laws.Fits.vshr (o : VOp) : Fits.Statement (.vshr o) := by
  intro c w h; cases h; exact fit_vc _ (encVC_fits (.vshr o) _ rfl) rfl
theorem Sys2Proof.Laws.Fits.vsra (o : VOp) : Fits.Statement (.vsra o) := by
  intro c w h; cases h; exact fit_vc _ (encVC_fits (.vsra o) _ rfl) rfl
theorem Sys2Proof.Laws.Fits.vrshr (o : VOp) : Fits.Statement (.vrshr o) := by
  intro c w h; cases h; exact fit_vc _ (encVC_fits (.vrshr o) _ rfl) rfl
theorem Sys2Proof.Laws.Fits.vsat (o : VOp) (tfmt : Fmt) : Fits.Statement (.vsat o tfmt) := by
  intro c w h; cases h; exact fit_vc _ (encVC_fits (.vsat o tfmt) _ rfl) rfl
theorem Sys2Proof.Laws.Fits.viadds (o : VOp) : Fits.Statement (.viadds o) := by
  intro c w h; cases h; exact fit_vc _ (encVC_fits (.viadds o) _ rfl) rfl
theorem Sys2Proof.Laws.Fits.vcmp (pd : BitVec 4) (cond : CondK) (o : VOp) : Fits.Statement (.vcmp pd cond o) := by
  intro c w h; cases h; exact fit_vc _ (encVC_fits (.vcmp pd cond o) _ rfl) rfl
theorem Sys2Proof.Laws.Fits.vsel (o : VOp) : Fits.Statement (.vsel o) := by
  intro c w h; cases h; exact fit_vc _ (encVC_fits (.vsel o) _ rfl) rfl
theorem Sys2Proof.Laws.Fits.pand (pd : BitVec 4) (pa : BitVec 4) (pb : BitVec 4) : Fits.Statement (.pand pd pa pb) := by
  intro c w h; cases h; exact fit_vc _ (encVC_fits (.pand pd pa pb) _ rfl) rfl
theorem Sys2Proof.Laws.Fits.por (pd : BitVec 4) (pa : BitVec 4) (pb : BitVec 4) : Fits.Statement (.por pd pa pb) := by
  intro c w h; cases h; exact fit_vc _ (encVC_fits (.por pd pa pb) _ rfl) rfl
theorem Sys2Proof.Laws.Fits.pxor (pd : BitVec 4) (pa : BitVec 4) (pb : BitVec 4) : Fits.Statement (.pxor pd pa pb) := by
  intro c w h; cases h; exact fit_vc _ (encVC_fits (.pxor pd pa pb) _ rfl) rfl
theorem Sys2Proof.Laws.Fits.pnot (pd : BitVec 4) (pa : BitVec 4) : Fits.Statement (.pnot pd pa) := by
  intro c w h; cases h; exact fit_vc _ (encVC_fits (.pnot pd pa) _ rfl) rfl
theorem Sys2Proof.Laws.Fits.vcvt (o : VOp) (dfmt : Fmt) : Fits.Statement (.vcvt o dfmt) := by
  intro c w h; cases h; exact fit_vc _ (encVC_fits (.vcvt o dfmt) _ rfl) rfl
theorem Sys2Proof.Laws.Fits.vpack (o : VOp) (dfmt : Fmt) : Fits.Statement (.vpack o dfmt) := by
  intro c w h; cases h; exact fit_vc _ (encVC_fits (.vpack o dfmt) _ rfl) rfl
theorem Sys2Proof.Laws.Fits.vunpk (o : VOp) (hi : Bool) (dfmt : Fmt) : Fits.Statement (.vunpk o hi dfmt) := by
  intro c w h; cases h; exact fit_vc _ (encVC_fits (.vunpk o hi dfmt) _ rfl) rfl
theorem Sys2Proof.Laws.Fits.vqmx (o : VOp) (dfmt : Fmt) : Fits.Statement (.vqmx o dfmt) := by
  intro c w h; cases h; exact fit_vc _ (encVC_fits (.vqmx o dfmt) _ rfl) rfl
theorem Sys2Proof.Laws.Fits.vdqmx (o : VOp) (dfmt : Fmt) : Fits.Statement (.vdqmx o dfmt) := by
  intro c w h; cases h; exact fit_vc _ (encVC_fits (.vdqmx o dfmt) _ rfl) rfl
theorem Sys2Proof.Laws.Fits.vmov (o : VOp) : Fits.Statement (.vmov o) := by
  intro c w h; cases h; exact fit_vc _ (encVC_fits (.vmov o) _ rfl) rfl
theorem Sys2Proof.Laws.Fits.vbrd (o : VOp) (col : Bool) (k : BitVec 6) : Fits.Statement (.vbrd o col k) := by
  intro c w h; cases h; exact fit_vc _ (encVC_fits (.vbrd o col k) _ rfl) rfl
theorem Sys2Proof.Laws.Fits.vredr (o : VOp) (op : RedK) : Fits.Statement (.vredr o op) := by
  intro c w h; cases h; exact fit_vc _ (encVC_fits (.vredr o op) _ rfl) rfl
theorem Sys2Proof.Laws.Fits.vredc (o : VOp) (op : RedK) : Fits.Statement (.vredc o op) := by
  intro c w h; cases h; exact fit_vc _ (encVC_fits (.vredc o op) _ rfl) rfl
theorem Sys2Proof.Laws.Fits.vtrn (o : VOp) : Fits.Statement (.vtrn o) := by
  intro c w h; cases h; exact fit_vc _ (encVC_fits (.vtrn o) _ rfl) rfl
theorem Sys2Proof.Laws.Fits.vrotc (o : VOp) (k : BitVec 9) : Fits.Statement (.vrotc o k) := by
  intro c w h; cases h; exact fit_vc _ (encVC_fits (.vrotc o k) _ rfl) rfl
theorem Sys2Proof.Laws.Fits.vshc (o : VOp) (k : BitVec 9) : Fits.Statement (.vshc o k) := by
  intro c w h; cases h; exact fit_vc _ (encVC_fits (.vshc o k) _ rfl) rfl
theorem Sys2Proof.Laws.Fits.vgath (o : VOp) : Fits.Statement (.vgath o) := by
  intro c w h; cases h; exact fit_vc _ (encVC_fits (.vgath o) _ rfl) rfl
theorem Sys2Proof.Laws.Fits.vsetsh (x : XReg) : Fits.Statement (.vsetsh x) := by
  intro c w h; cases h; exact fit_vc _ (encVC_fits (.vsetsh x) _ rfl) rfl
theorem Sys2Proof.Laws.Fits.viota (o : VOp) : Fits.Statement (.viota o) := by
  intro c w h; cases h; exact fit_vc _ (encVC_fits (.viota o) _ rfl) rfl
theorem Sys2Proof.Laws.Fits.cnop (n : BitVec 16) : Fits.Statement (.cnop n) := by
  intro c w h; cases h; exact fit_copy _ (encCopy_fits (.cnop n) _ rfl) rfl
theorem Sys2Proof.Laws.Fits.csetl (w : EW) : Fits.Statement (.csetl w) := by
  intro c w h; cases h; exact fit_copy _ (encCopy_fits (.csetl w) _ rfl) rfl
theorem Sys2Proof.Laws.Fits.cseth (w : EW) : Fits.Statement (.cseth w) := by
  intro c w h; cases h; exact fit_copy _ (encCopy_fits (.cseth w) _ rfl) rfl
theorem Sys2Proof.Laws.Fits.cadv (w : EW) : Fits.Statement (.cadv w) := by
  intro c w h; cases h; exact fit_copy _ (encCopy_fits (.cadv w) _ rfl) rfl
theorem Sys2Proof.Laws.Fits.cshape (w : EWO) : Fits.Statement (.cshape w) := by
  intro c w h; cases h; exact fit_copy _ (encCopy_fits (.cshape w) _ rfl) rfl
theorem Sys2Proof.Laws.Fits.cmove (w : EWO) : Fits.Statement (.cmove w) := by
  intro c w h; cases h; exact fit_copy _ (encCopy_fits (.cmove w) _ rfl) rfl
theorem Sys2Proof.Laws.Fits.cbox (w : EWO) : Fits.Statement (.cbox w) := by
  intro c w h; cases h; exact fit_copy _ (encCopy_fits (.cbox w) _ rfl) rfl
theorem Sys2Proof.Laws.Fits.cgath (w : EWO) : Fits.Statement (.cgath w) := by
  intro c w h; cases h; exact fit_copy _ (encCopy_fits (.cgath w) _ rfl) rfl
theorem Sys2Proof.Laws.Fits.cscat (w : EWO) : Fits.Statement (.cscat w) := by
  intro c w h; cases h; exact fit_copy _ (encCopy_fits (.cscat w) _ rfl) rfl
theorem Sys2Proof.Laws.Fits.cfill (w : EWO) : Fits.Statement (.cfill w) := by
  intro c w h; cases h; exact fit_copy _ (encCopy_fits (.cfill w) _ rfl) rfl
theorem Sys2Proof.Laws.Fits.cred (w : EWO) : Fits.Statement (.cred w) := by
  intro c w h; cases h; exact fit_copy _ (encCopy_fits (.cred w) _ rfl) rfl
theorem Sys2Proof.Laws.Fits.csend (w : EWO) : Fits.Statement (.csend w) := by
  intro c w h; cases h; exact fit_copy _ (encCopy_fits (.csend w) _ rfl) rfl
theorem Sys2Proof.Laws.Fits.crecv (w : EWO) : Fits.Statement (.crecv w) := by
  intro c w h; cases h; exact fit_copy _ (encCopy_fits (.crecv w) _ rfl) rfl
theorem Sys2Proof.Laws.Fits.csig (os : OS) (f : BitVec 6) (n : BitVec 16) : Fits.Statement (.csig os f n) := by
  intro c w h; cases h; exact fit_copy _ (encCopy_fits (.csig os f n) _ rfl) rfl
theorem Sys2Proof.Laws.Fits.cwait (os : OS) (r : BitVec 4) (f : BitVec 6) (n : BitVec 16) : Fits.Statement (.cwait os r f n) := by
  intro c w h; cases h; exact fit_copy _ (encCopy_fits (.cwait os r f n) _ rfl) rfl
theorem Sys2Proof.Laws.Fits.csync (os : OS) (rdv : Bool) (n : BitVec 16) : Fits.Statement (.csync os rdv n) := by
  intro c w h; cases h; exact fit_copy _ (encCopy_fits (.csync os rdv n) _ rfl) rfl
theorem Sys2Proof.Laws.Fits.cloop (w : EW) : Fits.Statement (.cloop w) := by
  intro c w h; cases h; exact fit_copy _ (encCopy_fits (.cloop w) _ rfl) rfl
theorem Sys2Proof.Laws.Fits.cend (n : BitVec 16) : Fits.Statement (.cend n) := by
  intro c w h; cases h; exact fit_copy _ (encCopy_fits (.cend n) _ rfl) rfl
theorem Sys2Proof.Laws.Fits.knop (n : BitVec 16) : Fits.Statement (.knop n) := by
  intro c w h; cases h; exact fit_kiln _ (encKiln_fits (.knop n) _ rfl) rfl
theorem Sys2Proof.Laws.Fits.ksetl (w : EW) : Fits.Statement (.ksetl w) := by
  intro c w h; cases h; exact fit_kiln _ (encKiln_fits (.ksetl w) _ rfl) rfl
theorem Sys2Proof.Laws.Fits.kseth (w : EW) : Fits.Statement (.kseth w) := by
  intro c w h; cases h; exact fit_kiln _ (encKiln_fits (.kseth w) _ rfl) rfl
theorem Sys2Proof.Laws.Fits.kfmt (f : BitVec 8) (n : BitVec 16) : Fits.Statement (.kfmt f n) := by
  intro c w h; cases h; exact fit_kiln _ (encKiln_fits (.kfmt f n) _ rfl) rfl
theorem Sys2Proof.Laws.Fits.ktile (r : BitVec 4) (n : BitVec 16) : Fits.Statement (.ktile r n) := by
  intro c w h; cases h; exact fit_kiln _ (encKiln_fits (.ktile r n) _ rfl) rfl
theorem Sys2Proof.Laws.Fits.kzero (n : BitVec 16) : Fits.Statement (.kzero n) := by
  intro c w h; cases h; exact fit_kiln _ (encKiln_fits (.kzero n) _ rfl) rfl
theorem Sys2Proof.Laws.Fits.kldc (w : EWO) : Fits.Statement (.kldc w) := by
  intro c w h; cases h; exact fit_kiln _ (encKiln_fits (.kldc w) _ rfl) rfl
theorem Sys2Proof.Laws.Fits.kmma (w : EW) : Fits.Statement (.kmma w) := by
  intro c w h; cases h; exact fit_kiln _ (encKiln_fits (.kmma w) _ rfl) rfl
theorem Sys2Proof.Laws.Fits.kdrain (w : EW) : Fits.Statement (.kdrain w) := by
  intro c w h; cases h; exact fit_kiln _ (encKiln_fits (.kdrain w) _ rfl) rfl
theorem Sys2Proof.Laws.Fits.kswap (n : BitVec 16) : Fits.Statement (.kswap n) := by
  intro c w h; cases h; exact fit_kiln _ (encKiln_fits (.kswap n) _ rfl) rfl
theorem Sys2Proof.Laws.Fits.ksig (os : OS) (f : BitVec 6) (n : BitVec 16) : Fits.Statement (.ksig os f n) := by
  intro c w h; cases h; exact fit_kiln _ (encKiln_fits (.ksig os f n) _ rfl) rfl
theorem Sys2Proof.Laws.Fits.kwait (os : OS) (r : BitVec 4) (f : BitVec 6) (n : BitVec 16) : Fits.Statement (.kwait os r f n) := by
  intro c w h; cases h; exact fit_kiln _ (encKiln_fits (.kwait os r f n) _ rfl) rfl
theorem Sys2Proof.Laws.Fits.ksync (w : EWO) : Fits.Statement (.ksync w) := by
  intro c w h; cases h; exact fit_kiln _ (encKiln_fits (.ksync w) _ rfl) rfl
theorem Sys2Proof.Laws.Fits.kloop (w : EW) : Fits.Statement (.kloop w) := by
  intro c w h; cases h; exact fit_kiln _ (encKiln_fits (.kloop w) _ rfl) rfl
theorem Sys2Proof.Laws.Fits.kend (n : BitVec 16) : Fits.Statement (.kend n) := by
  intro c w h; cases h; exact fit_kiln _ (encKiln_fits (.kend n) _ rfl) rfl
theorem Sys2Proof.Laws.Fits.fld (d : BitVec 4) (f : BitVec 4) (j : BitVec 2) : Fits.Statement (.fld d f j) := by
  intro c w h; cases h; exact fit_flue _ (encFlue_fits (.fld d f j) _ rfl) rfl
theorem Sys2Proof.Laws.Fits.fadd (o : F2) : Fits.Statement (.fadd o) := by
  intro c w h; cases h; exact fit_flue _ (encFlue_fits (.fadd o) _ rfl) rfl
theorem Sys2Proof.Laws.Fits.fmul (o : F2) : Fits.Statement (.fmul o) := by
  intro c w h; cases h; exact fit_flue _ (encFlue_fits (.fmul o) _ rfl) rfl
theorem Sys2Proof.Laws.Fits.ffma (o : F3) : Fits.Statement (.ffma o) := by
  intro c w h; cases h; exact fit_flue _ (encFlue_fits (.ffma o) _ rfl) rfl
theorem Sys2Proof.Laws.Fits.fmax (o : F2) : Fits.Statement (.fmax o) := by
  intro c w h; cases h; exact fit_flue _ (encFlue_fits (.fmax o) _ rfl) rfl
theorem Sys2Proof.Laws.Fits.fmin (o : F2) : Fits.Statement (.fmin o) := by
  intro c w h; cases h; exact fit_flue _ (encFlue_fits (.fmin o) _ rfl) rfl
theorem Sys2Proof.Laws.Fits.fbias (o : F3) : Fits.Statement (.fbias o) := by
  intro c w h; cases h; exact fit_flue _ (encFlue_fits (.fbias o) _ rfl) rfl
theorem Sys2Proof.Laws.Fits.fscale (o : F3) (n : BitVec 8) : Fits.Statement (.fscale o n) := by
  intro c w h; cases h; exact fit_flue _ (encFlue_fits (.fscale o n) _ rfl) rfl
theorem Sys2Proof.Laws.Fits.fact (o : F2) (t : BitVec 4) : Fits.Statement (.fact o t) := by
  intro c w h; cases h; exact fit_flue _ (encFlue_fits (.fact o t) _ rfl) rfl
theorem Sys2Proof.Laws.Fits.fclamp (o : F3) : Fits.Statement (.fclamp o) := by
  intro c w h; cases h; exact fit_flue _ (encFlue_fits (.fclamp o) _ rfl) rfl
theorem Sys2Proof.Laws.Fits.fq (d : BitVec 4) (a : BitVec 4) (r : BitVec 3) (f : BitVec 4) : Fits.Statement (.fq d a r f) := by
  intro c w h; cases h; exact fit_flue _ (encFlue_fits (.fq d a r f) _ rfl) rfl
theorem Sys2Proof.Laws.Fits.fst (a : BitVec 4) (k : BitVec 2) (j : BitVec 2) (r : BitVec 3) (f : BitVec 4) : Fits.Statement (.fst a k j r f) := by
  intro c w h; cases h; exact fit_flue _ (encFlue_fits (.fst a k j r f) _ rfl) rfl
theorem Sys2Proof.Laws.Fits.fstat (d : BitVec 4) (a : BitVec 4) (op : BitVec 2) : Fits.Statement (.fstat d a op) := by
  intro c w h; cases h; exact fit_flue _ (encFlue_fits (.fstat d a op) _ rfl) rfl
theorem Sys2Proof.Laws.Fits.scNop : Fits.Statement .scNop := by
  intro c w h; cases h; exact fit_sc _ (encSC_fits .scNop _ rfl) rfl
theorem Sys2Proof.Laws.Fits.lexit : Fits.Statement .lexit := by
  intro c w h; cases h; exact fit_sc _ (encSC_fits .lexit _ rfl) rfl
theorem Sys2Proof.Laws.Fits.rdv : Fits.Statement .rdv := by
  intro c w h; cases h; exact fit_sc _ (encSC_fits .rdv _ rfl) rfl
theorem Sys2Proof.Laws.Fits.tyield : Fits.Statement .tyield := by
  intro c w h; cases h; exact fit_sc _ (encSC_fits .tyield _ rfl) rfl
theorem Sys2Proof.Laws.Fits.resume : Fits.Statement .resume := by
  intro c w h; cases h; exact fit_sc _ (encSC_fits .resume _ rfl) rfl
theorem Sys2Proof.Laws.Fits.halt : Fits.Statement .halt := by
  intro c w h; cases h; exact fit_sc _ (encSC_fits .halt _ rfl) rfl
theorem Sys2Proof.Laws.Fits.genbump : Fits.Statement .genbump := by
  intro c w h; cases h; exact fit_sc _ (encSC_fits .genbump _ rfl) rfl
theorem Sys2Proof.Laws.Fits.mcNop : Fits.Statement .mcNop := by
  intro c w h; cases h; exact fit_mc _ (encMC_fits .mcNop _ rfl) rfl
theorem Sys2Proof.Laws.Fits.rcfence : Fits.Statement .rcfence := by
  intro c w h; cases h; exact fit_mc _ (encMC_fits .rcfence _ rfl) rfl
theorem Sys2Proof.Laws.Fits.vnop : Fits.Statement .vnop := by
  intro c w h; cases h; exact fit_vc _ (encVC_fits .vnop _ rfl) rfl
theorem Sys2Proof.Laws.Fits.fnop : Fits.Statement .fnop := by
  intro c w h; cases h; exact fit_flue _ (encFlue_fits .fnop _ rfl) rfl
theorem Sys2Proof.Laws.Fits.fend : Fits.Statement .fend := by
  intro c w h; cases h; exact fit_flue _ (encFlue_fits .fend _ rfl) rfl
theorem Sys2Proof.Laws.Fits.coldReset : Fits.Statement .coldReset := by
  intro c w h; cases h
theorem Sys2Proof.Laws.Fits.warmReset : Fits.Statement .warmReset := by
  intro c w h; cases h
theorem Sys2Proof.Laws.Fits.resetStepComplete : Fits.Statement .resetStepComplete := by
  intro c w h; cases h
theorem Sys2Proof.Laws.Fits.resetStepTimeout : Fits.Statement .resetStepTimeout := by
  intro c w h; cases h
theorem Sys2Proof.Laws.Fits.moduleTrip : Fits.Statement .moduleTrip := by
  intro c w h; cases h
theorem Sys2Proof.Laws.Fits.throttleDown : Fits.Statement .throttleDown := by
  intro c w h; cases h
theorem Sys2Proof.Laws.Fits.throttleUp : Fits.Statement .throttleUp := by
  intro c w h; cases h
theorem Sys2Proof.Laws.Fits.eccUncorrectableError : Fits.Statement .eccUncorrectableError := by
  intro c w h; cases h
theorem Sys2Proof.Laws.Fits.podTimeOffsetMeasure : Fits.Statement .podTimeOffsetMeasure := by
  intro c w h; cases h
theorem Sys2Proof.Laws.Fits.hostMemoryWrite : Fits.Statement .hostMemoryWrite := by
  intro c w h; cases h
theorem Sys2Proof.Laws.Fits.hostMemoryRead : Fits.Statement .hostMemoryRead := by
  intro c w h; cases h
theorem Sys2Proof.Laws.Fits.registerWrite : Fits.Statement .registerWrite := by
  intro c w h; cases h
theorem Sys2Proof.Laws.Fits.blkctlWrite : Fits.Statement .blkctlWrite := by
  intro c w h; cases h
theorem Sys2Proof.Laws.Fits.ptstatWrite : Fits.Statement .ptstatWrite := by
  intro c w h; cases h
theorem Sys2Proof.Laws.Fits.moduleHostReadTimeout : Fits.Statement .moduleHostReadTimeout := by
  intro c w h; cases h
theorem Sys2Proof.Laws.Fits.ualinkPortFail : Fits.Statement .ualinkPortFail := by
  intro c w h; cases h
theorem Sys2Proof.Laws.Fits.ualinkDeliveryTimeout : Fits.Statement .ualinkDeliveryTimeout := by
  intro c w h; cases h
theorem Sys2Proof.Laws.Fits.peerModuleRequest : Fits.Statement .peerModuleRequest := by
  intro c w h; cases h
theorem Sys2Proof.Laws.Fits.summary : Fits.Statement .summary := by
  intro c w h; cases h
theorem Sys2Proof.Laws.Fits.getVersion : Fits.Statement .getVersion := by
  intro c w h; cases h
theorem Sys2Proof.Laws.Fits.getCapabilities : Fits.Statement .getCapabilities := by
  intro c w h; cases h
theorem Sys2Proof.Laws.Fits.negotiateAlgorithms : Fits.Statement .negotiateAlgorithms := by
  intro c w h; cases h
theorem Sys2Proof.Laws.Fits.getDigests : Fits.Statement .getDigests := by
  intro c w h; cases h
theorem Sys2Proof.Laws.Fits.getCertificate : Fits.Statement .getCertificate := by
  intro c w h; cases h
theorem Sys2Proof.Laws.Fits.challenge : Fits.Statement .challenge := by
  intro c w h; cases h
theorem Sys2Proof.Laws.Fits.getMeasurements : Fits.Statement .getMeasurements := by
  intro c w h; cases h
theorem Sys2Proof.Laws.Fits.spdmUnsupportedRequest : Fits.Statement .spdmUnsupportedRequest := by
  intro c w h; cases h
theorem Sys2Proof.Laws.Fits.certificateSlotWrite : Fits.Statement .certificateSlotWrite := by
  intro c w h; cases h
theorem Sys2Proof.Laws.Fits.certificateWriteDeferralExpiry : Fits.Statement .certificateWriteDeferralExpiry := by
  intro c w h; cases h
theorem Sys2Proof.Laws.Fits.imgseal : Fits.Statement .imgseal := by
  intro c w h; cases h
theorem Sys2Proof.Laws.Fits.imgcheck : Fits.Statement .imgcheck := by
  intro c w h; cases h
theorem Sys2Proof.Laws.Fits.icinvw : Fits.Statement .icinvw := by
  intro c w h; cases h
theorem Sys2Proof.Laws.Fits.queueEnable : Fits.Statement .queueEnable := by
  intro c w h; cases h
theorem Sys2Proof.Laws.Fits.queueDisable : Fits.Statement .queueDisable := by
  intro c w h; cases h
theorem Sys2Proof.Laws.Fits.queueDrain : Fits.Statement .queueDrain := by
  intro c w h; cases h
theorem Sys2Proof.Laws.Fits.notifyWrite : Fits.Statement .notifyWrite := by
  intro c w h; cases h
theorem Sys2Proof.Laws.Fits.queueMap : Fits.Statement .queueMap := by
  intro c w h; cases h
theorem Sys2Proof.Laws.Fits.opbFetch : Fits.Statement .opbFetch := by
  intro c w h; cases h
theorem Sys2Proof.Laws.Fits.waitCounterReread : Fits.Statement .waitCounterReread := by
  intro c w h; cases h
theorem Sys2Proof.Laws.Fits.dispatchOpportunity : Fits.Statement .dispatchOpportunity := by
  intro c w h; cases h
theorem Sys2Proof.Laws.Fits.stepClaim : Fits.Statement .stepClaim := by
  intro c w h; cases h
theorem Sys2Proof.Laws.Fits.coreWorldClear : Fits.Statement .coreWorldClear := by
  intro c w h; cases h
theorem Sys2Proof.Laws.Fits.jobStart : Fits.Statement .jobStart := by
  intro c w h; cases h
theorem Sys2Proof.Laws.Fits.jobCompletionRelease : Fits.Statement .jobCompletionRelease := by
  intro c w h; cases h
theorem Sys2Proof.Laws.Fits.stepComplete : Fits.Statement .stepComplete := by
  intro c w h; cases h
theorem Sys2Proof.Laws.Fits.opbComplete : Fits.Statement .opbComplete := by
  intro c w h; cases h
theorem Sys2Proof.Laws.Fits.launchPacket : Fits.Statement .launchPacket := by
  intro c w h; cases h
theorem Sys2Proof.Laws.Fits.reservationExpiry : Fits.Statement .reservationExpiry := by
  intro c w h; cases h
theorem Sys2Proof.Laws.Fits.create : Fits.Statement .create := by
  intro c w h; cases h
theorem Sys2Proof.Laws.Fits.rotate : Fits.Statement .rotate := by
  intro c w h; cases h
theorem Sys2Proof.Laws.Fits.retire : Fits.Statement .retire := by
  intro c w h; cases h
theorem Sys2Proof.Laws.Fits.lockcfg : Fits.Statement .lockcfg := by
  intro c w h; cases h
theorem Sys2Proof.Laws.Fits.teardown : Fits.Statement .teardown := by
  intro c w h; cases h
theorem Sys2Proof.Laws.Fits.scrubComplete : Fits.Statement .scrubComplete := by
  intro c w h; cases h
theorem Sys2Proof.Laws.Fits.reencryptWalkerStart : Fits.Statement .reencryptWalkerStart := by
  intro c w h; cases h
theorem Sys2Proof.Laws.Fits.reencryptWalkerComplete : Fits.Statement .reencryptWalkerComplete := by
  intro c w h; cases h
theorem Sys2Proof.Laws.Fits.rlctlWrite : Fits.Statement .rlctlWrite := by
  intro c w h; cases h
theorem Sys2Proof.Laws.Fits.lockedRegisterWalkPass : Fits.Statement .lockedRegisterWalkPass := by
  intro c w h; cases h
theorem Sys2Proof.Laws.Fits.formatRangeWrite : Fits.Statement .formatRangeWrite := by
  intro c w h; cases h
theorem Sys2Proof.Laws.Fits.kilnLtabWrite : Fits.Statement .kilnLtabWrite := by
  intro c w h; cases h
theorem Sys2Proof.Laws.Fits.fqdoneOk : Fits.Statement .fqdoneOk := by
  intro c w h; cases h
theorem Sys2Proof.Laws.Fits.fqdoneFail : Fits.Statement .fqdoneFail := by
  intro c w h; cases h
theorem Sys2Proof.Laws.Fits.faultEnqueue : Fits.Statement .faultEnqueue := by
  intro c w h; cases h
theorem Sys2Proof.Laws.Fits.attach : Fits.Statement .attach := by
  intro c w h; cases h
theorem Sys2Proof.Laws.Fits.detach : Fits.Statement .detach := by
  intro c w h; cases h
theorem Sys2Proof.Laws.Fits.debugHalt : Fits.Statement .debugHalt := by
  intro c w h; cases h
theorem Sys2Proof.Laws.Fits.debugResume : Fits.Statement .debugResume := by
  intro c w h; cases h
theorem Sys2Proof.Laws.Fits.copyout : Fits.Statement .copyout := by
  intro c w h; cases h
theorem Sys2Proof.Laws.Fits.copyin : Fits.Statement .copyin := by
  intro c w h; cases h
theorem Sys2Proof.Laws.Fits.breakpointWrite : Fits.Statement .breakpointWrite := by
  intro c w h; cases h
theorem Sys2Proof.Laws.Fits.trctlWrite : Fits.Statement .trctlWrite := by
  intro c w h; cases h
theorem Sys2Proof.Laws.Fits.cntvalWrite : Fits.Statement .cntvalWrite := by
  intro c w h; cases h
theorem Sys2Proof.Laws.Fits.traceSample : Fits.Statement .traceSample := by
  intro c w h; cases h
theorem Sys2Proof.Laws.Fits.replayStart : Fits.Statement .replayStart := by
  intro c w h; cases h
theorem Sys2Proof.Laws.Fits.replayEnd : Fits.Statement .replayEnd := by
  intro c w h; cases h
theorem Sys2Proof.Laws.Fits.tlbMissHold : Fits.Statement .tlbMissHold := by
  intro c w h; cases h
theorem Sys2Proof.Laws.Fits.translationHoldEnd : Fits.Statement .translationHoldEnd := by
  intro c w h; cases h
theorem Sys2Proof.Laws.Fits.bankConflictHold : Fits.Statement .bankConflictHold := by
  intro c w h; cases h
theorem Sys2Proof.Laws.Fits.refreshHold : Fits.Statement .refreshHold := by
  intro c w h; cases h
theorem Sys2Proof.Laws.Fits.splitGranuleHold : Fits.Statement .splitGranuleHold := by
  intro c w h; cases h
theorem Sys2Proof.Laws.Fits.splitDrainEnd : Fits.Statement .splitDrainEnd := by
  intro c w h; cases h
theorem Sys2Proof.Laws.Fits.genbumpSweepEnd : Fits.Statement .genbumpSweepEnd := by
  intro c w h; cases h
theorem Sys2Proof.Laws.Fits.variableLatencyCompletion : Fits.Statement .variableLatencyCompletion := by
  intro c w h; cases h
theorem Sys2Proof.Laws.Fits.storeApplyAtHome : Fits.Statement .storeApplyAtHome := by
  intro c w h; cases h
theorem Sys2Proof.Laws.Fits.remoteFincArrival : Fits.Statement .remoteFincArrival := by
  intro c w h; cases h
theorem Sys2Proof.Laws.Fits.portTileTransfer : Fits.Statement .portTileTransfer := by
  intro c w h; cases h
theorem Sys2Proof.Laws.Fits.kilnLeaseGrant : Fits.Statement .kilnLeaseGrant := by
  intro c w h; cases h
theorem Sys2Proof.Laws.Fits.kilnWorldClear : Fits.Statement .kilnWorldClear := by
  intro c w h; cases h
theorem Sys2Proof.Laws.Fits.tileFetchChunkArrival : Fits.Statement .tileFetchChunkArrival := by
  intro c w h; cases h
theorem Sys2Proof.Laws.Fits.flueRowRun : Fits.Statement .flueRowRun := by
  intro c w h; cases h
theorem Sys2Proof.Laws.Fits.drainComplete : Fits.Statement .drainComplete := by
  intro c w h; cases h
theorem Sys2Proof.Laws.Fits.channelUnitArrival : Fits.Statement .channelUnitArrival := by
  intro c w h; cases h
theorem Sys2Proof.Laws.Fits.linkWordSlotReached : Fits.Statement .linkWordSlotReached := by
  intro c w h; cases h
theorem Sys2Proof.Laws.Fits.coreStop : Fits.Statement .coreStop := by
  intro c w h; cases h
theorem Sys2Proof.Laws.Fits.stopCaptureComplete : Fits.Statement .stopCaptureComplete := by
  intro c w h; cases h
theorem Sys2Proof.Laws.Fits.jobWatchdogExpiry : Fits.Statement .jobWatchdogExpiry := by
  intro c w h; cases h
theorem Sys2Proof.Laws.Fits.barrierWatchdogExpiry : Fits.Statement .barrierWatchdogExpiry := by
  intro c w h; cases h
theorem Sys2Proof.Laws.Fits.preemptRequest : Fits.Statement .preemptRequest := by
  intro c w h; cases h
theorem Sys2Proof.Laws.Fits.preemptStop : Fits.Statement .preemptStop := by
  intro c w h; cases h
theorem Sys2Proof.Laws.Fits.contextSwitchIn : Fits.Statement .contextSwitchIn := by
  intro c w h; cases h
theorem Sys2Proof.Laws.Fits.allowanceReached : Fits.Statement .allowanceReached := by
  intro c w h; cases h
theorem Sys2Proof.Laws.Fits.sampleDeadlineExpiry : Fits.Statement .sampleDeadlineExpiry := by
  intro c w h; cases h
theorem Sys2Proof.Laws.Fits.hubStateUncorrectableError : Fits.Statement .hubStateUncorrectableError := by
  intro c w h; cases h
theorem Sys2Proof.Laws.Fits.managementCoreWatchdogExpiry : Fits.Statement .managementCoreWatchdogExpiry := by
  intro c w h; cases h
theorem Sys2Proof.Laws.Fits.pagingTlbInvalidation : Fits.Statement .pagingTlbInvalidation := by
  intro c w h; cases h
theorem Sys2Proof.Laws.Fits.readServedAtHome : Fits.Statement .readServedAtHome := by
  intro c w h; cases h
theorem Sys2Proof.Laws.Fits.hubRequestArrival : Fits.Statement .hubRequestArrival := by
  intro c w h; cases h
end

