-- ==== Sys2Proof/Tests/Slice0.lean ====
section
/-! SUPPORT. Tests: words written out from the encoding tables, ill-formed terms, single steps, and for every statement with
hypotheses a concrete state and operands that meet them. -/

set_option linter.unusedVariables false

namespace Sys2Proof.Tests

open Sys2Proof Sys2Proof.Machine

set_option Elab.async false

/-! Small states for the witnesses -/

/-- A state in which context `x` of core 0, at PC 0x1000, issues on a core in state `k`. -/
def st (x : Nat) (k : Core) : State := { State.reset with cores := [(0, k)], cur := { core := 0, src := x, pc := 0x1000 } }
/-- A context with some registers set. -/
def cx (l : Map Word) : Ctx := { x := l, st := .running }
/-- A job of world 0. -/
def job (kind : JobKind) : Job :=
  { kind := kind, opb := 0, step := 0, world := 0, prio := 0, wdog := 20, inter := false, image := 0x10000, flue := 0, fslots := 0,
    fload := [], init := [], l1g := 0, slots := [(0, 1)], granted := false }
/-- A core that runs a step's job, with 28 granules of scratchpad and the registers `l` in L. -/
def core (l : Map Word) : Core := { cl := cx l, job := some (job .step), gran := 28 }
/-- An operation in flight. -/
def op (s : State) (i : Instr) : Flight := blankFlight s i

/-! Witnesses: concrete states and operands that meet the hypotheses of each statement, clause by clause -/

theorem wit_registerFormsWriteTheirResult : (st 0 (core [(1, 5)])).cur.src ≤ 2 ∧ (st 2 {}).cur.src ≤ 2 := by decide
theorem wit_shiftsCountsAndFieldsByBits :
    (st 1 (core [])).cur.src ≤ 2 ∧ (63 : BitVec 6).toNat + (0 : BitVec 6).toNat + 1 ≤ 64
    ∧ (0 : BitVec 6).toNat + (63 : BitVec 6).toNat + 1 ≤ 64 ∧ 64 < (63 : BitVec 6).toNat + (1 : BitVec 6).toNat + 1
    ∧ Cls.sc.opcode (0x1E * 2 ^ 48 + 2 ^ 13) = 0x1E ∧ fldN (0x1E * 2 ^ 48 + 2 ^ 13) 13 17 ≠ 0
    ∧ Cls.sc.opcode (0x1E * 2 ^ 48 + 2 ^ 35) = 0x1E ∧ fldN (0x1E * 2 ^ 48 + 2 ^ 35) 30 6 ≠ 0
    ∧ Cls.sc.opcode (0x1F * 2 ^ 48 + 2 ^ 12) = 0x1F ∧ fldN (0x1F * 2 ^ 48 + 2 ^ 12) 12 18 ≠ 0 := by decide
theorem wit_dividesTruncateTowardZero :
    let s := st 0 (core [(1, BitVec.ofInt 64 (-2 ^ 63)), (2, BitVec.allOnes 64)])
    let busy (s : State) : Bool := s.me.flights.any (fun f => f.src == s.cur.src &&
      (match f.i with | .div _ | .divu _ | .rem _ | .remu _ => true | _ => false))
    s.cur.src ≤ 2 ∧ busy s = false
    ∧ (s.my.rx 1).toInt.natAbs < 2 ^ 64 ∧ 2 ^ (64 - 1) ≤ (s.my.rx 1).toInt.natAbs
    ∧ (s.my.rx 1).toNat < 2 ^ 64 ∧ 2 ^ (64 - 1) ≤ (s.my.rx 1).toNat
    ∧ (s.my.rx 3).toInt.natAbs < 2 ^ 0 ∧ (s.my.rx 3).toNat < 2 ^ 0
    ∧ busy (fly s (op s (.div ⟨3, 1, 2⟩))) = true := by decide
theorem wit_immediateFormsWriteTheirResult : (st 0 {}).cur.src ≤ 2 ∧ (st 2 (core [])).cur.src ≤ 2 := by decide
theorem wit_x0DiscardsAndReadsZero : (31 : XReg) ≠ 0 ∧ (0 : XReg) ≠ 31 := by decide
theorem wit_branchesTransferWhenTaken :
    let s := st 0 (core [(1, 0x1010), (2, 0x1008)])
    let q := st 1 { core [] with ck := { seq := some ⟨0x1000, 2, 1, 3, 0, 0⟩ } }
    (s.cur.src ≤ 2 ∧ s.cur.pc.toNat % parcelBytes s.cur.src = 0) ∧ s.my.seq = none
    ∧ (s.my.rx 1).toNat % 16 = 0 ∧ (s.my.rx 2).toNat % 16 ≠ 0
    ∧ (q.cur.src ≤ 2 ∧ q.cur.pc.toNat % parcelBytes q.cur.src = 0) ∧ q.my.seq.isSome = true
    ∧ 0x30 ≤ Cls.sc.opcode (0x30 * 2 ^ 48 + 2 ^ 36) ∧ Cls.sc.opcode (0x30 * 2 ^ 48 + 2 ^ 36) ≤ 0x36
    ∧ fldN (0x30 * 2 ^ 48 + 2 ^ 36) 36 6 ≠ 0 ∧ Cls.sc.opcode (0x30 * 2 ^ 48 + 2 ^ 36) = 0x30
    ∧ Cls.sc.opcode (0x36 * 2 ^ 48 + 2 ^ 42) ≤ 0x36 ∧ fldN (0x36 * 2 ^ 48 + 2 ^ 42) 42 6 ≠ 0
    ∧ Cls.sc.opcode (0x32 * 2 ^ 48 + 2 ^ 30) ≤ 0x32 ∧ fldN (0x32 * 2 ^ 48 + 2 ^ 30) 30 6 ≠ 0 := by decide
theorem wit_brlcCountsDownAndRotates :
    let s := st 1 (core [])
    let c : Cur := { brlc := true }
    (s.cur.src ≤ 2 ∧ s.cur.pc.toNat % parcelBytes s.cur.src = 0) ∧ s.my.seq = none
    ∧ ((core []).ctx 1).seq = none ∧ c.brlc = true ∧ (core []).sys.rrb < 48 ∧ (core []).sys.prb < 8
    ∧ (16 ≤ 62 ∧ 62 < 63) ∧ (8 ≤ 14 ∧ 14 < 15) ∧ { core [] with rot := true }.rot = true ∧ (core []).rot = false
    ∧ (st 1 { core [] with ck := { cx [] with seq := some ⟨0x1000, 2, 1, 3, 0, 0⟩ } }).my.seq.isSome = true := by decide
theorem wit_loopOpensACountedLoop :
    let s := st 0 (core [(1, 0xFFFFFFFF)])
    let f := st 0 { core [(1, 1)] with cl := { cx [(1, 1)] with loops := List.replicate 4 ⟨0x1000, 1, 0⟩ } }
    let n := (s.my.rx 1).toNat
    s.cur.src ≤ 2
    ∧ (1 ≤ (65536 : BitVec 30).toNat ∧ (65536 : BitVec 30).toNat ≤ 65536 ∧ n < 2 ^ 32 ∧ s.my.loops.length < 4 ∧ s.my.seq = none) ∧ 0 < n
    ∧ (s.my.rx 2).toNat = 0 ∧ ¬ (f.my.loops.length < 4) ∧ ¬ ((65537 : BitVec 30).toNat ≤ 65536)
    ∧ ({ push := some ⟨0x1010, 1, 0⟩ } : Cur).push = some ⟨0x1010, 1, 0⟩ ∧ ({} : Cur).jump = none ∧ (f.me.ctx 0).seq = none := by decide
theorem wit_loopClosesAtItsEndParcel :
    let e : LoopEnt := ⟨0x1000, 2, 0x20⟩
    let k : Core := { core [] with cl := { loops := [e] } }
    let c : Cur := { pc := 0x1020 }
    let j : Cur := { pc := 0x1010, jump := some 0x2000 }
    (k.ctx 0).seq = none ∧ c.push = none ∧ j.jump = some 0x2000 ∧ j.skip = false ∧ { j with skip := true }.skip = true ∧ (∀ e ∈ (k.ctx 0).loops, e.start + BitVec.ofNat 64 e.endOff ≠ j.pc)
    ∧ c.jump = none ∧ ((core []).ctx 0).loops = [] ∧ (k.ctx 0).loops = e :: []
    ∧ e.start + BitVec.ofNat 64 e.endOff = c.pc ∧ 2 ≤ e.count
    ∧ (⟨0x1000, 1, 0x20⟩ : LoopEnt).count ≤ 1 ∧ e.start + BitVec.ofNat 64 e.endOff ≠ (0x1010 : Word) := by decide
theorem wit_loopmAndLexit :
    let s := st 1 { core [] with ck := cx [(1, 0xFFFFFFFF), (2, 0x100000000)] }
    let a := st 1 { core [] with ck := { cx [] with seq := some ⟨0x1000, 2, 1, 3, 0, 0⟩ } }
    let l := st 0 { core [] with cl := { cx [] with loops := [⟨0x1000, 1, 0⟩] } }
    s.cur.src = 1 ∧ s.my.seq = none ∧ 0 < (s.my.rx 1).toNat ∧ (s.my.rx 1).toNat < 2 ^ 32 ∧ (s.my.rx 3).toNat = 0
    ∧ 2 ^ 32 ≤ (s.my.rx 2).toNat ∧ a.my.seq.isSome = true ∧ (l.cur.src = 0 ∨ l.cur.src = 2)
    ∧ l.my.seq = none ∧ l.my.loops = ⟨0x1000, 1, 0⟩ :: [] ∧ (st 2 (core [])).my.loops = []
    ∧ ({ jump := some 0x1020, lexit := true } : Cur).jump = some 0x1020 ∧ ({ lexit := true } : Cur).skip = false
    ∧ ({ jump := some 0x1020, skip := true } : Cur).skip = true ∧ (a.me.ctx 1).seq = some ⟨0x1000, 2, 1, 3, 0, 0⟩
    ∧ Cls.sc.opcode (0x3C * 2 ^ 48 + 1) = 0x3C ∧ fldN (0x3C * 2 ^ 48 + 1) 0 48 ≠ 0 := by decide

theorem wit_queuesAreFifos :
    let e : QEnt := ⟨some 7, 0, none, none⟩
    let s := st 0 { core [] with queues := [(0, { ents := List.replicate 7 e, fresh := 0 }), (1, { ents := List.replicate 8 e, fresh := 8 }),
      (2, { ents := [⟨none, 4, none, none⟩], fresh := 0 })] }
    let free (s : State) (q : BitVec 3) : Prop := s.cur.dry = true ∨ ∀ y < s.cur.src, (s.me.ctx y).wait ≠ some (.queue q true)
    s.cur.src ≤ 2 ∧ (s.me.que 0).ents.length < 8 ∧ free s 0 ∧ free (st 2 (core [])) 0 ∧ 8 ≤ (s.me.que 1).ents.length
    ∧ (s.me.que 0).ents = e :: List.replicate 6 e ∧ (s.me.que 0).fresh < (s.me.que 0).ents.length ∧ e.val = some 7
    ∧ (s.me.que 2).ents = ⟨none, 4, none, none⟩ :: [] ∧ (s.me.que 2).fresh < (s.me.que 2).ents.length
    ∧ (s.me.que 1).ents.length ≤ (s.me.que 1).fresh ∧ (s.me.que 3).ents.length ≤ (s.me.que 3).fresh := by decide
theorem wit_flagsSetAddAndWait :
    let k : Core := { core [(1, 511), (2, 512), (3, 0x80000000)] with flags := [(3, 0x7FFFFFFF), (4, 0x80000000)], flagOs := [(3, 4)] }
    let s := st 0 k
    let r := st 0 { k with cl := { k.cl with rel := some 5 } }
    let acq := fly s { op s (.ldd ⟨1, ⟨2, 0, .acq, .sys, .g, 0⟩⟩) with phase := .sent }
    s.cur.src ≤ 2 ∧ (⟨.none, .ctx⟩ : OS).relOk = true ∧ (⟨.rel, .sys⟩ : OS).relOk = true
    ∧ (s.my.rx 0).toNat = s.cur.core ∧ s.cur.core < 512 ∧ (s.my.rx 1).toNat ≠ s.cur.core ∧ (s.my.rx 1).toNat < 512
    ∧ 512 ≤ (s.my.rx 2).toNat ∧ s.my.rel = none ∧ s.me.acqAway s.cur.src = false
    ∧ s.released s.cur.core s.cur.src s.me.nextId .sys = true ∧ acq.me.acqAway acq.cur.src = true ∧ (s.me.flag 3 - 0).toNat < 2 ^ 31 ∧ 3 ≤ mget 0 s.me.flagOs 3 ∧ s.me.bumpWaits = false
    ∧ r.my.rel = some 5 ∧ 2 ^ 31 ≤ (s.me.flag 4 - 0).toNat := by decide
theorem wit_noEffectAndTimingSyllables :
    let s := st 1 (core [])
    let p := st 0 { core [] with preempt := some 1 }
    let rl := st 0 { core [] with cl := { cx [] with rel := some 0 } }
    let hb := st 0 (core [])
    let h := fly hb { op hb (.ldd ⟨1, ⟨2, 0, .none, .ctx, .g, 0⟩⟩) with phase := .unsent }
    let w : Tour := ⟨0, 4, 0, 0, 0, 0, [(1, { start := 0, grow := 0, grp := 0 })], false, false, false⟩
    let v : State := { st 0 { core [] with job := some (job (.rival 2 1)) } with hub := { State.reset.hub with tours := [(2, w)] } }
    let m : Core := { core [] with cl := { cx [] with wait := some .rdv } }
    s.cur.src ≤ 2 ∧ (65534 : BitVec 16).toNat ≤ 65534 ∧ s.cur.src = 1 ∧ s.me.preempt = none ∧ p.me.preempt.isSome = true
    ∧ p.me.hmode = false ∧ rl.my.rel.isSome = true ∧ s.my.rel = none ∧ s.me.heldBack s.cur.src = false
    ∧ h.my.rel = none ∧ h.me.heldBack h.cur.src = true ∧ s.me.isRival = false
    ∧ v.me.kind = some (.rival 2 1) ∧ v.tour 2 = some w ∧ w.last = false ∧ w.riv 1 = some { start := 0, grow := 0, grp := 0 }
    ∧ m.meets = true ∧ (m.ctx 0).st.isRun = true := by decide
theorem wit_trapsStopWithTheirDetail :
    let s := st 1 (core [])
    let h := st 1 { core [] with hmode := true }
    let q := st 1 { core [] with ck := { seq := some ⟨0x1000, 2, 1, 3, 0, 0⟩ } }
    s.cur.src ≤ 2 ∧ s.me.hmode = false ∧ (st 0 { core [] with hmode := true }).cur.src ≠ 1 ∧ s.my.seq = none ∧ h.me.hmode = true
    ∧ h.my.seq = none ∧ q.my.seq.isSome = true := by decide

theorem wit_systemRegistersReadAndWrite :
    let s := st 1 { core [] with ck := cx [(1, 29), (2, 47), (3, 7), (4, 63), (5, 0xFFFFFFFF), (6, 2 ^ 56 - 32), (7, 32)] }
    s.cur.src ≤ 2 ∧ (s.my.rx 1).toNat < 32 ∧ (s.my.rx 1).toNat % 8 ≤ 5 ∧ ¬ ((s.my.rx 7).toNat < 32) ∧ (s.my.rx 4).toNat < 64
    ∧ (s.my.rx 5).toNat < 2 ^ 32 ∧ s.cur.src = 1 ∧ (s.my.rx 2).toNat < 48 ∧ (s.my.rx 3).toNat < 8
    ∧ (s.my.rx 6).toNat < 2 ^ 56 ∧ (s.my.rx 6).toNat % 32 = 0
    ∧ (0x020 : BitVec 12).toNat ∈ [0x008, 0x009, 0x00A, 0x00B, 0x00C, 0x00D, 0x019, 0x020]
    ∧ (0x021 : BitVec 12).toNat ∉ [0, 1, 2, 3, 8, 9, 10, 11, 12, 13, 16, 17, 24, 25, 32] := by decide
theorem wit_cacheLocksSplitAndGeneration :
    let s := st 0 (core [(1, 0x1000)])
    let d := st 0 { core [] with split := some (28, 5) }
    let w := st 0 { core [] with l1gen := 127, sweep := 9 }
    s.cur.src ≤ 2 ∧ ScopeK.sys ≠ .ctx ∧ (27 : BitVec 5).toNat ≤ 27 ∧ s.me.split = none ∧ d.me.split.isSome = true
    ∧ s.me.bumpWaits = false ∧ w.me.bumpWaits = true := by decide
theorem wit_hubRequestsAreSent :
    let s := st 0 (core [])
    let r := st 0 { core [(1, 64), (2, 65)] with job := some (job (.rival 0 0)) }
    s.cur.src ≤ 2 ∧ s.me.isRival = false ∧ r.me.isRival = true ∧ (r.my.rx 1).toNat % 64 = 0 ∧ (r.my.rx 2).toNat % 64 ≠ 0
    ∧ (s.core 0).kind = s.me.kind := by decide
theorem wit_groupBarriersReleaseTogether :
    let g : Grp := { members := 3, kind := 1, arrived := 2 }
    let h : Grp := { members := 3, kind := 1 }
    let s (g : Grp) : State := { st 0 (core []) with
      cores := [(0, core []), (1, { core [] with cl := { cx [] with wait := some (.bar 0), arrived := true } })],
      hub := { State.reset.hub with groups := [(0, g)] } }
    let here (s : State) (code : Nat) : Prop := (s.grp 0).kind ≠ 3 ∧ s.my.rel = none ∧ s.my.arrived = false ∧ s.me.observed s.me.nextId = true
        ∧ s.me.heldBack s.cur.src = false ∧ s.seenAll 0 = true ∧ (∀ f ∈ s.hub.fincs, f.src / 4 ≠ 0) ∧ (∀ v ∈ s.invs, v.core ≠ 0)
        ∧ s.me.bumpWaits = false ∧ (s.grp 0).arrived.getLsbD 0 = false ∧ (s.grp 0).waits = [] ∧ ∀ w ∈ (s.grp 0).what, w.2.1 = code
    (s g).cur.src ≤ 2 ∧ (8 : BitVec 4).toNat ≤ 8 ∧ (s g).me.grpAt 1 = none ∧ (s g).me.grpAt 0 = some 0 ∧ (s g).cur.core < 512
    ∧ here (s g) 0 ∧ here (s g) 9 ∧ here (s g) 32 ∧ g.members = g.arrived ||| (1#512 <<< 0)
    ∧ (s g).me.e0.cur = none ∧ (s g).me.e1.cur = none ∧ (s g).me.wq = [] ∧ (∀ u ∈ (s g).hub.units, u.src ≠ 0)
    ∧ g.arrived.getLsbD 1 = true ∧ (((s g).core 1).ctx 0).wait = some (.bar 0) ∧ ((s g).core 1).grpAt 0 = some 0
    ∧ (((s g).core 1).ctx 0).arrived = true ∧ (((s g).core 1).ctx 0).rel = none
    ∧ here (s h) 0 ∧ here (s h) 9 ∧ here (s h) 32 ∧ ¬ (h.members = h.arrived ||| (1#512 <<< 0))
    ∧ (let w : State := { s h with cores := [(0, { core [] with cl := { cx [] with arrived := true } })] }
      (w.grp 0).kind ≠ 3 ∧ w.my.rel = none ∧ w.my.arrived = true) := by
  simp only
  and_intros <;> decide +kernel
theorem wit_sgwaitReturnsTheGroupsStatus :
    let q (n : Nat) : SGrp := ⟨0, 0, [0], 0, 0, 4, 1, 0, 0, 0, 0, 0, 0, 0, [], 0, n, 2, [], false⟩
    let s (n : Nat) : State := { st 0 (core []) with hub := { State.reset.hub with groups := [(0, { kind := 3, obj := 5 })], sgrps := [(5, q n)] } }
    (s 0).cur.src ≤ 2 ∧ (s 0).my.rel = none ∧ (∀ r ∈ (s 0).hub.reqs, ¬ (r.core = (s 0).cur.core ∧ r.ctx = (s 0).cur.src))
    ∧ ((s 0).me.grpAt 1).bind (s 0).sgAt = none ∧ ((s 2).me.grpAt 0).bind (s 2).sgAt = some (5, q 2) ∧ (q 2).st = 2
    ∧ (s 2).me.bumpWaits = false ∧ ((s 1).me.grpAt 0).bind (s 1).sgAt = some (5, q 1) ∧ (q 1).st ≠ 2 := by decide
theorem wit_leaseAndEngineControl :
    let k : Core := { core [(1, 0x2008), (2, 0x2004), (3, 0x2080)] with lease := true }
    let s := st 0 k
    let h : State := { s with kilns := [(0, { holder := some 0 })] }
    let n := st 0 { k with lease := false }
    let run := st 0 { k with e0 := { st := .running }, em := { st := .stalled } }
    let park := st 0 { k with em := { st := .parked }, lease := false, leaseReq := true }
    let d : State := { s with kilns := [(0, { b0 := { st := 2 } })] }
    s.cur.src ≤ 2 ∧ (2 : BitVec 2).toNat ≤ 2 ∧ s.cur.verdict = .go ∧ s.my.rel = none ∧ s.me.lease = true
    ∧ (st 0 { k with cl := { k.cl with rel := some 2 } }).my.rel = some 2 ∧ n.me.lease = false ∧ n.my.rel = none
    ∧ h.me.lease = true ∧ h.me.em.st.isRun = false ∧ h.ki.isDraining = false ∧ h.ki.holder = some (BitVec.ofNat 9 h.cur.core) ∧ h.cur.core < 512
    ∧ (s.my.rx 1).toNat % 8 = 0 ∧ s.me.em.st ≠ .parked ∧ run.me.em.st.isRun = true ∧ (s.my.rx 2).toNat % 8 ≠ 0
    ∧ (s.me.eng 0).st.isRun = false ∧ (run.me.eng 0).st.isRun = true ∧ (1 : BitVec 2).toNat < 2 ∧ park.me.em.st = .parked
    ∧ (∀ x ≤ 2, (park.me.ctx x).wait ≠ some .lease) ∧ (s.me.eng 1).st ≠ .parked
    ∧ (s.me.lease = false ∨ s.ki.isDraining = false) ∧ (d.me.lease = true ∧ d.ki.isDraining = true)
    ∧ (s.my.rx 3).toNat % 128 = 0 ∧ (s.my.rx 1).toNat % 128 ≠ 0 := by decide

/-- An address in a space with ordering none. -/
def ma (sp : SpaceK) (base : XReg) (disp : BitVec 23) : MAddr := ⟨base, 0, .none, .ctx, sp, disp⟩
theorem wit_ownScratchpadLoadsAndStores :
    let s := st 0 (core [(1, 131072 * 28 - 8)])
    let m := ma .sp 1 0
    let a (m : MAddr) : Nat := (s.my.rx m.xbase + m.disp.signExtend 64).toNat
    let acq := fly s { op s (.ldd ⟨1, ⟨2, 0, .acq, .sys, .g, 0⟩⟩) with phase := .sent }
    let at' (n : Nat) : Prop := a m % n = 0 ∧ a m + n ≤ 131072 * s.me.gran ∧ a m < 0x400000 ∧ s.me.split = none
    s.cur.src ≤ 2 ∧ m.space = .sp ∧ m.os.acqOk = true ∧ m.os.relOk = true ∧ (⟨.acq, .sys⟩ : OS).acqOk = true ∧ s.me.bumpWaits = false
    ∧ s.me.acqAway s.cur.src = false ∧ acq.me.acqAway acq.cur.src = true ∧ s.released s.cur.core s.cur.src s.cur.first .core = true
    ∧ (⟨.rel, .core⟩ : OS).relOk = true ∧ at' 1 ∧ at' 2 ∧ at' 4 ∧ at' 8
    ∧ a (ma .sp 1 1) % 2 ≠ 0 ∧ a (ma .sp 1 2) % 4 ≠ 0 ∧ a (ma .sp 1 4) % 8 ≠ 0 := by
  and_intros <;> decide
theorem wit_globalAccessesAreIssued :
    let s := st 0 (core [(1, 0x100000), (2, 0x400000), (3, 0x100001)])
    let m := ma .g 1 0
    let n := ma .nb 2 0
    s.cur.src ≤ 2 ∧ (Instr.ldd ⟨1, m⟩).wf = true ∧ (Instr.ldd ⟨1, m⟩).maddr = some m ∧ (Instr.ldd ⟨1, m⟩).load.isSome = true
    ∧ (Instr.std ⟨1, m⟩).store = some (1, 8) ∧ (Instr.std ⟨1, n⟩).wf = true ∧ (Instr.std ⟨1, n⟩).maddr = some n
    ∧ (Instr.aadd ⟨1, m⟩).atom = some (.add, ⟨1, m⟩) ∧ (Instr.aadd ⟨1, m⟩).wf = true ∧ (Instr.aadd ⟨1, m⟩).maddr = some m
    ∧ (Instr.stv 3 m).wf = true ∧ (Instr.stv 3 m).maddr = some m ∧ (Instr.ldp 1 m).wf = true ∧ (Instr.ldp 1 m).maddr = some m
    ∧ m.space = .g ∧ n.space = .nb ∧ (nbTarget s.cur.core (s.my.ea n)).1 ≠ s.cur.core
    ∧ (s.my.rx m.xbase + m.disp.signExtend 64).toNat % 256 = 0
    ∧ (s.my.rx 3 + (0 : BitVec 23).signExtend 64).toNat % 2 ≠ 0 := by decide
theorem wit_ownScratchpadAtomics :
    let s := st 0 (core [(1, 131072 * 28 - 8)])
    let o : AtOp := ⟨2, { ma .sp 1 0 with ord := .ar, scope := .sys }⟩
    let a : Nat := (s.my.rx o.m.xbase + o.m.disp.signExtend 64).toNat
    s.cur.src ≤ 2 ∧ o.m.space = .sp ∧ o.m.os.ok = true ∧ s.me.bumpWaits = false ∧ s.me.acqAway s.cur.src = false
    ∧ isRel o.m.os = true ∧ s.released s.cur.core s.cur.src s.cur.first o.m.scope = true ∧ a % 8 = 0 ∧ a % 4 = 0 ∧ a + 8 ≤ 131072 * s.me.gran
    ∧ a < 0x400000 ∧ s.me.split = none := by decide
theorem wit_vectorAndPredicateMovesOfOwnScratchpad :
    let s := st 0 (core [(1, 131072 * 28 - 2048), (2, 32), (3, 64)])
    let m := ma .sp 1 0
    let a (m : MAddr) : Nat := (s.my.rx m.xbase + m.disp.signExtend 64).toNat
    let n := tileBytes (vshN s.me.sys.vsh) (vshFmt s.me.sys.vsh)
    s.cur.src ≤ 2 ∧ m.space = .sp ∧ m.os = ⟨.none, .ctx⟩ ∧ s.me.acqAway s.cur.src = false ∧ n = 2048 ∧ a m % 64 = 0 ∧ a m + n ≤ 131072 * s.me.gran ∧ a m < 0x400000
    ∧ s.me.split = none ∧ a m % 256 = 0 ∧ a m + 256 ≤ 131072 * s.me.gran ∧ (15 : BitVec 4) ≠ 0
    ∧ a (ma .sp 2 0) % 64 ≠ 0 ∧ a (ma .sp 3 0) % 256 ≠ 0
    ∧ max 1 ((tileBytes (vshN (mkVsh 1 1 .int8)) (vshFmt (mkVsh 1 1 .int8)) + 255) / 256) = 1 := by decide +kernel
theorem wit_ldqReservesAndPrefetchFills :
    let t : TlbEnt := { world := 0, va := 0, size := 0x200000, pa := 0x200000, r := true, w := true, x := false }
    let s := st 0 { core [(1, 0x1000), (2, 0x400000), (3, 0x1004)] with tlb := [t] }
    let f := st 0 { core [(1, 0x1000)] with queues := [(0, { ents := List.replicate 8 ⟨some 1, 0, none, none⟩, fresh := 0 })] }
    let va := (s.my.rx 1 + (0 : BitVec 23).signExtend 64).toNat
    let pa := s.normPa (t.pa + (va - t.va))
    s.cur.src ≤ 2 ∧ (ma .g 1 0).os.acqOk = true ∧ (s.my.ea (ma .g 1 0)).toNat % 8 = 0 ∧ (s.me.que 0).ents.length < 8
    ∧ (∀ y < s.cur.src, (s.me.ctx y).wait ≠ some (.queue 0 true)) ∧ s.me.lockCount < 512
    ∧ (nbTarget s.cur.core (s.my.ea (ma .nb 2 0))).1 ≠ s.cur.core
    ∧ (s.my.ea (ma .sp 1 0)).toNat + 8 ≤ 131072 * s.me.gran ∧ s.me.split = none ∧ s.me.acqAway s.cur.src = false ∧ s.me.bumpWaits = false
    ∧ 8 ≤ (f.me.que 0).ents.length ∧ (s.my.ea (ma .g 3 0)).toNat % 8 ≠ 0 ∧ s.hub.rranges = []
    ∧ tlbFind s.me.tlb s.me.world.toNat va = some t ∧ t.r = true ∧ va < 2 ^ 56 ∧ paKind s.hub.accid pa = .hbm
    ∧ s.agentOk 1 s.me.world.toNat (pa / 128 * 128) 128 = true ∧ (∀ n, s.me.lockedPa n = false)
    ∧ s.readWaits (dieOf s.cur.core) (pa / 128 * 128) 128 = false
    ∧ s.me.l1Hit (pa / 128) = none ∧ s.me.atomPending s.me.nextId (pa / 128 * 128) 128 = false := by
  simp only
  and_intros <;> first | decide +kernel | exact fun _ => rfl
theorem wit_portsBindUnbindAndReport :
    let x : Port := ⟨0, true, ⟨.none, .ctx⟩, 0, .g, 0, 0, none, [0], [], 0, 0, 0, false, false, [], []⟩
    let s := st 0 (core [(1, 0x1000), (2, 0x1020), (3, 2 ^ 40 - 1)])
    let b := st 0 { core [(1, 0x1000)] with ports := [(0, x)] }
    s.cur.src ≤ 2 ∧ (ma .g 1 0).os.relOk = true ∧ (ma .g 1 0).os.acqOk = true ∧ (s.my.ea (ma .g 1 0)).toNat % 64 = 0
    ∧ mfind s.me.ports 0 = none ∧ mfind b.me.ports 0 = some x ∧ x.wr = true ∧ x.tiles ≠ [] ∧ (s.my.ea (ma .g 2 0)).toNat % 64 ≠ 0
    ∧ x.endReq = false ∧ x.tiles.length < 8 ∧ OrdK.ar ≠ .none ∧ ScopeK.mod ∈ [ScopeK.core, .clu, .die, .mod]
    ∧ 0 < (s.my.rx 3).toNat ∧ (s.my.rx 3).toNat < 2 ^ 40 ∧ s.my.rx 5 = 0 := by decide +kernel

/-- A translation of the lowest 2 MiB onto themselves, for reads and writes. -/
def low : TlbEnt := { world := 0, va := 0, size := 0x200000, pa := 0, r := true, w := true, x := true }
/-- A vector syllable's ports. -/
def vo (fmt : Fmt) (d : VDst) (a b c : VSrc) : VOp := ⟨fmt, .rne, d, a, b, c, 0⟩
/-- A read port with two tiles of the default shape. -/
def rdPort : Port :=
  ⟨0, false, ⟨.none, .ctx⟩, 0, .g, 0, 1, some ⟨0, .g, .fp32, 2, 1, 512, [512, 4], [4, 2048]⟩,
    [7, 8], [], 2, 0, 0, false, false, [], []⟩

theorem wit_vectorSyllablesCaptureAndFly :
    let age : Age := ⟨0, 0x00607FC0, 0, 1, 0, false⟩
    let k : Core := { core [] with va := [age], ports := [(1, rdPort)] }
    let s := st 1 k
    let o := vo .fp32 (.v 1) (.v 2) (.va 0) (.x 3)
    let p := vo .fp32 (.v 1) (.s 1) (.v 2) .none
    let vsh := s.me.sys.vsh
    (Instr.vfma o).vop = some o ∧ (Instr.vfma o).wf = true ∧ s.cur.src = 1 ∧ shapeCheck (.vfma o) o vsh = none
    ∧ modeOk (.vfma o) o s.me.sys.fpctl = true ∧ s.me.va[0]? = some age ∧ age.hold ≠ 0
    ∧ (Instr.vadd p).vop = some p ∧ (Instr.vadd p).wf = true ∧ shapeCheck (.vadd p) p vsh = none ∧ modeOk (.vadd p) p s.me.sys.fpctl = true
    ∧ mfind s.me.ports 1 = some rdPort ∧ rdPort.wr = false ∧ rdPort.endReq = false ∧ rdPort.tiles = 7 :: [8]
    ∧ rdPort.fresh < rdPort.tiles.length ∧ rdPort.pat.map (fun p => tileBytes p.te p.fmt) = some (tileBytes (vshN vsh) .fp32)
    ∧ (shapeCheck (.vcvt (vo .int8 (.v 1) (.v 2) .none .none) .fp32) (vo .int8 (.v 1) (.v 2) .none .none) (mkVsh 2 512 .int8)) = some 6
    ∧ mfind s.me.ports 0 = none ∧ s.me.vb[0]? = none := by decide +kernel
/-- A vector operation on three tiles. -/
def vop (i : Instr) (vsh : BitVec 32) (a b c : Tile) : Flight :=
  { blankFlight (st 1 (core [])) i with vsh := vsh, tA := some a, tB := some b, tC := some c, dest := 1 }
theorem wit_vectorSyllables_ports :
    let w (tiles : List Tile) (n : Nat) : Port := { rdPort with wr := true, tiles := tiles, cons := n }
    let k : Core := { core [] with ports := [(1, rdPort), (2, w [1, 2, 3] 3), (3, w [1, 2, 3, 4] 4)] }
    let o := vo .fp32 (.s 2) (.s 1) (.v 1) (.v 2)
    let q := vo .fp32 (.s 3) (.v 1) (.s 1) (.s 1)
    let n := tileBytes (vshN k.sys.vsh) .fp32
    let pt : Option Nat := rdPort.pat.map (fun p => tileBytes p.te p.fmt)
    (Instr.vfma o).wf = true ∧ (Instr.vfma q).wf = true ∧ shapeCheck (.vfma o) o k.sys.vsh = none ∧ shapeCheck (.vfma q) q k.sys.vsh = none
    ∧ modeOk (.vfma o) o k.sys.fpctl = true ∧ pt = some n ∧ rdPort.pat.map (·.tiles) = some 4
    ∧ mfind k.ports 1 = some rdPort ∧ rdPort.fresh < rdPort.tiles.length ∧ rdPort.fresh < rdPort.tiles.tail.length ∧ rdPort.endReq = false
    ∧ mfind k.ports 2 = some (w [1, 2, 3] 3) ∧ [1, 2, 3].length + k.pushing 2 < 4 ∧ 3 + k.pushing 2 < 4
    ∧ mfind k.ports 3 = some (w [1, 2, 3, 4] 4) ∧ ¬ ([1, 2, 3, 4].length + k.pushing 3 < 4)
    ∧ tileBytes 1 .fp32 ≠ n ∧ mfind k.ports 0 = none := by decide +kernel
theorem wit_finiteFloatResultsAreRounded :
    let t (g : Fmt) (x y : Nat) : Tile := BitVec.ofNat 16384 (x + 2 ^ g.bits * y)
    let on (g : Fmt) (d : RndK) (x y z : Nat) (fp : BitVec 32) : Bool :=
      let o : VOp := ⟨g, d, .v 1, .v 2, .v 3, .v 4, 0⟩
      let f : Flight := { vop (.vfma o) (mkVsh 1 2 g) (t g x y) (t g y z) (t g z x) with fpctl := fp }
      f.prog = 0 && f.tA.isSome && f.tB.isSome && f.tC.isSome && decide (o.d = .v 1 ∧ o.a = .v 2 ∧ o.b = .v 3 ∧ o.c = .v 4
      ∧ o.p = 0 ∧ f.pr = none ∧ f.fpctl.getLsbD 3 = false ∧ f.fpctl.toNat % 8 < 6
      ∧ 2 * (vshRows f.vsh * vshCols f.vsh) * 32 ≤ 16384 ∧ 1 < vshRows f.vsh * vshCols f.vsh ∧ 0 < vshRows f.vsh ∧ 0 < vshCols f.vsh)
    on .fp32 .rne 0x3F800000 0x40400000 0x00000001 0 ∧ on .fp16 .rz 0x7BFF 0x3C00 0x8001 1 ∧ on .bf16 .dyn 0x3F80 0x4040 0x7F7F 5
    ∧ on .fp32 .rdn 0 0x80000000 0x3F800000 2 ∧ on .fp32 .rup 1 2 3 3 ∧ on .fp32 .rna 1 2 3 4 ∧ on .fp32 .sr 1 2 3 5
    ∧ 0x3F800000 < 2 ^ 32 ∧ 0x3F800000 % 2 ^ 31 < 0x7F800000 ∧ 0x7BFF % 2 ^ 15 < 0x7C00 ∧ 0x7F7F % 2 ^ 15 < 0x7F80 := by decide +kernel
theorem wit_vectorSyllables_operands (m : BitVec 2) :
    (VDst.v 1) ≠ .s m ∧ (VSrc.va 0) ≠ .s m ∧ (VSrc.x 3) ≠ .s m ∧ (VSrc.v 2) ≠ .s m ∧ (VSrc.none) ≠ .s m := by simp
theorem wit_predicateLogicAndShape :
    let legal (n : Nat) : Bool := n / 2 ^ 24 == 0 && n / 2 ^ 17 % 8 == 0 && decide (n / 2 ^ 20 % 16 < 14)
    (st 1 (core [])).cur.src = 1 ∧ (15 : BitVec 4) ≠ 0 ∧ (31 : XReg) ≠ 0 ∧ legal 0x00607FC0 = true
    ∧ tileBytes (vshN 0x00607FC0) (vshFmt 0x00607FC0) ≤ 2048 ∧ legal 0x00E00000 = false ∧ legal 0x00607FC1 = true
    ∧ 2048 < tileBytes (vshN 0x00607FC1) (vshFmt 0x00607FC1) := by decide +kernel

theorem wit_integerElementsLand :
    let o := vo .int32 (.v 1) (.v 2) (.v 3) (.v 4)
    let f := vop (.vimac24 o) 0x00407FC0 1 2 3
    f.prog = 0 ∧ o.d = .v 1 ∧ o.a = .v 2 ∧ o.b = .v 3 ∧ o.c = .v 4 ∧ f.tA = some 1 ∧ f.tB = some 2 ∧ f.tC = some 3 ∧ o.fmt.isInt = true
    ∧ Fmt.int8.isInt = true ∧ vshN f.vsh * o.fmt.bits ≤ 16384 ∧ 511 < vshN f.vsh ∧ o.fmt.bits = 32
    ∧ (vo .uint8 (.v 1) (.v 2) (.v 3) (.v 4)).fmt.bits * vshN f.vsh ≤ 16384 ∧ RndK.rz = .rz ∧ f.dest ≠ 0 ∧ 511 < 2048 := by decide +kernel
theorem wit_dataMovementLands :
    let o := vo .int16 (.v 1) (.v 2) (.v 3) .none
    let f := vop (.vmov o) (mkVsh 8 64 .int16) 1 2 3
    let rows := vshRows f.vsh
    let cols := vshCols f.vsh
    f.prog = 0 ∧ o.d = .v 1 ∧ o.a = .v 2 ∧ o.b = .v 3 ∧ f.tA = some 1 ∧ f.tB = some 2 ∧ o.fmt.isInt = true ∧ Fmt.int8.isInt = true
    ∧ rows * cols * o.fmt.bits ≤ 16384 ∧ 7 < rows ∧ 63 < cols ∧ (63 : BitVec 6).toNat < cols ∧ (7 : BitVec 6).toNat < rows
    ∧ cols ≤ 64 ∧ (64 : BitVec 9).toNat ≤ cols ∧ rows * cols * 16 ≤ 16384 ∧ (List.range cols).map (fun q => 0 * cols + q) ≠ []
    ∧ rows * cols * Fmt.int32.bits ≤ 16384 ∧ rows * cols * 2 * Fmt.int8.bits ≤ 16384 ∧ rows * cols * 2 * o.fmt.bits ≤ 16384 := by
  decide +kernel
theorem wit_floatElementsLand :
    let o := vo .fp32 (.v 1) (.v 2) (.v 3) (.v 4)
    let q : Tile := 0x7FC00000
    let i : Tile := 0x7F800000
    let n : Tile := 0xFF800000
    let z : Tile := 0x80000000
    let f := vop (.vfma o) 0x00607FC0 q i n
    let el (t : Tile) : Nat := t.toNat / 2 ^ (32 * 0) % 2 ^ 32
    let mag (v : Nat) : Nat := v % 2 ^ 31
    f.prog = 0 ∧ o.d = .v 1 ∧ o.a = .v 2 ∧ o.b = .v 3 ∧ o.c = .v 4 ∧ f.tA = some q ∧ f.tB = some i ∧ f.tC = some n ∧ o.fmt = .fp32 ∧ o.p = 0
    ∧ f.pr = none ∧ f.fpctl.getLsbD 3 = false ∧ vshN f.vsh * 32 ≤ 16384 ∧ 511 < vshN f.vsh
    ∧ 0x7F800000 < mag (el q) ∧ mag (el i) = 0x7F800000 ∧ mag (el n) = 0x7F800000 ∧ ¬ (2 ^ 31 ≤ el i) ∧ 2 ^ 31 ≤ el n
    ∧ mag (el 0) = 0 ∧ mag (el z) = 0 ∧ 2 ^ 31 ≤ el z ∧ el 0xBF800000 ≥ 2 ^ 31 ∧ mag (el 0xBF800000) ≠ 0
    ∧ ¬ (0x7F800000 < mag (el 0xBF800000)) ∧ mag (el 0xBF800000) ≠ 0x7F800000 ∧ el 0x3F800000 = 0x3F800000
    ∧ f.dest ≠ 0 ∧ Fmt.e4m3.isMX = true ∧ vshCols f.vsh % 32 = 0 ∧ f.ea.toNat ≠ f.dest
    ∧ (0xFF : Tile).toNat / 2 ^ (8 * (0 / 32)) % 256 = 0xFF := by decide +kernel

/-- An access that succeeds, with what else the state after it meets, from its evaluation. -/
theorem okExists {ε α : Type} {r : State × Except ε α} (p : State → α → Prop) [∀ t a, Decidable (p t a)]
    (h : (match r with | (t, .ok a) => decide (p t a) | _ => false) = true) : ∃ t a, r = (t, .ok a) ∧ p t a := by
  obtain ⟨t, e | a⟩ := r
  · simp at h
  · exact ⟨t, a, rfl, by simpa using h⟩
theorem okWrite {ε : Type} {r : State × Except ε Unit} (h : (match r with | (_, .ok ()) => true | _ => false) = true) :
    ∃ t, r = (t, .ok ()) := by
  obtain ⟨t, e | a⟩ := r
  · simp at h
  · exact ⟨t, rfl⟩
theorem okRead {ε α : Type} {r : State × Except ε α} (h : (match r with | (_, .ok _) => true | _ => false) = true) :
    ∃ t a, r = (t, .ok a) := by
  obtain ⟨t, e | a⟩ := r
  · simp at h
  · exact ⟨t, a, rfl⟩

/-- A core whose engine 0 holds some registers, or its M stream. -/
def ec (e : Eng) : Core := { core [] with e0 := e, tlb := [low] }
def em (e : Eng) : Core := { core [] with em := e, lease := true, tlb := [low] }
/-- A word in progress that has begun. -/
def going (i : Instr) : EWord := { freshWord i with begun := true }

theorem wit_engineWordsOnRegisters :
    let w (v : BitVec 17) (n : BitVec 16) : EW := ⟨1, v, n⟩
    let s := st 3 (ec { r := [(1, 0x1000), (2, 0x1004), (3, 1), (4, 2)] })
    let m := st 5 (em { r := [(1, 0x1000), (4, 0x6000180), (5, 0x100000001)] })
    let g (i : Instr) : State := st 3 (ec { r := [(1, 0x1000)], cur := some (going i) })
    s.copies ∧ m.mIssues ∧ (1 : BitVec 16).toNat ≤ 1 ∧ 1 < (2 : BitVec 16).toNat ∧ (s.ew (.cnop 2)).begun = false
    ∧ ((g (.cnop 2)).ew (.cnop 2)).begun = true
    ∧ (w 5 0).n = 0 ∧ (w 5 1).n ≠ 0 ∧ (w 5 1).n.toNat ≤ (s.ew (.csetl (w 5 1))).reps + 1 ∧ (s.ew (.csetl (w 5 2))).reps + 1 < (w 5 2).n.toNat
    ∧ (w 0xFFFF 1).v.toNat < 2 ^ 16 ∧ (w 0x10000 1).v.toNat = 2 ^ 16 ∧ ((s.en.rr 2).toNat % 2 ^ 22) % 8 ≠ 0 ∧ ((s.en.rr 1).toNat % 2 ^ 22) % 8 = 0
    ∧ (s.ew (.cseth (w 0x10000 1))).begun = false ∧ ((g (.cseth (w 0x10000 1))).ew (.cseth (w 0x10000 1))).begun = true
    ∧ s.hub.replay = none ∧ s.me.split = none ∧ s.me.banks = [] ∧ (s.en.rr 1).toNat % 2 ^ 22 + 8 ≤ 131072 * s.me.gran
    ∧ s.en.rr 0 = 0 ∧ s.en.rr 3 = 1 ∧ s.en.rr 4 ≠ 0 ∧ s.en.rr 4 ≠ 1
    ∧ (Instr.kfmt 0x00 0).wf = true ∧ (Instr.kfmt 0xCC 1).wf = true ∧ (13 : BitVec 4).toNat ≤ 13
    ∧ (1 ≤ (m.en.rr 4).toNat % 2 ^ 16 ∧ (m.en.rr 4).toNat % 2 ^ 16 ≤ 384 ∧ 1 ≤ (m.en.rr 4).toNat / 2 ^ 16 % 2 ^ 16
      ∧ (m.en.rr 4).toNat / 2 ^ 16 % 2 ^ 16 ≤ 1536 ∧ (m.en.rr 4).toNat / 2 ^ 32 = 0 ∧ (m.en.rr 5).toNat % 2 ^ 32 ≠ 0
      ∧ (m.en.rr 5).toNat / 2 ^ 32 ≠ 0)
    ∧ ¬ (1 ≤ (m.en.rr 0).toNat % 2 ^ 16) := by
  refine ⟨.inl rfl, rfl, ?_⟩
  decide +kernel
theorem wit_engineSignalsWaitsAndSyncs :
    let s := st 3 (ec { r := [(1, 1), (2, 0x80)] })
    let f (e : Eng) : State := st 3 { ec e with flags := [(3, 1)] }
    let m := st 5 (em { r := [(2, 0x80), (3, 0x84)] })
    let o (k : Kiln) : State := { m with kilns := [(0, k)] }
    let rl := st 3 (ec { rel := some 3 })
    let ar := st 3 (ec { rel := some 0, cur := some { freshWord (.csync ⟨.none, .ctx⟩ true 1) with arrived := true } })
    let un := st 3 { ec {} with wq := [⟨0, 3, 0, 0, 0, 0, [0], none, 0, 0, 0, false, ⟨.none, .ctx⟩, 0, 0, [], [], 0, false, none, 5⟩] }
    let kw (v : BitVec 17) : EWO := ⟨⟨.none, .ctx⟩, 2, v, 1⟩
    s.copies ∧ m.mIssues ∧ s.hub.replay = none ∧ s.me.preempt = none ∧ (⟨.none, .ctx⟩ : OS).relOk = true ∧ (⟨.none, .ctx⟩ : OS).acqOk = true
    ∧ (⟨.none, .ctx⟩ : OS).ok = true ∧ (⟨.rel, .mod⟩ : OS).relOk = true ∧ s.engReleased s.who .mod = true ∧ un.engReleased un.who .die = false
    ∧ s.en.rel = none ∧ reaches ((f { r := [(1, 1)] }).me.flag 3) 1 = true ∧ reaches (s.me.flag 3) 1 = false ∧ s.me.hold.isSome = false
    ∧ rl.en.rel = some 3 ∧ 2 ≤ ScopeK.clu.code ∧ s.me.bumpWaits = false ∧ (∀ u ∈ s.hub.units, u.src ≠ s.cur.core ∨ u.eng ≠ s.ei)
    ∧ (s.ew (.csync ⟨.none, .ctx⟩ true 1)).chk < 2 ∧ (s.ew (.csync ⟨.none, .ctx⟩ true 1)).arrived = false
    ∧ (ar.ew (.csync ⟨.none, .ctx⟩ true 1)).arrived = true ∧ ar.en.rel.isSome = true
    ∧ m.ki.isDraining = false ∧ (Instr.ksync (kw 12)).wf = true ∧ (Instr.ksync (kw 0)).wf = true ∧ (m.ew (.ksync (kw 12))).chk = 0
    ∧ (m.ew (.ksync (kw 12))).arrived = false ∧ m.ki.isOpen = false ∧ (m.en.rr 2).toNat % 8 = 0 ∧ (m.en.rr 3).toNat % 8 ≠ 0
    ∧ (o { b0 := { st := 2 } }).ki.isDraining = true ∧ (o { b0 := { st := 1 } }).ki.isOpen = true ∧ (kw 12).v.toNat / 4 % 2 = 1
    ∧ (kw 12).v.toNat / 2 % 2 = 0 := by
  refine ⟨.inl rfl, rfl, ?_⟩
  decide +kernel
theorem wit_engineSignals_write : let m := st 5 (em { r := [(2, 0x80)] })
    ∃ s', m.uWr m.who .g (m.en.rr 2) (leBytes 8 m.ki.status.toNat) ⟨.none, .ctx⟩ 0 = (s', .ok ()) := okWrite (by decide +kernel)

/-- The registers a data-moving word keeps as it starts at register 0. -/
def kept (s : State) (i : Instr) : EWord :=
  { freshWord i with begun := true, regs := [0, 1, 2, 3].foldl (fun m j => mset m j (s.en.rr j)) (mset (mset [] 14 (s.en.rr 14)) 15 (s.en.rr 15)) }
/-- A word of one repeat at register 0. -/
def cw (v : BitVec 17) : EWO := ⟨⟨.none, .ctx⟩, 0, v, 1⟩
/-- Registers for one piece of 256 bytes between scratchpad addresses. -/
def cregs : Map Word := [(1, 0x1000), (2, 0x2000), (3, 0x1000100010001), (14, 0x100), (15, 0x500100)]
/-- A state in which a word of C0 has begun, its piece read or not, its index read or not. -/
def cs (i : Instr) (buf : Option (List Byte)) (idx : Option Word) : State :=
  let s := st 3 (ec { r := cregs })
  let x := kept s i
  st 3 (ec
    { r := cregs, slotOk := true, chan := [(0, List.replicate 256 0)],
      shape := some ⟨0, .int8, 1, .sp, [4, 1, 1, 1, 1], [0, 0, 0, 0]⟩,
      cur := some { x with buf := buf, regs := match idx with | some w => mset x.regs 32 w | none => x.regs } })
theorem wit_copyWords_ready :
    let s := st 3 (ec { r := cregs })
    s.copies ∧ (∀ i ∈ [Instr.cmove (cw 0), .cfill (cw 0), .cgath (cw 0), .cscat (cw 0), .cbox (cw 0), .crecv (cw 0), .csend (cw 0)],
      i.wf = true ∧ (s.ew i).begun = false ∧ ((cs i none none).ew i).begun = true
      ∧ (cctl ((kept s i).c 15)).map (fun t => (t.ssp, t.dsp, t.len)) = some (.sp, .sp, 256))
    ∧ (∀ i ∈ [Instr.cmove (cw 0), .cgath (cw 0)], ((cs i none none).ew i).tags = [] ∧ (cs i none none).poisoned 0 ((cs i none none).ew i).tags = none)
    ∧ (cw 0).n ≠ 0 ∧ (cw 0).os.ord = .none ∧ s.hub.replay = none ∧ s.me.split = none ∧ s.me.banks = [] := by
  refine ⟨.inl rfl, ?_⟩
  decide +kernel
theorem wit_copyWordsMovePieces :
    let z : List Byte := List.replicate 256 0
    let rd (s : State) (a : Word) (n : Nat) : Prop := ∃ s' bs, s.untag.uRd s.who .sp a n = (s', .ok bs)
    let wr (s : State) (a : Word) (bs : List Byte) : Prop := ∃ s', s.uWr s.who .sp a bs ⟨.none, .ctx⟩ 0 = (s', .ok ())
    rd (cs (.cmove (cw 0)) none none) 0 256 ∧ wr (cs (.cmove (cw 0)) (some z) none) 0x1000 z
    ∧ wr (cs (.cfill (cw 0)) none none) 0 z
    ∧ rd (cs (.cgath (cw 0)) none (some 2)) 0x2000 256 ∧ wr (cs (.cgath (cw 0)) (some z) (some 2)) 0x1000 z
    ∧ wr (cs (.cgath (cw 0)) none (some 0xFFFFFFFF)) 0x1000 z
    ∧ rd (cs (.cscat (cw 0)) none (some 2)) 0x1000 256 ∧ wr (cs (.cscat (cw 0)) (some z) (some 2)) 0x2000 z
    ∧ rd (cs (.cbox (cw 0x10000)) none none) 0x2000 1 ∧ wr (cs (.cbox (cw 0)) (some [0]) none) 0x2000 [0]
    ∧ wr (cs (.crecv (cw 0)) (some z) none) 0 z ∧ rd (cs (.csend (cw 0)) none none) 0 256 :=
  ⟨okRead (by decide +kernel), okWrite (by decide +kernel), okWrite (by decide +kernel), okRead (by decide +kernel),
    okWrite (by decide +kernel), okWrite (by decide +kernel), okRead (by decide +kernel), okWrite (by decide +kernel),
    okRead (by decide +kernel), okWrite (by decide +kernel), okWrite (by decide +kernel), okRead (by decide +kernel)⟩
theorem wit_copyWords_conditions :
    let s := cs (.crecv (cw 0)) none none
    let g (w : Word) : EWord := (cs (.cgath (cw 0)) none (some w)).ew (.cgath (cw 0))
    let b := cs (.cbox (cw 0)) none none
    s.en.slotOk = true ∧ 256 ≤ (mget [] s.en.chan 0).length ∧ mfind (g 2).regs 32 = some 2 ∧ mfind (g 0xFFFFFFFF).regs 32 = some 0xFFFFFFFF
    ∧ ((g 2).c 2 + BitVec.ofNat 64 (4 * (g 2).reps)).toNat % 4 = 0
    ∧ (boxOf b.en.shape (b.ew (.cbox (cw 0))) (sextN 16 0)).map (fun x => (x.ub, x.units)) = some (1, 1)
    ∧ ((b.ew (.cbox (cw 0))).c 2).toNat % 1 = 0 ∧ (s.en.rr 0).toNat < 2 ^ 20 ∧ s.chanLoad 0 0 0 0 + 256 ≤ 8192
    ∧ s.engReleased s.who .mod = true ∧ s.me.world = 0 ∧ (cw 0x10000).v.toNat ≥ 2 ^ 16 ∧ (Instr.cshape (cw 0)).wf = true
    ∧ (s.en.rr 0).toNat % 64 = 0 ∧ s.me.recs.find? (fun e => e.1 == (0 : Word) && e.2.1 == (0 : BitVec 10)) = none := by decide +kernel
theorem wit_copyWords_box :
    let s := cs (.cbox (cw 0)) none none
    let o := cs (.cbox (cw 0x10000)) (some [0]) none
    (match boxOf s.en.shape (s.ew (.cbox (cw 0))) (sextN 16 0) with
      | some b => (match boxIn s.untag b 0 0 1 with | (_, .ok _) => true | _ => false) | none => false) = true
    ∧ (match boxOf o.en.shape (o.ew (.cbox (cw 0x10000))) 0 with
      | some b => (match boxOut o b 0 0 [0] ⟨.none, .ctx⟩ with | (_, .ok ()) => true | _ => false) | none => false) = true := by
  decide +kernel
/-- The control word of a reduction of FP32 into FP32: 64 elements. -/
def credRegs : Map Word := [(1, 0x1000), (15, 0x66500100)]
theorem wit_copyWords_cred :
    let i : Instr := .cred (cw 0)
    let s := st 3 (ec { r := credRegs, slotOk := true, chan := [(0, List.replicate 256 0)] })
    let t := st 3 (ec { r := credRegs, slotOk := true, cur := some { kept s i with buf := some (List.replicate 256 0) } })
    i.wf = true ∧ s.en.slotOk = true ∧ 256 ≤ (mget [] s.en.chan 0).length
    ∧ (cctl ((kept s i).c 15)).map (fun c => (c.dsp, c.len, c.fin, c.fout, c.rnd)) = some (.sp, 256, 6, 6, 0)
    ∧ 256 % (Fmt.fp32.bits / 8) = 0 ∧ (t.en.rr 0).toNat % (Fmt.fp32.bits / 8) = 0 := by decide +kernel
/-- The sum of a CRED of zeros is written where it was read. -/
def credBack (t : State) : Bool :=
  let u := t.untag.farDone (whoEng 0 0)
  match u.uWr u.who .sp 0 (List.replicate 256 0) ⟨.none, .ctx⟩ 0 with | (_, .ok ()) => true | _ => false
theorem wit_copyWords_credPieces :
    let i : Instr := .cred (cw 0)
    let s := st 3 (ec { r := credRegs, slotOk := true })
    let t := st 3 (ec { r := credRegs, slotOk := true, cur := some { kept s i with buf := some (List.replicate 256 0) } })
    ∃ t' loc, t.untag.uRd t.who .sp 0 (64 * 4) = (t', .ok loc) ∧ credBack t' = true :=
  okExists (fun t' _ => credBack t' = true) (by decide +kernel)
theorem wit_copyWords_shape :
    let s := st 3 (ec {})
    ∃ s' bs, s.untag.uRd s.who .g 0 64 = (s', .ok bs) ∧ s'.hub.replay = none ∧ s'.cur = s.cur :=
  okExists (fun s' _ => s'.hub.replay = none ∧ s'.cur = (st 3 (ec {})).cur) (by decide +kernel)
theorem wit_copyWords_record :
    (shapeOf (leBytes 8 0x1000 ++ leBytes 4 0x100 ++ leBytes 20 (4 + 2 ^ 32 + 2 ^ 64 + 2 ^ 96 + 2 ^ 128) ++ leBytes 32 0)).isSome = true := by
  decide +kernel
theorem wit_copyWords_cached : let r : ShapeRec := ⟨0, .int8, 1, .sp, [4, 1, 1, 1, 1], [0, 0, 0, 0]⟩
    let s := st 3 { ec {} with recs := [(0, 0, r)] }
    s.me.recs.find? (fun e => e.1 == (0 : Word) && e.2.1 == s.me.world) = some (0, 0, r) := by decide +kernel

/-- A state in which the M stream issues on a kiln in a state of its own. -/
def ms (e : Eng) (k : Kiln) : State := { st 5 (em e) with kilns := [(0, k)] }
/-- Registers of a bank of one row and one column. -/
def kregs : Map Word := [(0, 0x1000), (1, 4), (14, 0x100000001), (15, 0x10001)]
theorem wit_kilnBanksAccumulate :
    let s := ms { r := kregs } {}
    let z := ms { r := kregs, cur := some (going (.kzero 1)) } {}
    let lw : EWO := ⟨⟨.none, .ctx⟩, 0, 1, 1⟩
    let w (n : BitVec 16) : EW := ⟨0, 1, n⟩
    let ch : Chunk := { rows := [[(1, 127)], [(2, 127)]] }
    let b (d : Nat) : Bank := { st := 1, depth := d, shape := 0x10001, kind := some true }
    let o (d : Nat) : State := ms { r := kregs } { b0 := b d }
    let g (n : BitVec 16) : State := ms { r := kregs, cur := some { going (.kmma (w n)) with regs := [(4, 0)], chk := 1 } } { b0 := b 0, tf := [ch] }
    let b0 (s : State) : Bank := s.ki.bank s.ki.ptr
    s.mIssues ∧ ((b0 s).st = 0 ∧ s.ki.opens < 8 ∧ 1 ≤ (s.en.rr 15).toNat % 2 ^ 16 ∧ (s.en.rr 15).toNat % 2 ^ 16 ≤ 384
      ∧ 1 ≤ (s.en.rr 15).toNat / 2 ^ 16 % 2 ^ 16 ∧ (s.en.rr 15).toNat / 2 ^ 16 % 2 ^ 16 ≤ 1536 ∧ (s.en.rr 14).toNat % 2 ^ 32 ≠ 0
      ∧ (s.en.rr 14).toNat / 2 ^ 32 ≠ 0 ∧ (s.en.rr 15).toNat / 2 ^ 40 = 0)
    ∧ (s.ew (.kzero 1)).begun = false ∧ (z.ew (.kzero 1)).begun = true ∧ (b0 (o 0)).st = 1
    ∧ (Instr.kldc lw).wf = true ∧ (s.en.rr 0).toNat % 4 = 0 ∧ (s.en.rr 1).toNat % 4 = 0
    ∧ ((ms { r := kregs, cur := some (going (.kldc lw)) } {}).ew (.kldc lw)).begun = true
    ∧ (Instr.kmma (w 1)).wf = true ∧ ((o 0).ew (.kmma (w 1))).begun = false ∧ (b0 (o 32767)).depth + 1 ≤ 32768
    ∧ 32768 < (b0 (o 32768)).depth + 1 ∧ (b0 s).st ≠ 1 ∧ ((g 1).ew (.kmma (w 1))).begun = true ∧ ((g 0).ew (.kmma (w 0))).chk = 1
    ∧ (g 1).ki.tf = ch :: [] ∧ (b0 (g 1)).n ≤ 1536 ∧ 0 < (b0 (g 1)).m ∧ 0 < (b0 (g 1)).n ∧ ((g 1).ew (.kmma (w 1))).fa ≤ 1
    ∧ ((g 2).ew (.kmma (w 2))).reps + 1 < 2 ∧ 1 ≤ ((g 1).ew (.kmma (w 1))).reps + 1
    ∧ (Instr.kdrain (w 1)).wf = true ∧ ((o 0).ki.bank (1 - (o 0).ki.ptr)).st ≠ 2 ∧ (o 0).me.flights = []
    ∧ flueProg [0x70000000] = some [0x70000000] ∧ flueProg (mget [] s.ki.slots 1) = none
    ∧ ((ms {} { b0 := b 0, b1 := { st := 2 } }).ki.bank 1).st = 2 := by
  refine ⟨rfl, ?_⟩
  decide +kernel
/-- A state in which a KLDC of one row has begun. -/
def ld : State := ms { r := kregs, cur := some (going (.kldc ⟨⟨.none, .ctx⟩, 0, 1, 1⟩)) } {}
theorem wit_kiln_load : let s := ld
    s.drainAhead s.kn (s.en.rr 0 + s.en.rr 1 * BitVec.ofNat 64 0).toNat (4 * 1) = false ∧
    ∃ s' bs, s.untag.uRd s.who .g (s.en.rr 0 + s.en.rr 1 * BitVec.ofNat 64 0) (4 * 1) = (s', .ok bs) ∧ s'.cur = s.cur ∧ s'.kilns = s.kilns
      ∧ s'.en = s.en :=
  ⟨by decide +kernel, okExists (fun s' _ => s'.cur = ld.cur ∧ s'.kilns = ld.kilns ∧ s'.en = ld.en) (by decide +kernel)⟩

/-- A drain of a bank of one row of two columns. -/
def dr (d : Word) (side : List Word) : Drain :=
  { bank := 0, w := .kdrain ⟨0, 0, 1⟩, slot := 0, prog := [0], mask := 0, d := d, stride := 0, side := side, row := 0, pc := 1, cnt := none,
    bdone := true, acc := 0, kpc := 0, issue := 0 }
/-- A state in which the flue executes an instruction of it, e0 holding some register. -/
def fs (x : FReg) (d : Drain) : State :=
  { st 6 (em {}) with kilns := [(0, { holder := some 0, b0 := { st := 2, shape := 0x20001 }, reg := [(0, x)], drain := some d })] }
theorem wit_flueColumnsCompute :
    let s := fs {} (dr 0 [])
    let n := fs { vals := [(0, 0x7FC00000)] } (dr 0 [])
    s.cur.src = 6 ∧ s.fd = some (dr 0 []) ∧ s.fcols = 2 ∧ (Instr.fadd ⟨7, 0, 15⟩).wf = true ∧ (Instr.ffma ⟨7, 0, 8, 15⟩).wf = true
    ∧ (Instr.fscale ⟨0, 1, 2, 3⟩ 0x80).wf = true ∧ (Instr.fact ⟨0, 1, 0⟩ 5).wf = true ∧ (Instr.fact ⟨0, 1, 2⟩ 6).wf = true
    ∧ (Instr.fstat 12 0 3).wf = true ∧ (∃ c ∈ (List.range n.fcols).map (n.fk.fsrc 0), fvIsNan (valOf .fp32 c) = true)
    ∧ ¬ (∃ c ∈ (List.range s.fcols).map (s.fk.fsrc 0), fvIsNan (valOf .fp32 c) = true)
    ∧ (List.range s.fcols).map (s.fk.fsrc 0) = 0 :: [0] ∧ ¬ ((dr 0 []).row + 1 < (s.fk.bank 0).m) ∧ (s.fk.bank 0).m ≤ (dr 0 []).row + 1
    ∧ 0 + 1 < ({ st := 2, shape := 0x20002 } : Bank).m := by decide +kernel
theorem wit_flueMovesRows :
    let s := fs {} (dr 0x100 [0x200, 0x201])
    s.cur.src = 6 ∧ s.fd = some (dr 0x100 [0x200, 0x201]) ∧ (Instr.fld 0 6 1).wf = true ∧ (Instr.fld 0 6 0).wf = true
    ∧ (nthW [0x200, 0x201] 1 + (0 : Word) * 0).toNat % (Fmt.fp32.bits / 8) ≠ 0 ∧ (nthW [0x200, 0x201] 0 + (0 : Word) * 0).toNat % (Fmt.fp32.bits / 8) = 0
    ∧ (Instr.fq 0 1 0 9).wf = true ∧ (rndOf 0).getD .rne ≠ .sr ∧ (Instr.fst 0 0 0 0 6).wf = true ∧ (Instr.fst 0 1 1 0 6).wf = true
    ∧ (Instr.fst 12 2 0 0 6).wf = true ∧ (Instr.fst 0 0 0 0 9).wf = true := by decide +kernel
theorem wit_flue_loads :
    let s := fs {} (dr 0x100 [0x200])
    ∃ s' bs, s.untag.uRd (whoFlue 0 0) .g 0x200 (2 * 32 / 8) = (s', .ok bs) ∧ s'.cur = s.cur ∧ s'.kilns = s.kilns :=
  okExists (fun s' _ => s'.cur = (fs {} (dr 0x100 [0x200])).cur ∧ s'.kilns = (fs {} (dr 0x100 [0x200])).kilns) (by decide +kernel)
theorem wit_flue_stores :
    let s := fs {} (dr 0x100 [0x200])
    ∃ s', s.uWr (whoFlue 0 0) .g 0x100 (packElems 32 [0, 0]) ⟨.none, .ctx⟩ 0 = (s', .ok ()) := okWrite (by decide +kernel)
theorem wit_flue_blockStores :
    let q := fs { q := some .e4m3 } (dr 0x100 [0x200])
    let w := whoFlue 0 0
    (match q.uWr w .g 0x100 (packElems 8 [0, 0]) ⟨.none, .ctx⟩ 0 with
      | (s', .ok ()) => (match s'.uWr w .g 0x200 [127] ⟨.none, .ctx⟩ 0 with | (_, .ok ()) => true | _ => false)
      | _ => false) = true := by decide +kernel

/-! Memory management, holds, accesses at their homes and the units -/

/-- Page tables of world 0 that map the lowest 64 MiB onto themselves. -/
def tables : Mem := [(0, 1), (1, 8), (0x2000, 1), (0x2001, 0x10), (0x4000, 0x5F)]
/-- What the tables map. -/
def low64 : TlbEnt := { world := 0, va := 0, size := 0x4000000, pa := 0, r := true, w := true, x := true }
/-- An L or S parcel with one syllable of its MC slot. -/
def mcParcel (syl : Nat) : BitVec 1024 := BitVec.ofNat 1024 syl
/-- A K parcel with a syllable of its first VC slot. -/
def vcParcel (syl : Nat) : BitVec 1024 := BitVec.ofNat 1024 (syl * 2 ^ 56)
/-- An event at a core. -/
def ev (c : BitVec 9) (n : Nat) (k : Core) : State := { State.reset with cores := [(c.toNat, k)], inp := { core := c, idx := n } }

theorem wit_holdsFreezeACore_translation :
    let k : Core := { core [] with miss := [(0, 0x50008), (1, 0x50000), (0, 0x60010)] }
    let s := { ev 0 0 k with ltlb := [(0, [low])] }
    let e := { ev 0 0 { core [] with hold := some ⟨.tlb, 0⟩, miss := [(0, 0x50008)] } with mem := tables }
    k.issues = true ∧ k.miss ≠ [] ∧ (k.miss.map (·.2 / 65536)).eraseDups = [5, 6]
    ∧ (∀ p ∈ [5, 6], (tlbFind (mget [] s.ltlb (dieOf 0)) k.world.toNat (65536 * p)).isSome = true)
    ∧ (e.core 0).flights = [] ∧ tlbFind (mget [] e.ltlb (dieOf 0)) 0 0x50008 = none ∧ e.walk 0 0x50008 = .leaf low64
    ∧ 0 < low64.size := by decide +kernel
theorem wit_holdsFreezeACore_issue :
    let lds : Nat := 0x07142000800008
    let k : Core := { core [(2, 0)] with icache := [(32, mcParcel lds)], banks := [(1, 0)] }
    let k := { k with cl := { k.cl with pc := 0x1000 } }
    let s := ev 0 0 k
    let g := ev 0 0 { k with banks := [], split := some (0, 7), gran := 28 }
    let v := ev 0 1 { core [] with
      ck := { pc := 0x1000, st := .running }, icache := [(32, vcParcel 0x04080414006000)], scyc := 32 }
    let free (k : Core) : Prop := k.runs = true ∧ k.hold = none ∧ (k.stop = none ∨ k.hmode = true)
    (s.nextSyls 0 0).2 = [(0, .scNop), (1, .ldd ⟨5, ⟨2, 0, .none, .ctx, .sp, 8⟩⟩)]
    ∧ free ((s.nextSyls 0 0).1.core 0) ∧ ((s.nextSyls 0 0).1.core 0).sylBanks 0 0 (.ldd ⟨5, ⟨2, 0, .none, .ctx, .sp, 8⟩⟩) = [0]
    ∧ ((g.nextSyls 0 0).1.core 0).spUse 0 0 (.ldd ⟨5, ⟨2, 0, .none, .ctx, .sp, 8⟩⟩) = some 8
    ∧ (.ldd ⟨5, ⟨2, 0, .none, .ctx, .sp, 8⟩⟩ : Instr).accSize (g.core 0).sys.vsh = 8 ∧ 131072 * 0 < 8 + 8 ∧ 8 + 8 ≤ 131072 * 28
    ∧ free ((v.nextSyls 0 1).1.core 0) ∧ (∃ e ∈ (v.nextSyls 0 1).2, ∃ r ∈ e.2.vSrc,
      (v.core 0).scyc.toNat % 256 % 32 = 0 ∧ (v.core 0).vphys r % 8 = (v.core 0).scyc.toNat % 256 / 32)
    ∧ (v.core 0).refr = false ∧ (v.core 0).hmode = false := by decide +kernel
theorem wit_holdsFreezeACore_ends :
    ({ core [] with split := some (0, 0) } : Core).starting = false ∧ ({ sweep := 1 } : Core).sweep = 1
    ∧ ({ l1gen := 0x80 } : Core).l1gen.getLsbD 7 = true := by decide

/-- A load of the L context from local HBM in a phase of its own. -/
def ldOp (ph : Phase) : Flight := { op (st 0 (core [])) (.ldd ⟨1, ⟨2, 0, .none, .ctx, .g, 0⟩⟩) with phase := ph, ea := 0x100, pa := 0x100 }
/-- A write of one byte on its way. -/
def w1 (kind core addr : Nat) : PWrite := ⟨0, 0, kind, core, addr, addr, [7], none, 0, 0, 0, false, ⟨.none, .ctx⟩, 0, 0, [], [], 0, false, none, 5⟩
theorem wit_accessesReachTheirHomes_replies :
    let s (f : Flight) := ev 0 f.id { core [] with flights := [f] }
    let nb := { ldOp .served with space := .nb, gen := 3 }
    let sealed : State := { ev 0 0 { core [] with flights := [{ ldOp .served with gen := 1 }], job := some { job .step with world := 9 } } with
      hub := { State.reset.hub with worlds := [(9, { st := 2 })] } }
    ((s (ldOp .served)).core 0).flight (ldOp .served).id = some (ldOp .served) ∧ (ldOp .served).space ≠ .nb ∧ (ldOp .served).gen = 0
    ∧ nb.space = .nb ∧ ((s nb).core (nbTarget 0 nb.ea).1).observed nb.gen = true ∧ ((s nb).core (nbTarget 0 nb.ea).1).bound nb.gen = true
    ∧ (op (st 0 (core [])) (.estat 1 0)).i = .estat 1 0 ∧ (op (st 0 (core [])) (.icinv 1 .sys)).i = .icinv 1 .sys
    ∧ (op (st 0 (core [])) (.iclock ⟨1, 2, 3⟩)).i = .iclock ⟨1, 2, 3⟩ ∧ ([(32, 4), (64, 2)].flatMap (fun e => (List.range e.2).map (e.1 + ·))).Nodup
    ∧ (sealed.core 0).world ≠ 0 ∧ (sealed.world (sealed.core 0).world.toNat).genLive (1 - 1) = false := by decide +kernel
theorem wit_accessesReachTheirHomes_read :
    let f := ldOp .sent
    let s := ev 0 f.id { core [] with flights := [f] }
    let k := s.core 0
    f.i.load.isSome = true ∧ f.space = .g ∧ f.os.ord = .none ∧ k.readReady f = true ∧ f.pa < 2 ^ 40 ∧ f.ea.toNat % 8 = 0 ∧ f.pa % 8 = 0
    ∧ k.world = 0 ∧ k.wq = [] ∧ k.cntcfg.getLsbD 8 = false ∧ s.homeCheck 1 0 0 f.pa 8 false = (s, true)
    ∧ s.readWaits (dieOf 0) f.pa 8 = false := by decide +kernel
theorem wit_accessesReachTheirHomes_write :
    let s (w : PWrite) := ev 0 0 { core [] with wq := [w] }
    let gone := ev 0 0 { core [] with wq := [] }
    let two : State := { s (w1 1 1 0) with cores := [(0, { core [] with wq := [w1 1 1 0] }), (1, core [])] }
    (w1 0 0 0x100).after = [] ∧ (∀ w ∈ [w1 0 0 0x100, w1 0 0 (2 ^ 40 - 1), w1 1 1 0, w1 2 1 3], (s w).applyReady 0 w = true ∧ (s w).fincsGone 0 w.stream = true) ∧ (w1 0 0 0x100).data ≠ [] ∧ (w1 0 0 (2 ^ 40 - 1)).addr + 1 ≤ 2 ^ 40
    ∧ gone.homeCheck ((w1 0 0 (2 ^ 40 - 1)).req 0).1 ((w1 0 0 (2 ^ 40 - 1)).req 0).2 0 (2 ^ 40 - 1) 1 true = (gone, true)
    ∧ (w1 1 1 0).core ≠ 0 ∧ (two.core 1).runsIn 0 = true ∧ 0 + 1 ≤ 131072 * (two.core 1).gran ∧ (two.core 1).split = none
    ∧ (two.core 1).banks = [] ∧ (w1 2 1 3).kind = 2 := by decide +kernel
theorem wit_accessesReachTheirHomes_finc :
    let h : Hub := { State.reset.hub with fincs := [⟨4, 0, 3, 7, 0, 0, [], 2⟩, ⟨4, 9, 3, 7, 0, 0, [], 2⟩] }
    let s : State := { ev 0 0 (core []) with hub := h }
    s.hub.fincs[0]? = some ⟨4, 0, 3, 7, 0, 0, [], 2⟩ ∧ (s.core 0).runsIn 0 = true ∧ s.hub.fincs[1]? = some ⟨4, 9, 3, 7, 0, 0, [], 2⟩
    ∧ (s.core 9).runsIn 0 = false ∧ s.clkMet (dieOf 0) [] = true ∧ s.clkMet (dieOf 9) [] = true := by decide +kernel

/-- A state in which a core of a kind of job asks the hub. -/
def asks (kind : JobKind) (i : Instr) (a b : Word) (u : UQueue) : State :=
  let f := op (st 0 (core [])) i
  { ev 0 0 { core [] with job := some (job kind), flights := [f] } with
    hub := { State.reset.hub with reqs := [⟨0, 0, f.id, some kind, i, a, b, 0, 3, false⟩], queues := [(3, u)] } }
/-- An OPB in flight of queue 3 with one step of one core. -/
def blk : Opb :=
  { q := 3, index := 0, addr := 0x8000, world := 0, prio := 0, flags := 0, ndim := 1, ext := [1], n := 1, cps := 1, place := 0, mask := 0,
    l1g := 0, wdog := 20, image := 0x10000, inter := false, progress := 0x9000, args := [], waits := [], sat := [], retry := [], cdone := 0,
    cinc := 0, groups := [], sgdesc := 0, next := 0, claimed := [], running := [], done := 0, finish := [], bad := [], failed := 0,
    stopCl := false, tour := none, starts := [], page := none }
/-- A sample group whose sibling `i` is open. -/
def grp1 (i : Nat) : SGrp :=
  { grp := 0, slot := 0, parents := [], opb := 0, step := 0, n := 4, minrew := 1, out := 0, deadline := 100, eps := 0, seed := 0, tmpl := 0,
    prio := 0, world := 0, sibs := [(i, { running := true, cores := [1] })], run := 100, st := 0, status := 0, nwait := [], waited := false }
/-- A tournament with one rival. -/
def tour1 : Tour := ⟨0, 4, 0, 64, 0, 0, [(1, { start := 0, grow := 0, grp := 0, cores := [0] })], false, false, false⟩
/-- A state in which the hub has a core's request, with more in memory and in the hub. -/
def asksIn (kind : JobKind) (i : Instr) (a : Word) (m : Mem) (g : Hub → Hub) : State :=
  let s := asks kind i a 0 {}
  { s with mem := m, hub := g s.hub }
theorem wit_hubAnswersRequests_launch :
    let la (a b : Word) (u : UQueue) := asks .step (.launch ⟨1, 2, 3⟩) a b u
    let d : QDesc := { log := 6, base := 0x7000 }
    let on : UQueue := { en := true, d := d, slot := some 0 }
    let h (w : BitVec 32) : State := let s := la 3 256 on; { s with mem := tables, hub := { s.hub with hslots := [(0, { q := 3, widx := w, ridx := 0, cidx := 0, since := 0, idle := none })] } }
    let s := la 3 255 on
    (s.hub.reqs[s.inp.idx]?.isSome = true ∧ (∀ q ∈ s.hub.reqs.take s.inp.idx, ¬ (q.core = 0 ∧ q.ctx = 0)))
    ∧ (s.core 0).observed (op (st 0 (core [])) (.launch ⟨1, 2, 3⟩)).id = true ∧ (s.core 0).draining 0 = false ∧ s.seenAll 0 = true ∧ s.hub.fincs = []
    ∧ ((la 3 0 {}).uq 3).en = false ∧ 4096 ≤ (4096 : Word).toNat ∧ (s.uq 3).en = true
    ∧ ((la 3 0 { on with d := { world := 5 } }).uq 3).d.world.toNat ≠ 0 ∧ (s.uq 3).d.world.toNat = 0 ∧ (255 : Word).toNat % 256 ≠ 0
    ∧ (256 : Word).toNat % 256 = 0 ∧ (la 3 256 on).hubWritable 0 0x7000 8 = false
    ∧ (h 64).hubWritable 0 (0x7000 + 8 * (((h 64).qIdx 3).1.toNat % 64)) 8 = true ∧ 2 ^ 6 < (((h 64).qIdx 3).1 + 1 - ((h 64).qIdx 3).2.1).toNat
    ∧ (h 5).hubWritable 0 (0x7000 + 8 * (((h 5).qIdx 3).1.toNat % 64)) 8 = true ∧ (((h 5).qIdx 3).1 + 1 - ((h 5).qIdx 3).2.1).toNat ≤ 2 ^ 6
    ∧ ((h 5).qIdx 3).1 - ((h 5).qIdx 3).2.1 ≠ BitVec.allOnes 32 ∧ ((h 5).uq 3).slot = some 0
    ∧ (match (h 5).trHub 0 0x7028 { w := true } with | .ok pa => pa == 0x7028 | _ => false) = true
    ∧ (h 5).rangesHit 0x7028 8 = [] ∧ (h 5).qdAddr 3 + 32 ≤ 0x7028 := by
  decide +kernel
theorem wit_hubAnswersRequests_fork :
    let f (kind : JobKind) (flags : Nat) (a : Word) (q : Map SGrp) (e : Map Grp) : State :=
      asksIn kind (.fork 1 1 2) a (wrB tables 0x7006 4) (fun h => { h with
        opbs := [(0, { blk with flags := flags, sgdesc := 0x7000 })], sgrps := q, groups := e })
    let s := f .step 4 4 [] []
    s.hub.reqs[0]?.isSome = true ∧ (s.core 0).observed (op (st 0 (core [])) (.fork 1 1 2)).id = true ∧ (s.core 0).draining 0 = false
    ∧ s.seenAll 0 = true ∧ s.hub.fincs = []
    ∧ (s.core 0).job = some (job .step) ∧ (s.opb 0).map (fun o => tbit o.flags 2) = some true
    ∧ ((f (.sibling 1 2) 4 4 [] []).core 0).kind = some (.sibling 1 2) ∧ (((f .step 0 4 [] []).opb 0).map (fun o => tbit o.flags 2)) = some false
    ∧ (s.hubRd 0 0x7000 64).map (fun d => leNat ((d.drop 6).take 1)) = some 4 ∧ (0 : Word).toNat = 0 ∧ 4 < (5 : Word).toNat
    ∧ 1 ≤ (4 : Word).toNat ∧ (4 : Word).toNat ≤ 4 ∧ (s.core 0).grpAt 0 ≠ none ∧ (s.core 0).grpAt 1 = none ∧ s.hub.saved = []
    ∧ (∀ n < 64, mfind (f .step 4 4 ((List.range 64).map (fun n => (n, grp1 n))) []).hub.sgrps n ≠ none)
    ∧ (∃ n < 64, mfind s.hub.sgrps n = none) ∧ (∀ n < 256, mfind (f .step 4 4 [] ((List.range 256).map (fun n => (n, {})))).hub.groups n ≠ none)
    ∧ (∃ n < 256, mfind s.hub.groups n = none) := by decide +kernel
theorem wit_hubAnswersRequests_groups :
    let g (kind : JobKind) (i : Instr) (a : Word) (q : SGrp) : State := asksIn kind i a [] (fun h => { h with
      sgrps := [(1, q)], groups := [(0, { kind := 3, obj := 1 })] })
    let sib := JobKind.sibling 1 2
    let open' : SGrp := { grp1 2 with n := 3 }
    let past : SGrp := { grp1 2 with n := 1, sibs := [(0, { st := 1 })] }
    let c (a : Word) (q : SGrp) := g .step (.sgcancel 1 0 2) a q
    let ones : Nat := 2 ^ 64 - 1
    (g sib (.sreward ⟨1, 2⟩) 5 open').hub.reqs[0]?.isSome = true ∧ (g sib (.sreward ⟨1, 2⟩) 5 open').sibQuiet 1 2 = true
    ∧ (g sib (.sreward ⟨1, 2⟩) 5 open').sg 1 = some open' ∧ (open'.sib 2).st = 0
    ∧ (((c 0 open').core 0).grpAt 0).bind (c 0 open').sgAt = some (1, open') ∧ (((c 0 open').core 0).grpAt 1).bind (c 0 open').sgAt = none
    ∧ (3 : Word).toNat ≠ ones ∧ open'.n ≤ (3 : Word).toNat ∧ (2 : Word).toNat < open'.n ∧ (c 2 open').rewHeld 1 2 = false
    ∧ (0 : Word).toNat < past.n ∧ (past.sib 0).st ≠ 0 ∧ (BitVec.allOnes 64).toNat = ones ∧ (∀ i < past.n, (past.sib i).st ≠ 0)
    ∧ (∃ i < open'.n, (open'.sib i).st = 0 ∧ (c 2 open').rewHeld 1 i = false) ∧ ((c 0 open').core 0).kind = some .step
    ∧ open'.deadline ≠ 0 ∧ { open' with deadline := 0 }.deadline = 0 := by decide +kernel
theorem wit_hubAnswersRequests_rivals :
    let s : State := let s := asksIn (.rival 2 1) (.tgrow ⟨1, 2⟩) 0x2000 [] (fun h => { h with tours := [(2, tour1)] })
      s.modCore 0 (fun k => { k with tlb := [low] })
    s.hub.reqs[0]?.map (·.kind) = some (some (.rival 2 1)) ∧ s.tour 2 = some tour1 ∧ (tour1.riv 1).isSome = true ∧ (s.core 0).kind = some (.rival 2 1)
    ∧ ((s.core 0).flight (op (st 0 (core [])) (.tgrow ⟨1, 2⟩)).id).map (·.id) = some (op (st 0 (core [])) (.tgrow ⟨1, 2⟩)).id
    ∧ (s.core 0).world = 0 ∧ (0x2000 : Word).toNat < 2 ^ 56
    ∧ (match s.trL1 0 0x2000 { w := true } with | .ok pa => pa == 0x2000 | _ => false) = true ∧ paKind s.hub.accid 0x2000 = .hbm
    ∧ 0x2000 + 64 ≤ 2 ^ 40 ∧ s.owns 0 0x2000 64 = true ∧ s.rangesHit 0x2000 64 = []
    ∧ ((asks .step (.tscore ⟨1, 2⟩) 0 0 {}).core 0).kind = some .step := by decide +kernel


/-- A port of INT8 tiles of 512 elements in the scratchpad. -/
def tp (wr : Bool) (tiles : List Tile) (moved : Nat) (e : Bool) : Port :=
  ⟨0, wr, ⟨.none, .ctx⟩, 0, .g, 0, 0, some ⟨0, .sp, .int8, 2, 1, 512, [512, 4], [512]⟩, tiles, [], moved, 0, 0, e, false, [], []⟩
def pcore (p : Port) : Core := { core [] with ports := [(1, p)] }
theorem wit_unitsMoveTheirData_ports :
    let r := tp false [7] 1 false
    let w := tp true [7, 8] 1 false
    let pt : Pattern := ⟨0, .sp, .int8, 2, 1, 512, [512, 4], [512]⟩
    r.pat = some pt ∧ w.pat = some pt ∧ r.wait = false ∧ (pcore r).portReady r = true ∧ (pcore w).portReady w = true ∧ (pcore r).stop = none
    ∧ (pcore r).hmode = false ∧ r.moved < pt.tiles ∧ r.tiles.length < 4 ∧ r.part = [] ∧ pt.tileLen = 512 ∧ 512 % pt.ub = 0
    ∧ pt.runs (1 * pt.tileUnits) (512 / pt.ub) = [(some 512, 512)]
    ∧ r.bumps = false ∧ { r with os := ⟨.acq, .sys⟩ }.bumps = true ∧ (pcore r).bumpWaits = false
    ∧ (match (ev 0 1 (pcore r)).untag.uRd (whoPort 0 1 r) .sp 512 512 with
      | (t, .ok bs) => bs.length == 512 && mfind (t.core 0).ports 1 == some r | _ => false) = true
    ∧ w.tiles = 7 :: [8] ∧ w.endReq = false
    ∧ (match (ev 0 1 (pcore w)).uWr (whoPort 0 1 w) .sp 512 (leBytes 512 7) w.os w.pol with
      | (t, .ok ()) => mfind (t.core 0).ports 1 == some w | _ => false) = true
    ∧ w.snap = [] ∧ { w with snap := [(600, 0)] }.snap ≠ []
    ∧ (match ({ w with snap := [(600, 0)] }.left (ev 0 1 (pcore w)) 0 .sp 512 512).foldl (fun (q : State × Except UErr Unit) (r : Word × Nat × Nat) => match q with
        | (s, .ok ()) => s.uWr (whoPort 0 1 w) .sp r.1 (((leBytes 512 7).drop r.2.1).take r.2.2) w.os w.pol
        | e => e) (ev 0 1 (pcore w), .ok ()) with
      | (t, .ok ()) => mfind (t.core 0).ports 1 == some w | _ => false) = true
    ∧ (tp true [] 4 true).tiles = [] ∧ (tp true [] 4 true).endReq = true ∧ 4 ≤ (tp false [1, 2, 3, 4] 4 false).tiles.length := by
  decide +kernel
theorem wit_unitsMoveTheirData_leases :
    let s (d : Bool) : State := { State.reset with kilns := [(127, { req := [(3, 1)], clearDue := d })], inp := { idx := 127 } }
    ((s false).kiln 127).holder = none ∧ ((s false).kiln 127).req = [(3, 0 + 1)] ∧ ((s false).core (4 * 127 + 3)).preempt = none ∧ (s false).clearNeeded 127 511 = false ∧ 4 * 127 + 3 < 512
    ∧ ((s true).kiln 127).gwait = 0 ∧ (s true).leaseNext 127 = some 511 ∧ (s true).clearNeeded 127 511 = true := by decide +kernel
theorem wit_unitsMoveTheirData_chunks :
    let w : EW := ⟨0, 1, 1⟩
    let x : EWord := { freshWord (.kmma w) with begun := true }
    let b : Bank := { st := 1, shape := 0x10001, stride := 0x100000001 }
    let s : State := { ev 0 0 (em { cur := some x, st := .running }) with kilns := [(0, { b0 := b })] }
    let x' : EWord := { x with regs := mset (mset x.regs 2 (BitVec.ofNat 64 0)) 3 (BitVec.ofNat 64 0) }
    let k := s.core 0
    let start : State := { s with cur := { core := 0, src := 5, pc := k.em.pc } }.setCore 0 { k with em := { k.em with cur := some x' } }
    k.em.cur = some x ∧ x.chk = 0 ∧ x.begun = true ∧ k.stop = none ∧ x.chk ≤ x.reps / 128 + 2 ∧ 128 * x.chk < w.n.toNat
    ∧ kpairOk 0 0 = true
    ∧ 0 % kunit 0 = 0 ∧ (b.stride.toNat % 2 ^ 32) % kunit 0 = 0 ∧ b.kind ≠ some (!pairInt 0) ∧ b.n ≤ pairMax 0
    ∧ (match start.chunkRows (whoM 0) x' b 0 (min 128 1) false false 1921 with
      | (t, .ok ()) => t.cur == start.cur && (t.core 0).em.cur == some x' | _ => false) = true := by decide +kernel
theorem wit_unitsMoveTheirData_rest :
    let d : Drain := { dr 0 [] with pc := 0 }
    let u : LinkUnit := ⟨1, 0, 0, 0, 1, 7, 0, false, 0, 256, true, List.replicate 256 0, 0, 0, [], 0, 3⟩
    let s : State := { ev 0 0 (core []) with hub := { State.reset.hub with units := [u] } }
    let l (w : Instr) : Core := { core [] with e1 := { cur := some (going w) } }
    d.bdone = true ∧ d.row < ({ st := 2, shape := 0x20001 } : Bank).m ∧ ({ st := 2, shape := 0x20001 } : Bank).m ≤ 1
    ∧ s.hub.units[0]? = some u ∧ s.inp.accel = s.hub.accid ∧ u.accel = s.hub.accid ∧ (∀ v ∈ s.hub.units.take 0, v.chan ≠ u.chan) ∧ s.clkMet (dieOf u.core) u.clk = true ∧ (s.core u.src).wq = []
    ∧ (s.core 0).runsIn 0 = true ∧ (mget [] ((s.core 0).eng 1).chan 7).length + 256 ≤ 8192 ∧ mget 0 ((s.core 0).eng 1).chFrom 7 = 0
    ∧ (∀ w ∈ [Instr.csend (cw 0), .crecv (cw 0), .cred (cw 0)], ((l w).eng 1).cur = some (going w) ∧ (going w).begun = true
      ∧ ((l w).eng 1).slotOk = false ∧ ((going w).c 2).toNat ≤ s.hub.podTime.toNat) := by decide +kernel

/-! Stops, watchdogs and pre-emption -/

/-- A stop of some cause whose image is written or not. -/
def stp (cause detail : Nat) (written : Bool) : Stop := ⟨⟨cause, 1, 0, detail, 0, 0, false⟩, written, {}, 0, 0, [], []⟩
theorem wit_stopsAreTakenCapturedAndLeft :
    let r : Raise := ⟨4, 0, 0, 0, 0x1000, 0xFFFF, false⟩
    let q : Raise := ⟨6, 0, 0, 0, 0x1000, 0xFFFF, true⟩
    let k : Core := { core [] with raises := [q, r] }
    let h : Core := { core [] with hmode := true, stop := some (stp 4 0 true) }
    let p : Core := { core [] with stop := some (stp 4 0 false) }
    let u : State := { ev 0 0 (core []) with hub := { State.reset.hub with opbs := [(0, blk)] } }
    let f : Flight := { ldOp .sent with pa := 2 ^ 55 }
    let f' : Flight := { ldOp .sent with pa := 3 * 2 ^ 54 }
    let a : State := { ev 0 0 { core [] with flights := [f] } with hub := { State.reset.hub with podTime := 2000000 } }
    r ∈ k.raises ∧ k.runs = true ∧ k.hold = none ∧ r.late = false ∧ (∀ e ∈ k.raises, e ≠ r → e.late = r.late → Raise.key r < Raise.key e)
    ∧ (let a : Raise := ⟨1, 2, 4, 0, 0, 0xFFFF, false⟩; let b : Raise := ⟨1, 0, 4, 1, 0, 0xFFFF, false⟩
      a.hit = true ∧ b.hit = true ∧ a.cause = b.cause ∧ a.detail < b.detail) ∧ (∀ e ∈ [q], e.late = true) ∧ k.hmode = false ∧ k.stop = none ∧ { k with hmode := true }.hmode = true
    ∧ p.stop = some (stp 4 0 false) ∧ (stp 4 0 false).written = false ∧ p.flights = [] ∧ p.far = [] ∧ p.wq = [] ∧ p.va = [] ∧ p.vb = [] ∧ p.lease = false
    ∧ p.e0.cur = none ∧ p.e1.cur = none ∧ p.em.cur = none ∧ p.sys.tvec = 0 ∧ p.attached = false
    ∧ { core [] with attached := true, sys := { tvec := 0x2000 } }.attached = true
    ∧ (∀ n ∈ [14, 15, 1, 2, 7], (stp n 0 false).r.cause = n)
    ∧ (st 1 h).cur.src = 1 ∧ h.hmode = true ∧ h.bayOk = false ∧ h.lease = false ∧ h.flights = []
    ∧ { h with bay := [(0, 0x50), (1, 0x4C), (2, 0x45), (3, 0x49)] }.bayN 6 2 = 0
    ∧ (core []).job = some (job .step) ∧ u.opb 0 = some blk ∧ u.parentOf 0 = [] ∧ ({} : Core).job = none
    ∧ (a.core 0).flight f.id = some f ∧ f.phase = .sent ∧ isRead f.i = true ∧ f.pa / 2 ^ 54 = 2 ∧ f'.pa / 2 ^ 54 = 3
    ∧ f.sentAt + 2000000 ≤ a.hub.podTime.toNat := by decide +kernel
theorem wit_stopsAreTakenCapturedAndLeft_bay :
    let k : Core := { core [] with
      hmode := true, stop := some (stp 4 0 true), bay := [(0, 0x50), (1, 0x4C), (2, 0x45), (3, 0x49)] }
    k.bayOk = true ∧ k.bayN 6 2 = 0 ∧ k.lease = false ∧ k.flights = [] := by decide +kernel

theorem wit_watchdogsAndPreemptionAct_cores :
    let r : Core := { core [] with job := some (job (.rival 2 1)) }
    let h : Hub := { State.reset.hub with tours := [(2, tour1)] }
    let s : State := { ev 0 0 r with hub := h }
    let k (d : Nat) (c : Core) : Core := { c with stop := some (stp 14 d true) }
    (core []).job = some (job .step) ∧ (core []).runs = true ∧ (core []).stop = none ∧ (core []).wdleft = 0 ∧ (core []).preempt ≠ some 0
    ∧ (∀ x, (core []).stop = some x → x.r.cause ≠ 14) ∧ r.job.map (·.kind) = some (.rival 2 1) ∧ s.tour 2 = some tour1
    ∧ 0 ∈ s.coresWith (isRivalIn 2) ∧ (k 1 r).stop = some (stp 14 1 true) ∧ (stp 14 1 true).r.cause = 14 ∧ (stp 14 1 true).written = true
    ∧ (stp 14 1 true).r.detail = 1 ∧ tour1.riv 1 = some { start := 0, grow := 0, grp := 0, cores := [0] }
    ∧ 0 ∉ ({ start := 0, grow := 0, grp := 0, cores := [0] } : Rival).stopped ∧ (stp 14 0 true).r.detail ≠ 1
    ∧ { core [] with starting := true }.starting = true
    ∧ s.hub.rranges = [] ∧ (k 0 (core [])).wq = [] ∧ (k 0 (core [])).ports = [] ∧ (k 0 (core [])).lease = false
    ∧ s.coresWith (isRivalOf 2 1) = [0]
    ∧ 1 < (({ s with cores := [(0, r), (1, r)] } : State).coresWith (isRivalOf 2 1)).length := by decide +kernel
theorem wit_watchdogsAndPreemptionAct_area :
    let p : State := { ev 0 0 { job := some (job .step), stop := some (stp 14 0 true) } with inp := { addr := 0x2000 } }
    p.areaOk 0 0x2000 (p.saveArea 0 (job .step) 5).1.length = true := by decide +kernel
theorem wit_watchdogsAndPreemptionAct_hub :
    let g : State := { State.reset with hub := { State.reset.hub with groups := [(5, { left := some 0, arrived := 3 })] }, inp := { idx := 5 } }
    let kp : Core := { core [] with stop := some (stp 14 0 true) }
    let v : Saved := ⟨0, 0x2000, 0, true, 0, 0, kp⟩
    let s (w : Option (BitVec 10)) : State := { State.reset with
      hub := { State.reset.hub with saved := [v] }, cores := [(0, { lastWorld := w })] }
    let t : State := { ev 0 2 { core [] with job := some (job (.rival 2 1)) } with
      hub := { State.reset.hub with tours := [(2, { tour1 with a0 := 0 })] }, inp := { idx := 2, idx2 := 1 } }
    let f : State := { State.reset with hub := { State.reset.hub with sgrps := [(1, grp1 3)] }, inp := { idx := 1 } }
    let z : State := { State.reset with hub := { State.reset.hub with resv := [(0, 1)] } }
    (g.grp g.inp.idx).left = some 0 ∧ (g.grp g.inp.idx).arrived ≠ 0
    ∧ (s none).hub.saved[0]? = some v ∧ v.keep.job = some (job .step) ∧ v.keep.stop = some (stp 14 0 true)
    ∧ ((s none).core 0).job = none ∧ ((s none).core 0).clearing = false ∧ ((s none).core 0).prep = 0 ∧ ((s none).core 0).split = none
    ∧ ((s none).core 0).wq = [] ∧ ((s none).core 0).lastWorld = none ∧ ((s (some 0)).core 0).lastWorld = some v.keep.world
    ∧ (t.tour 2).isSome = true ∧ ((t.tour 2).bind (·.riv 1)).map (fun r => (r.st, r.asked, r.yield)) = some (1, false, false)
    ∧ (t.tour 2).map (fun x => (x.last, x.bound, x.frozen, decide (x.allow ≤ t.rivParcels 2 1))) = some (false, false, false, true)
    ∧ f.sg 1 = some (grp1 3) ∧ (grp1 3).deadline ≠ 0 ∧ (grp1 3).deadline ≤ (grp1 3).run ∧ (grp1 3).st = 0 ∧ f.sgOpen 1 ≠ [] ∧ z.hub.hif ≠ 4 ∧ mget 0 z.hub.resv 0 ≠ 0 ∧ mget 0 z.hub.resv 0 ≤ z.hub.podTime.toNat + 1 := by decide +kernel

/-! The module and its host -/

/-- A module in an interface state. -/
def hub (n : Nat) : Hub := { State.reset.hub with hif := n }
def hst (n : Nat) (i : Inp) : State := { State.reset with hub := hub n, inp := i }
theorem wit_resetPowerTimeAndLinks :
    let w : State := { State.reset with hub := { hub 4 with cause := 2 } }
    let x : State := { State.reset with hub := { hub 3 with worlds := [(7, { st := 2 })] } }
    let r (n : Nat) (ok : Bool) : State := { State.reset with hub := { hub 1 with rstep := n }, inp := { ok := ok, images := if n = 3 then [[1], [2], [3]] else [[4]] } }
    let late : Hub := { hub 1 with rstep := 5, wall := resetBound 5 + 1 }
    let cool : Hub := { hub 2 with clkstep := 1, wall := 50000000 * 1020000 }
    let p : State := { State.reset with hub := { hub 2 with ptRun := true }, inp := { val := -32768#64 } }
    let m (v : Word) : State := hst 2 { val := v }
    (hub 3).hif ≠ 0 ∧ ¬ ((hub 3).hif = 4 ∧ (hub 3).cause = 2) ∧ (∀ e ∈ (hub 3).worlds, e.1 = 0 ∨ e.2.st = 0)
    ∧ (hub 0).hif = 0 ∧ (w.hub.hif = 4 ∧ w.hub.cause = 2) ∧ (∃ e ∈ x.hub.worlds, e.1 ≠ 0 ∧ e.2.st ≠ 0)
    ∧ (∀ n ∈ [1, 2, 3, 4, 5], (r n true).hub.hif ≤ 1 ∧ (r n true).hub.rails = .on ∧ (r n true).hub.rstep = n ∧ (r n true).inp.ok = true)
    ∧ (∀ n ∈ [1, 2, 3, 4, 5], (r n true).hub.wall ≤ resetBound n) ∧ resetBound late.rstep < late.wall
    ∧ (r 3 true).inp.images = [[1], [2], [3]] ∧ (r 4 true).inp.images = [[4]] ∧ cool.clkstep ≠ 0 ∧ cool.hot + 50000000 * 1020000 ≤ cool.wall
    ∧ 3 ≤ ({ hub 2 with clkstep := 3 } : Hub).clkstep ∧ p.hub.ports ≠ 0
    ∧ ((hub 2).ports &&& ~~~(1#16 <<< 15) ≠ 0 ∧ (1#16 &&& ~~~(1#16 <<< 0)) = 0)
    ∧ (r 5 false).inp.ok = false ∧ ({ State.reset with l2 := [(9 * 5, { hbm := some 7, tag := 0, bps := 0, side := 0, world := 0, gen := false })] } : State).l2 = [(9 * 5, { hbm := some 7, tag := 0, bps := 0, side := 0, world := 0, gen := false })] ∧ (r 5 false).hub.rstep ≤ 5 ∧ (hub 2).clkstep < 3 ∧ ({ hub 2 with clkstep := 3 } : Hub).clkstep ≠ 0
    ∧ p.hub.ptRun = true ∧ p.hub.ptSrc = false ∧ -32768 ≤ p.inp.val.toInt ∧ p.inp.val.toInt < 32768
    ∧ (m 4).mmioGate false 0x50010 = 0 ∧ ((hub 2).blk 5).lock = false ∧ (m 4).inp.val.getLsbD 2 = true ∧ (m 8).inp.val.getLsbD 2 = false
    ∧ (15 : Nat) < 16 ∧ (hub 2).ports.getLsbD 15 = true := by decide +kernel
theorem wit_resetPowerTimeAndLinks_peers :
    let f : Flight := { ldOp .sent with pa := 2 ^ 54 + 3 * 2 ^ 40 }
    let s : State := { ev 0 0 { core [] with flights := [f] } with hub := { hub 2 with podTime := 2000000 } }
    let w : State := { ev 0 0 { core [] with wq := [w1 0 0 (2 ^ 54 + 3 * 2 ^ 40)] } with
      inp := { idx2 := 16 }, hub := { hub 2 with podTime := 2000000 } }
    let p (n : Nat) (q : PeerReq) (a : Word) : State := hst n { addr := a, peer := q, wide := BitVec.allOnes 256 }
    let u : LinkUnit := ⟨1, 0, 5, 0, 1, 7, 0, false, 0, 256, true, List.replicate 256 0, 0, 0, [], 0, 3⟩
    (s.core 0).flight 0 = some f ∧ f.phase = .sent ∧ isRead f.i = true ∧ (∃ p ∈ f.parts, paKind s.hub.accid p.1 = .peer)
    ∧ f.sentAt + 2000000 ≤ s.hub.podTime.toNat ∧ (w.core 0).wq = [w1 0 0 (2 ^ 54 + 3 * 2 ^ 40)] ∧ (w1 0 0 (2 ^ 54 + 3 * 2 ^ 40)).kind = 0
    ∧ (w1 0 0 (2 ^ 54 + 3 * 2 ^ 40)).sentAt + 2000000 ≤ w.hub.podTime.toNat ∧ (w1 0 0 0).dead = none ∧ (p 2 (.read 64) 0).hub.ports ≠ 0
    ∧ ([u][0]? = some u ∧ u.accel ≠ s.hub.accid ∧ u.sentAt + 2000000 ≤ s.hub.podTime.toNat ∧ ((ev 0 0 (core [])).core 0).runsIn u.world = true)
    ∧ paKind w.hub.accid (w1 0 0 (2 ^ 54 + 3 * 2 ^ 40)).addr = .peer ∧ (w.core 0).runsIn 0 = true
    ∧ (p 4 (.read 64) 0).hub.hif ≠ 2 ∧ (p 4 (.read 64) 0).hub.hif ≠ 3
    ∧ (p 3 (.read 256) 0xFFFFFFFF00).homeCheck 5 0 0 0xFFFFFFFF00 256 false = (p 3 (.read 256) 0xFFFFFFFF00, true)
    ∧ 0xFFFFFFFF00 < 2 ^ 40 ∧ 0xFFFFFFFF00 % 256 = 0
    ∧ (p 2 (.write (List.replicate 64 1)) 0x40).homeCheck 5 0 0 0x40 64 true = (p 2 (.write (List.replicate 64 1)) 0x40, true)
    ∧ (p 2 (.read 64) 0x40).inp.wide = BitVec.allOnes 256 ∧ (p 2 (.read 64) 0).inp.world = 0 := by decide +kernel
theorem wit_resetPowerTimeAndLinks_atomics (op : AtomK) (x y : Word) :
    let p : State := hst 2 { addr := 0x80, peer := .atomic op x y }
    (0x80 : Nat) % AtomK.size op = 0 ∧ p.homeCheck 5 0 0 0x80 (AtomK.size op) true = (p, true) := by
  cases op <;> exact ⟨rfl, by rfl⟩

/-- A host's access to a register at an offset. -/
def mm (n : Nat) (o : Word) (len : Nat) (v : Word) : State := hst n { addr := o, len := len, val := v }
theorem wit_hostRequestsReachMemoryAndRegisters_mmio :
    let lk (b : Nat) (l e : Bool) : Hub := { hub 2 with blks := [(b, { lock := l, expert := e })] }
    ((mm 2 0 0 0).mmioGate true 0x10000 = 0 ∧ (mm 4 0 0 0).mmioGate false 4 = 0 ∧ (mm 1 0 0 0).mmioGate true 4 = 0)
    ∧ (hst 2 { fn := 1 }).mmioGate true 0x10000 = 3 ∧ (hst 2 { fn := 1 }).mmioGate true 0x20000 = 0
    ∧ regAt 8 1 = none ∧ (mm 2 8 1 0).mmioGate false 8 = 0
    ∧ [(0x00004, 4, Reg.hifstat), (0x00008, 4, .errpos), (0x10014, 4, .qstat), (0x30018, 4, .wstat), (0x50018, 8, .ptcount), (0x10008, 8, .qtbase),
      (0x30020, 8, .wbuf), (0x301F8, 4, .wfunc 63), (0x50020, 4, .accid), (0x40010, 4, .rlsel), (0x70010, 4, .dbgsel), (0x60FEC, 4, .ltab 119 3),
      (0x610F0, 4, .lnsctl 127), (0x904E0, 8, .fmbase 31), (0x904E8, 8, .fmlen 31), (0x904F0, 8, .fmscale 31), (0x904F8, 4, .fmctl 31),
      (0x70070, 4, .bpctl 3), (0x70078, 8, .bpval 3)].all (fun e => regAt e.1 e.2.1 == some e.2.2) = true
    ∧ ((hub 2).blk 1).lock = false ∧ (2 ^ 18 % 2 ^ 18 = 0 ∧ 2 ^ 18 < 2 ^ 56) ∧ ((lk 1 true false).blk 1).lock = true
    ∧ bits (hub 2).qtbase.toNat 18 38 ≠ bits (2 ^ 18) 18 38 ∧ bits (hub 2).qtbase.toNat 18 38 = bits 8 18 38 ∧ 8 % 2 ^ 18 ≠ 0
    ∧ (256 % 256 = 0 ∧ 255 % 256 ≠ 0) ∧ (mget 0 (hub 2).wfunc 3).toNat ≠ 1023 ∧ 1023 < 1024
    ∧ (2 ^ 15 - 2 < 2 ^ 15 ∧ (2 ^ 15 - 2) % 8 ≠ 7) ∧ 511 < 512
    ∧ (let s := mm 2 (3 * 2 ^ 54 + 4) 4 0
       linkReq (s.normPa (3 * 2 ^ 54 + 4)) 4 = true ∧ paKind s.hub.accid (s.normPa (3 * 2 ^ 54 + 4)) = .mmio ∧ s.mmioGate true 4 = 0
         ∧ s.mmioGate true 0x50018 = 0)
    ∧ ((hub 2).blk 3).lock = false ∧ ((lk 6 false true).blk 6).expert = true ∧ ((hub 2).blk 6).expert = false
    ∧ ((lk 9 true false).blk 9).lock = true := by decide +kernel
theorem wit_hostRequestsReachMemoryAndRegisters_memory :
    let s (n : Nat) : State := hst n { addr := 0xFFFFFFFE00, len := 256, data := List.replicate 256 7 }
    0xFFFFFFFE00 + 256 < 2 ^ 40 ∧ linkReq 0xFFFFFFFE00 256 = true ∧ ((s 2).hub.hif = 2 ∨ (s 2).hub.hif = 3) ∧ (s 2).fnWorld 0 = 0
    ∧ (s 2).homeCheckS 0 0 0 0xFFFFFFFE00 256 false 4 = (s 2, true) ∧ (s 2).homeCheckS 0 0 0 0xFFFFFFFE00 256 true 0 = (s 2, true)
    ∧ ¬ ((s 4).hub.hif = 2 ∨ (s 4).hub.hif = 3) := by decide +kernel
theorem wit_hostRequestsReachMemoryAndRegisters_ranges :
    let r : FmtRange := { base := 0x200000, len := 0x200000, scale := 0x1000 }
    let s : State := { mm 2 0 0 0 with fmts := [(0, r)] }
    let v : Nat := 2 ^ 31 + 2 * 16
    let bad : Nat := 2 ^ 31 + 5 * 16 + 1
    r.ctl.getLsbD 31 = false ∧ ({ r with ctl := 0x80000000 } : FmtRange).ctl.getLsbD 31 = true ∧ 0x200000 % 2 ^ 21 = 0 ∧ 4096 % 4096 = 0
    ∧ bits v 8 23 = 0 ∧ bits v 2 2 = 0 ∧ v < 2 ^ 32 ∧ bits v 4 4 < 14 ∧ bits v 0 2 ≠ 3 ∧ 2 ^ 31 ≤ v
    ∧ s.fmtOk 0 r v = true ∧ s.fmtOk 0 { r with len := 0 } v = false ∧ bits bad 0 2 ≠ 3 ∧ bits 0x3F800000 23 8 ≠ 255 ∧ 0x3F800000 % 2 ^ 31 ≠ 0
    ∧ bits 0x7F800000 23 8 = 255 ∧ 0x80000000 % 2 ^ 31 = 0 := by
  decide +kernel
theorem wit_managementChannelAnswers :
    let s (n : Nat) (i : Inp) (p : Spdm) : State := { hst n i with hub := { hub n with spdm := p } }
    let p : Spdm := { slots := [(1, [5])], held := [(1, [6])], chal := [⟨0, 1, 0, [5], 0, 2⟩] }
    let h : Hub := { hub 2 with podTime := 100000000, spdm := p }
    (hub 0).hif = 0 ∧ (hub 1).hif ≠ 0 ∧ (hub 1).sumRep = none ∧ ({ hub 1 with sumRep := some ⟨0, 0, [], 3⟩ } : Hub).sumRep ≠ none
    ∧ 0 < (s 1 {} {}).summary.length ∧ (s 1 {} {}).summary.length ≤ 65536
    ∧ ((0x100 : Nat).testBit 8 = true ∧ (4 : Nat).testBit 2 = true) ∧ (0 : Nat).testBit 8 = false
    ∧ p.slot 1 = some [5] ∧ ({} : Spdm).slot 7 = none ∧ (1 ≤ 16 ∧ 16 ≤ 16 ∧ 16 < 17 ∧ 17 ≠ 0xFF)
    ∧ (s 1 { fn := 1 } {}).inp.fn ≠ 0 ∧ (s 1 {} {}).inp.fn = 0 ∧ (∃ x ∈ p.chal, x.slot = 1) ∧ ¬ (∃ x ∈ ({} : Spdm).chal, x.slot = 7)
    ∧ mfind h.spdm.held 1 = some [6] ∧ (∃ x ∈ h.spdm.chal, x.slot = 1 ∧ x.time + 100000000 ≤ h.podTime.toNat)
    ∧ ((hub 2).hif = 2 ∧ (hub 3).hif = 3) ∧ ((hub 4).hif ≠ 2 ∧ (hub 4).hif ≠ 3) ∧ (hub 2).imgRep = none
    ∧ ({ hub 2 with imgRep := some ⟨0, 1, [], 3⟩ } : Hub).imgRep ≠ none ∧ (1023 ≤ 1023 ∧ 1023 < 1024)
    ∧ (rdBs (s 2 {} {}).hostMem 0 63).length < 64 ∧ (∀ e ∈ ([(0, { lastWorld := some 9 })] : Map Core), e.2.ilock = []) := by
  decide +kernel
/-- A SHA-512 digest has 64 bytes. -/
theorem foldl_length8 {β : Type} (f : List Word → β → List Word) (hf : ∀ h x, h.length = 8 → (f h x).length = 8)
    (l : List β) : ∀ h : List Word, h.length = 8 → (l.foldl f h).length = 8 := by
  induction l with
  | nil => exact fun _ h => h
  | cons x l ih => exact fun h hh => ih _ (hf h x hh)
theorem shaBlock_length (h : List Word) (b : List Byte) (hh : h.length = 8) : (shaBlock h b).length = 8 := by
  simp [shaBlock, hh, foldl_length8 shaRound (fun _ _ _ => rfl) _ h hh]
theorem flatten_length8 (l : List Word) : (l.map (fun w => beBytes 8 w.toNat)).flatten.length = 8 * l.length := by
  induction l with
  | nil => rfl
  | cons x l ih => simp [beBytes] at ih ⊢; omega
theorem sha512_length (m : List Byte) : (sha512 m).length = 64 := by
  simp only [sha512, flatten_length8]
  rw [foldl_length8 _ (fun h k hh => shaBlock_length h _ hh) _ _ rfl]
theorem wit_managementChannelAnswers_entry (b : List Byte) :
    let c := b ++ imgTag b
    64 ≤ c.length ∧ c.drop (c.length - 64) = imgTag (c.take (c.length - 64)) := by
  have h : (imgTag b).length = 64 := sha512_length _
  simp [h]

/-! Queues and the scheduler -/

/-- A queue descriptor's bytes, of a queue with a ring of 64 entries at 0x7000. -/
def qd (w r c : Nat) : List Byte := leBytes 8 0x7000 ++ leBytes 8 6 ++ leBytes 4 w ++ leBytes 4 r ++ leBytes 4 c
def qhub (u : UQueue) (l : Map HSlot) : Hub := { hub 3 with queues := [(0, u)], hslots := l }
def qst (b : List Byte) (h : Hub) (v : Word) : State := { State.reset with hub := h, mem := wrBs [] 0 b, inp := { val := v } }
theorem wit_queuesTakeNotifiesAndSlots_qctl :
    let e (v : Word) : State := qst (qd 2 1 0) (hub 2) v
    let u : UQueue := { en := true, d := { log := 6 } }
    (e 0).mmioGate false 0x10010 = 0 ∧ bits 0x10000000 28 4 = 1 ∧ ({ hub 2 with qbusy := true } : Hub).qbusy = true
    ∧ (hub 2).qbusy = false ∧ bits 0x10001000 12 16 ≠ 0 ∧ bits 0x10000FFF 12 16 = 0 ∧ 0x10000FFF < 2 ^ 32 ∧ bits 0x20000000 28 4 = 2
    ∧ bits 0x30000000 28 4 = 3 ∧ ((e 0).uq 0).en = false ∧ (e 0).qDescOk ((e 0).qdRaw 0) = true
    ∧ (qst (qd 1 2 0) (hub 2) 0).qDescOk ((qst (qd 1 2 0) (hub 2) 0).qdRaw 0) = false ∧ (e 0).hub.qtbase.toNat < 2 ^ 40
    ∧ ((qst [] (qhub u []) 0).uq 0).en = true ∧ (u.slot = none) ∧ { u with slot := some 63 }.slot = some 63
    ∧ mfind (qhub { u with slot := some 63 } [(63, ⟨0, 2, 1, 0, 0, none⟩)]).hslots 63 = some ⟨0, 2, 1, 0, 0, none⟩ := by decide +kernel
theorem wit_queuesTakeNotifiesAndSlots_notify :
    let u : UQueue := { en := true, slot := some 63, d := { log := 6 } }
    let s (v : Word) : State := qst [] (qhub u [(63, ⟨0, 2, 1, 0, 0, none⟩)]) v
    let f : State := { s 0 with hub := { (s 0).hub with wfunc := [(1, 5)] }, inp := { fn := 1 } }
    let d (v : Word) : Nat := (v.setWidth 32 - ((s v).qIdx 0).2.1).toNat
    (s 0).mmioGate false 0x20000 = 0 ∧ (hst 1 {}).mmioGate false 0x20000 ≠ 0 ∧ f.inp.fn ≠ 0 ∧ f.qWorld 0 ≠ f.fnWorld f.inp.fn
    ∧ (s 65).qPending 0 ≤ d 65 ∧ d 65 ≤ 2 ^ u.d.log ∧ ¬ (d 66 ≤ 2 ^ u.d.log) ∧ ¬ ((s 1).qPending 0 ≤ d 1) ∧ (s 0).qPending 0 = 1 ∧ 0 < d 65
    ∧ d 1 = 0 ∧ (s 0).hub.qtbase.toNat < 2 ^ 40 := by decide +kernel
theorem wit_queuesTakeNotifiesAndSlots_map :
    let u : UQueue := { en := true, ready := true, d := { log := 6 } }
    let s (b : List Byte) : State := qst b (qhub u []) 0
    let m := (s (qd 1 0 0)).idleMarks
    m.nextReady = some 0 ∧ mfind m.hub.hslots 0 = none ∧ (m.uq 0).slot = none ∧ m.qDescOk (m.qdRaw 0) = true
    ∧ (s (qd 1 2 0)).idleMarks.qDescOk ((s (qd 1 2 0)).idleMarks.qdRaw 0) = false := by decide +kernel
theorem wit_queuesTakeNotifiesAndSlots_packet :
    let p (f n : Nat) : List Byte := leBytes 4 0x504C4C50 ++ leBytes 2 1 ++ leBytes 2 f ++ leBytes 8 7 ++ leBytes 4 0 ++ leBytes 4 n
      ++ leBytes 8 0x8000 ++ leBytes 8 1000 ++ leBytes 24 0
    let good (b : List Byte) : Bool := let d := padTo 64 b
      b.length == 64 && fld d 0 4 == 0x504C4C50 && fld d 4 2 == 1 && decide (fld d 6 2 < 2)
        && decide (fld d 0x14 2 ≤ 512) && fld d 0x16 2 == 0 && fld d 0x28 24 == 0 && (fldW d 0x18).toNat % 256 == 0
    let u : UQueue := { en := true, slot := some 63, d := { log := 6 } }
    let s : State := qst [] (qhub u [(63, ⟨0, 2, 1, 0, 0, none⟩)]) 0
    let far : List Byte := p 0 0 |>.set 0x11 0x10
    good far = true ∧ 4096 ≤ fld (padTo 64 far) 0x10 2 ∧ fld (padTo 64 (p 1 512)) 0x10 2 < 4096 ∧ good (p 1 512) = true ∧ good (p 0 0) = true ∧ good (p 2 0) = false ∧ good [] = false ∧ ((qst [] (hub 3) 0).launchAt 0 0 0x8000).2 ≠ 0
    ∧ ({ s with mem := tables, hub := { s.hub with queues := [(0, { u with d := { log := 6, base := 0x7000 } })] } }.launchAt 0 0 0x8000).2 = 0 := by
  decide +kernel

/-- An OPB of one step of one core, its image record, and a ring entry that names it, with the page tables. -/
def sched : Mem :=
  let m := wrBs tables 0x7000 (leBytes 8 0x8000)
  let m := wrBs m 0x8000 (leBytes 4 0x424F4C50 ++ [1, 1, 0, 0] ++ leBytes 8 1 ++ leBytes 8 0x10000 ++ leBytes 8 0x9000
    ++ leBytes 24 (1 + 2 ^ 32 + 2 ^ 64 + 2 ^ 96 + 2 ^ 128 + 2 ^ 160))
  wrBs m 0x10000 (leBytes 4 0x494A4C50 ++ [1, 3, 0, 0] ++ leBytes 8 0x2000)
/-- A module in RUN whose queue 3, on slot 5, has that entry. -/
def sst (o : List (Nat × Opb)) (n m : Nat) : State :=
  { State.reset with
      mem := sched, inp := { idx := n, idx2 := m },
      hub := { hub 3 with
        queues := [(3, { en := true, slot := some 5, d := { log := 6, base := 0x7000 }, opbs := o.map (·.1) })], hslots := [(5, ⟨3, 1, if o.isEmpty then 0 else 1, 0, 0, none⟩)], opbs := o } }
theorem wit_blocksAreFetchedPlacedAndCompleted_fetch :
    let s := sst [] 3 0
    s.fetchable 3 = true ∧ (s.uq 3).slot = some 5 ∧ mfind s.hub.hslots 5 = some ⟨3, 1, 0, 0, 0, none⟩
    ∧ s.hubRd 0 0x7000 8 = some (leBytes 8 0x8000) ∧ 0x8000 < 2 ^ 56 ∧ 0x8000 % 256 = 0
    ∧ (match (s.setRidx 3 1).opbCheck 3 0 0x8000 0 0 with | .ok _ => true | .error _ => false) = true
    ∧ (match (s.setRidx 3 1).opbCheck 3 0 0x8100 0 0 with | .ok _ => 0 | .error e => e) = 1
    ∧ ({ s with mem := [] } : State).hubRd 0 0x7000 8 = none ∧ (leNat (leBytes 8 0x8001) % 256 ≠ 0 ∧ 2 ^ 56 ≤ leNat (leBytes 8 (2 ^ 56))) := by
  decide +kernel
theorem wit_blocksAreFetchedPlacedAndCompleted_place :
    let w (g : Word) : Opb := { blk with waits := [(0x7000, g)], n := 9 }
    let s (o : Opb) : State := sst [(0, o)] 0 0
    let c : Opb := { blk with claimed := [0], next := 1 }
    (s (w 1)).opb 0 = some (w 1) ∧ (w 1).waits[0]? = some (0x7000, 1) ∧ 0 ∉ (w 1).sat ∧ mget 0 (w 1).retry 0 ≤ 0 + 1
    ∧ (s (w 1)).hubRd 0 0x7000 8 = some (leBytes 8 0x8000) ∧ (1 : Word).toNat ≤ leNat (leBytes 8 0x8000)
    ∧ leNat (leBytes 8 0x8000) < (0x8001 : Word).toNat
    ∧ ((s blk).headOf 3).map (·.1) = some 0 ∧ (s blk).headReady 3 (0, blk) = true ∧ blk.next < blk.n ∧ blk.claimed = []
    ∧ (s blk).hubRd 0 0x9000 1 = some [0] ∧ (leNat [0]).testBit 0 = false ∧ (leNat [1]).testBit 0 = true
    ∧ (s c).hub.sgrps = [] ∧ (s c).turns = [(5, 3, 0)] ∧ ((s c).plan 3).map (·.1) = some 1 ∧ (s c).hub.sibq = [] ∧ (s c).headOf 3 = some (0, c)
    ∧ (s c).headReady 3 (0, c) = true ∧ c.claimed = 0 :: [] ∧ c.flags.testBit 1 = false ∧ c.flags.testBit 3 = false ∧ c.groups = []
    ∧ (s c).pickStep c ((s c).idleCores (some (c.q, c.addr))) = some [0] ∧ (s c).opb 0 = some c := by decide +kernel
theorem wit_blocksAreFetchedPlacedAndCompleted_jobs :
    let k : Core := { clearing := true }
    let j : Core := { job := some (job .step), starting := true, gran := 32 }
    let s : State := { ev 0 0 j with mem := sched }
    k.prep = 0 ∧ k.job = none ∧ k.clearing = true ∧ j.job = some (job .step) ∧ j.starting = true ∧ j.clearFirst = false ∧ j.prep = 0
    ∧ j.split = none ∧ j.gran = 32 - (job .step).l1g ∧ j.bumpWaits = false ∧ (s.hubRd 0 0x10000 128).isSome = true := by decide +kernel
theorem wit_blocksAreFetchedPlacedAndCompleted_ends :
    let e : Core := { core [] with job := some { job .step with slots := [] }, ended := true }
    let same (i : Job) : Bool := i.kind == .step && i.opb == 0 && i.step == 0
    let s : State := { ev 0 0 e with hub := { hub 3 with opbs := [(0, { blk with running := [0], next := 1 })] } }
    let f := sst [(0, { blk with finish := [0], next := 1 })] 0 0
    let d := sst [(0, { blk with done := 1, next := 1 })] 0 0
    (s.core 0).ended = true ∧ s.jobQuiet 0 = true ∧ (s.opb 0).isSome = true ∧ s.coresWith same = [0] ∧ s.savedWith same = []
    ∧ f.trHub 0 0x9000 { r := true, w := true } = .ok 0x9000 ∧ 3 ∉ d.hub.irqd ∧ f.homeCheck 4 0 0 0x9000 1 true = (f, true)
    ∧ (d.opb 0).map (fun o => (o.running, o.finish, o.page, decide (o.n ≤ o.done), o.cdone)) = some ([], [], none, true, 0)
    ∧ (d.uq 3).slot = some 5 ∧ mfind d.hub.hslots 5 = some ⟨3, 1, 1, 0, 0, none⟩ ∧ (0 : BitVec 32) = blk.index ∧ (d.uq 3).doneIx = []
    ∧ { blk with failed := 8 }.failed ≠ 0 := by decide +kernel

/-! Worlds, paging, the debugger and the trace -/

/-- A world with one range of 2 MiB. -/
def wld (st : Nat) (w : World) : State :=
  { State.reset with
      inp := { val := BitVec.ofNat 64 (7 * 2 ^ 32), world := 7 },
      hub := { hub 3 with worlds := [(7, { w with st := st, ranges := [(0x200000, 0x200000)] })] } }
theorem wit_worldsAreCreatedRotatedAndDestroyed_commands :
    let v (op w a : Nat) : Nat := op * 2 ^ 60 + w * 2 ^ 32 + a
    let b : Hub := { hub 3 with wstat := 1 }
    let r : Opb := { blk with world := 7 }
    let d : List Byte := List.replicate 0x100 0 ++ leBytes 8 64
    (hst 3 {}).mmioGate false 0x30010 = 0 ∧ b.wstat.getLsbD 0 = true ∧ (hub 3).wstat.getLsbD 0 = false
    ∧ (∀ op ∈ [1, 2, 3, 4, 5], bits (v op 7 0) 60 4 = op ∧ bits (v op 7 0) 32 10 = 7 ∧ bits (v op 7 0) 42 18 = 0 ∧ bits (v op 7 0) 0 32 = 0)
    ∧ bits (v 1 1024 0) 42 18 ≠ 0 ∧ bits (v 1 0 0) 32 10 = 0 ∧ bits (v 1 7 5) 0 32 ≠ 0
    ∧ ((wld 2 {}).world 8).st = 0 ∧ ((wld 2 {}).world 7).st = 2 ∧ unwrapBlob (d.take 256) 8 = none ∧ (descRanges d).isSome = true
    ∧ (wld 2 {}).rangesFree [(0x400000, 0x200000)] = true ∧ (wld 2 {}).rangesFree [(0x200000, 0x200000)] = false
    ∧ descRanges (List.replicate 0x508 0) = none
    ∧ ((wld 2 { live0 := true, live1 := true }).world 7).live1 = true ∧ ((wld 2 { live0 := true }).world 7).live1 = false
    ∧ ((wld 2 { live0 := true, live1 := true, count := 1 }).world 7).genLive 0 = true ∧ (0 ≠ 1) ∧ ((wld 3 {}).world 7).st = 3
    ∧ ¬ (((wld 2 { count := 1 }).world 7).genLive 0 = true) ∧ ((wld 1 {}).world 7).st = 1 ∧ ((wld 4 {}).world 7).st = 4
    ∧ (∃ o ∈ [(0, r)], o.2.world.toNat = 7) ∧ (∀ o ∈ [(0, blk)], o.2.world.toNat ≠ 7)
    ∧ ((wld 2 {}).cores.map (·.1)).Nodup ∧ ((wld 2 {}).core 0).clearing = false := by decide +kernel
theorem wit_worldsAreCreatedRotatedAndDestroyed_walkers :
    let r (c : BitVec 32) (v : Word) : State := { State.reset with
      inp := { val := v },
      hub := { hub 3 with rlsel := 4095 * 8, rranges := [(4095, { base := 0xFFFFE00000, len := 0x200000, ctl := c })] } }
    let v : Nat := 2 ^ 31
    let t : State := { State.reset with hub := { hub 3 with podTime := 900000, blks := [(1, { lock := true, digs := [(8, 5)] })] } }
    let o : State := { State.reset with hub := { hub 3 with podTime := 900000 } }
    ((wld 4 {}).world 7).st = 4 ∧ ((wld 4 {}).world 7).wbuf.toNat < 2 ^ 40 ∧ ((wld 3 {}).world 7).walk = false ∧ (wld 3 {}).oldWrites 7 = false
    ∧ ((wld 3 { walk := true }).world 7).walk = true
    ∧ rangeLine ((wld 3 { walk := true }).world 7).ranges 0 = some 0x200000 ∧ rangeLine ((wld 3 { walk := true }).world 7).ranges 16384 = none
    ∧ (wld 3 { walk := true }).invs = [] ∧ (r 0 0).mmioGate false 0x40030 = 0
    ∧ bits v 23 8 = 0 ∧ bits v 10 5 = 0 ∧ v < 2 ^ 32 ∧ (r 0 0).hub.rsel.ctl.getLsbD 31 = false ∧ (r 0 0).hub.rsel.len ≠ 0
    ∧ (r 0 0).hub.rsel.base + (r 0 0).hub.rsel.len ≤ 2 ^ 40
    ∧ (∀ a, 0xFFFFE00000 / 2 ^ 21 ≤ a → a ≤ (0xFFFFE00000 + 0x200000 - 1) / 2 ^ 21 → (r 0 0).owner (a * 2 ^ 21) = bits v 0 10)
    ∧ (∀ e ∈ (r 0 0).hub.rranges, e.1 ≠ 4095 → e.2.ctl.getLsbD 31 = false) ∧ (r 0x80000000 0).hub.rsel.ctl.getLsbD 31 = true
    ∧ o.hub.walkAt + 900000 ≤ o.hub.podTime.toNat ∧ (∀ e ∈ o.hub.blks, e.2.lock = true → False) ∧ (o.hub.blk 3).digs = []
    ∧ (8, Reg.qtbase) ∈ lkRegs 1 ∧ (∃ e ∈ t.hub.blks, e.2.lock = true ∧ e.2.since ≤ t.hub.walkAt) := by
  and_intros <;> try decide +kernel
  all_goals
    intro a h1 h2
    have h : a = 0x7FFFF := by omega
    subst h
    decide +kernel
/-- A fault entry. -/
def fe (w : List (Nat × Nat)) : FaultEnt := ⟨1, 0, 0, 0x50000, 0, w⟩
theorem wit_pagingServiceAndDebuggerAct_faults :
    let k : Core := { core [] with stop := some (stp 7 0 true) }
    let s (h : Hub) : State := { State.reset with cores := [(0, k)], inp := { addr := 0x50000, val := 1 }, hub := h }
    let q (n : Nat) : State := { State.reset with hub := { hub 3 with opbs := [(0, { blk with page := some 0x9000 })] }, inp := { idx := n, val := 1 } }
    let e (b : Bool) : State := ev 0 0 { core [] with e0 := { page := b }, ports := [(3, { tp false [] 0 false with wait := true })] }
    (s (hub 3)).waits (0, 0) = true ∧ (∀ x ∈ (hub 3).faults ++ (hub 3).fwait, (0, 0) ∉ x.waiters)
    ∧ ({ hub 3 with faults := [fe [(1, 0)]] } : Hub).faults = [fe [(1, 0)]] ∧ (fe [(1, 0)]).va = BitVec.ofNat 64 (0x50000 / 65536 * 65536)
    ∧ (hub 3).fwait = [] ∧ ({ hub 3 with fqset := true } : Hub).fqRoom = true ∧ ({ hub 3 with faults := List.replicate 4096 (fe []) } : Hub).fqRoom = false
    ∧ (hub 3).fqbase.toNat < 2 ^ 40 ∧ (s (hub 3)).mmioGate false 0xA0020 = 0 ∧ 5 < 2 ^ 32 ∧ (∀ x ∈ [fe []], x.seq.toNat ≠ 5)
    ∧ (fe [(0, 0)]).waiters = [(0, 0)] ∧ 1 = (fe []).seq.toNat ∧ (e true).waits (0, 1) = true ∧ (e true).waits (0, 7) = true
    ∧ (q 8).waits (0, 8) = true ∧ ((q 8).opb 0).isSome = true ∧ (mfind ((e true).core 0).ports 3).isSome = true := by decide +kernel
theorem wit_pagingServiceAndDebuggerAct_debugger :
    let d (a h : Bool) : State := { mm 3 0x70078 8 0 with cores := [(0, { core [] with attached := a, halted := h })] }
    let w : Core := { core [] with job := some { job .step with world := 7 } }
    (∀ e ∈ ([(0, core [])] : Map Core), e.2.usesPage 0 0x50000 65536 = false) ∧ (d true true).dbgCore = 0
    ∧ (d true true).mmioGate false 0x70018 = 0
    ∧ mget 0 (hub 3).dbgBusy 0 = 0 ∧ mget 0 ({ hub 3 with dbgBusy := [(0, 2)] } : Hub).dbgBusy 0 ≠ 0 ∧ (hub 3).replay = none
    ∧ (∀ n ∈ [1, 2, 3, 4, 5, 6], bits (n * 2 ^ 28) 28 4 = n ∧ (n * 2 ^ 28) % 2 ^ 28 = 0 ∧ n * 2 ^ 28 < 2 ^ 32)
    ∧ w.runs = true ∧ w.world ≠ 0 ∧ (core []).world = 0 ∧ ({} : Core).runs = false
    ∧ ((d false true).core 0).attached = false ∧ ((d true true).core 0).attached = true ∧ ((d true true).core 0).halted = true
    ∧ ((d true false).core 0).halted = false ∧ (hub 3).trc.buf.toNat < 2 ^ 40 ∧ (d true true).mmioGate false 0x70070 = 0
    ∧ (bits (4 * 2 ^ 28) 0 25 = 0 ∧ bits (4 * 2 ^ 28) 28 3 < 5) ∧ (bits (5 * 2 ^ 25) 28 3 = 0 ∧ bits (5 * 2 ^ 25) 25 3 < 6)
    ∧ bits 1 0 25 ≠ 0 ∧ 5 ≤ bits (5 * 2 ^ 28) 28 3 := by decide +kernel
theorem wit_traceCountersAndReplayRegisters :
    let t (ctl : BitVec 32) : Trc := { ctl := ctl, base := 0x100000, size := 0x1000, mask := 1, wr := 0xFD0 }
    let k : Core := { core [] with scyc := 256 }
    let s (ctl : BitVec 32) : State := { ev 0 0 k with hub := { hub 3 with trc := t ctl } }
    let d (n : Nat) : List Byte := leBytes 4 0x50524C50 ++ [1, 0] ++ leBytes 2 0 ++ leBytes 8 0x2000 ++ leBytes 4 n ++ leBytes 4 1 ++ leBytes 8 0x3000
    let p (n : Nat) : List Byte := leBytes 80 (leNat (d n))
    let h : Core := { core [] with halted := true }
    (hst 3 {}).mmioGate false 0x70120 = 0 ∧ (bits (2 ^ 24) 24 5 ≠ 0 ∧ bits (2 ^ 16) 16 4 ≠ 0) ∧ (bits (2 ^ 31) 24 5 = 0 ∧ bits (2 ^ 31) 16 4 = 0)
    ∧ (2 ^ 31 < 2 ^ 32 ∧ (t 0).ctl.getLsbD 31 = false) ∧ (hst 3 {}).mmioGate false 0x70138 = 0 ∧ (t 0x80000000).ctl.getLsbD 31 = true
    ∧ (s 1).sampleDue 0 = true ∧ k.runs = true ∧ (s 0xC0200001).sampleDue 0 = true ∧ (t 0xC0200001).ctl.getLsbD 31 = true
    ∧ (t 0xC0200001).ctl.getLsbD 21 = true ∧ (t 0xC0200001).ctl.getLsbD 30 = true ∧ (t 0xC0200001).lost = 0 ∧ k.world = 0
    ∧ (t 0).base.toNat < 2 ^ 40 ∧ (t 0).wr + 48 ≤ (t 0).size.toNat ∧ (hst 3 {}).mmioGate false 0x70180 = 0
    ∧ rpDescOk (p 1) = true ∧ (winOf (List.replicate 32 0)).ok = true ∧ fld (p 1) 5 1 = 0 ∧ fld (p 1) 6 2 = 0
    ∧ (h.halted = true ∧ h.job.isSome = true ∧ h.world = 0 ∧ (h.eng 0).st.isRun = false) ∧ rpDescOk (List.replicate 80 0) = false := by
  decide +kernel
theorem wit_traceCountersAndReplayRegisters_end :
    let p : Replay := ⟨false, 0, 1, 0, 1, 1, [], [], some 0, false, {}, {}, 0, 0⟩
    p.fin = some 0 ∧ p.kiln = false ∧ p.eng < 2 ∧ ({ core [] with halted := true } : Core).halted = true := by decide

/-! The machine -/

theorem wit_encodedInstructionsDecodeToThemselves :
    encode (.add ⟨3, 1, 2⟩) = some (.sc, 0x010C1080000000) ∧ encode (.kmma ⟨8, 1, 3⟩) = some (.kiln, 0x1C1000010003)
    ∧ encode (.cmove ⟨⟨.rel, .die⟩, 0, 5, 7⟩) = some (.copy, 0x166000050007) ∧ (2 ^ 48 : Nat) ≤ 2 ^ 48
    ∧ decodeOpt .sc 0x010C1080000000 = some (.add ⟨3, 1, 2⟩) ∧ Cls.sc.assigned (Cls.sc.opcode 0x2F000000000000) = false
    ∧ Cls.flue.assigned (Cls.flue.opcode 0x10918800) = true ∧ decodeOpt .flue 0x10918800 = none := by decide +kernel
theorem wit_everyStepKeepsMemoryCanonical : State.reset.memOk ∧ (match step State.reset with | .next _ => true | _ => false) = true :=
  ⟨⟨rfl, rfl, rfl⟩, by decide +kernel⟩

/-- A core whose L context is at a parcel of an ADD and an MC NOP. -/
def padd : Core := { core [(1, 5), (2, 7)] with
  cl := { cx [(1, 5), (2, 7)] with pc := 0x1000 }, icache := [(32, BitVec.ofNat 1024 (0x010C1080000000 * 2 ^ 56))] }
theorem wit_aStepRunsTheDecodedInstruction_parcel :
    let s : State := { State.reset with cores := [(0, padd)], script := [.parcel 0 0 false] }
    let u : State := { s with script := [], cur := { core := 0, src := 0, pc := 0x1000, first := padd.nextId } }
    let w : Nat := 0x010C1080000000 * 2 ^ 56
    let live : List (Nat × Instr) := [(0, .add ⟨3, 1, 2⟩), (1, .mcNop)]
    let p := parcelOf 0 w
    let one (a : State) (e : Nat × Instr) : Option State :=
      match exec e.2 { a with cur := { a.cur with slot := e.1, verdict := .go, tok := none, settok := false } } with
      | .next t => some t
      | _ => none
    (padd.issues = true ∧ (padd.passBanks 0 0).any padd.taken = false ∧ padd.runPass 0 0 = padd ∧ padd.turn 0 = true)
    ∧ (match State.parcelBits u 0 0 with | (t, .ok n) => t == u && n == w | _ => false) = true ∧ liveOf (sylsOf p none) = live ∧ padd.inter = false ∧ p.ctl.wait = 0 ∧ p.ctl.settok = false
    ∧ padd.occupied 0 live = [] ∧ twice padd 0 (live.map (·.2)) = false ∧ padd.bpPc 0 0x1000 = none
    ∧ parcelFaults p (sylsOf p none) none false = []
    ∧ live.all (fun e => match one u e with
        | some t => ((t.core 0).raises.drop 0).filter (fun r => !r.late) == [] | none => true) = true
    ∧ (match live.foldlM (fun a e => (one a e).filter (fun t => t.cur.verdict == .go)) u with
      | some v => !v.overBudget 0 padd | none => false) = true
    ∧ live.any (fun e => padd.refreshes e.2) = false ∧ (live.flatMap (fun e => padd.sylBanks 0 0 e.2)).any padd.taken = false := by
  decide +kernel
theorem wit_aStepRunsTheDecodedInstruction_words :
    let e (x : Eng) : State := { State.reset with cores := [(0, { core [] with e0 := x, icache := [(32, 2)] })], script := [.engine 0 0] }
    let m (x : Eng) : State := { State.reset with
      cores := [(0, { core [] with em := x, lease := true, icache := [(32, 2)] })], script := [.mword 0] }
    let new : Eng := { pc := 0x1000, st := .running }
    let old (i : Instr) : Eng := { pc := 0x1000, st := .running, cur := some (going i) }
    decodeTableWord 32 0x2091A000 = some (.ffma ⟨1, 2, 3, 4⟩) ∧ (dr 0 []).prog[(dr 0 []).pc - 1]? = some 0
    ∧ decodeOpt .flue 0 = some .fnop
    ∧ ((e new).engineRuns 0 0 = true ∧ (m new).engineRuns 0 2 = true ∧ new.stopReq = false ∧ new.swept = false ∧ new.cur = none ∧ new.startIn = 0)
    ∧ ((m new).core 0).lease = true ∧ ((m new).kiln 0).gwait = 0 ∧ ((m new).core 0).hold = none ∧ (going (.cnop 1)).left ≤ 1
    ∧ ((e new).core 0).bpPc 3 0x1000 = none ∧ bits 2 0 64 < 2 ^ 48
    ∧ decodeOpt .copy (bits 2 0 64) = some (.cnop 2) ∧ decodeOpt .kiln (bits 2 0 64) = some (.knop 2) := by
  decide +kernel
theorem wit_onlyAnOutsideEventCanStop_illFormed :
    (st 2 (core [])).cur.src ≤ 2 ∧ (st 1 (core [])).cur.src = 1 ∧ (encSC (.split 28)).isSome = true ∧ (Instr.split 28).wf = false
    ∧ (encMC (.fence ⟨.none, .ctx⟩)).isSome = true ∧ (Instr.fence ⟨.none, .ctx⟩).wf = false
    ∧ (encVC (.vsetsh 0)).isSome = true ∧ (Instr.vsetsh 0).wf = false := by decide +kernel
theorem wit_onlyAnOutsideEventCanStop :
    (∀ i inp rest, State.reset.script ≠ .event i inp :: rest) ∧ State.reset.ownAct = true ∧ encodeFields .coldReset = none := by
  refine ⟨?_, by decide, by decide⟩
  intro i inp rest h
  cases h

/-! Words laid out from the field tables (13 R253-R255, R261, R262) and the entries of 14 to 18, every encoded instruction once -/

theorem test_words_registerForms :
    ([(0x0, .scNop), (0x10D1780000000, .add ⟨3, 17, 30⟩), (0x20D1780000000, .sub ⟨3, 17, 30⟩), (0x30D1780000000, .and ⟨3, 17, 30⟩),
     (0x40D1780000000, .or ⟨3, 17, 30⟩), (0x50D1780000000, .xor ⟨3, 17, 30⟩), (0x60D1780000000, .andn ⟨3, 17, 30⟩),
     (0x70D1780000000, .shl ⟨3, 17, 30⟩), (0x80D1780000000, .shr ⟨3, 17, 30⟩), (0x90D1780000000, .sra ⟨3, 17, 30⟩),
     (0xA0D1780000000, .rotr ⟨3, 17, 30⟩), (0xB0D1780000000, .mul ⟨3, 17, 30⟩), (0xC0D1780000000, .mulh ⟨3, 17, 30⟩),
     (0xD0D1780000000, .mulhu ⟨3, 17, 30⟩), (0xE0D1780000000, .div ⟨3, 17, 30⟩), (0xF0D1780000000, .divu ⟨3, 17, 30⟩),
     (0x100D1780000000, .rem ⟨3, 17, 30⟩), (0x110D1780000000, .remu ⟨3, 17, 30⟩), (0x120D1780000000, .min ⟨3, 17, 30⟩),
     (0x130D1780000000, .max ⟨3, 17, 30⟩), (0x140D1780000000, .minu ⟨3, 17, 30⟩), (0x150D1780000000, .maxu ⟨3, 17, 30⟩),
     (0x160D1780000000, .seq ⟨3, 17, 30⟩), (0x170D1780000000, .sne ⟨3, 17, 30⟩), (0x180D1780000000, .slt ⟨3, 17, 30⟩),
     (0x190D1780000000, .sltu ⟨3, 17, 30⟩), (0x1A0D1789000000, .sel ⟨3, 17, 30⟩ 9), (0x1B0D1000000000, .clz ⟨3, 17⟩),
     (0x1C0D1000000000, .ctz ⟨3, 17⟩), (0x1D0D1000000000, .popc ⟨3, 17⟩), (0x1E0D1000001168, .bfx ⟨3, 17⟩ true 5 40),
     (0x1F0D1780000168, .bfi ⟨3, 17, 30⟩ 5 40)] : List (Nat × Instr)).all
      (fun e => decodeOpt .sc e.1 == some e.2 && e.2.wf) = true := by decide +kernel
theorem test_words_immediateForms :
    ([(0x200D103FFFFFFA, .addi ⟨3, 17, -6⟩), (0x210D103FFFFFFA, .andi ⟨3, 17, -6⟩), (0x220D103FFFFFFA, .ori ⟨3, 17, -6⟩),
     (0x230D103FFFFFFA, .xori ⟨3, 17, -6⟩), (0x270D103FFFFFFA, .muli ⟨3, 17, -6⟩), (0x280D103FFFFFFA, .slti ⟨3, 17, -6⟩),
     (0x290D103FFFFFFA, .sltui ⟨3, 17, -6⟩), (0x2A0D103FFFFFFA, .seqi ⟨3, 17, -6⟩), (0x2C0D103FFFFFFA, .lic ⟨3, 17, -6⟩),
     (0x240D100000003D, .shli ⟨3, 17, 61⟩), (0x250D100000003D, .shri ⟨3, 17, 61⟩), (0x260D100000003D, .srai ⟨3, 17, 61⟩),
     (0x2B0C003FFFFFFA, .li 3 (-6)), (0x2D0C003FFFFFFA, .addpc 3 (-6)), (0x2E0D17AFFFFFFA, .lea ⟨3, 17, 30⟩ 5 (-6)),
     (0x3000003FFFFFFA, .br (-6)), (0x3101103FFFFFFA, .brz 17 (-6)), (0x3201103FFFFFFA, .brnz 17 (-6)),
     (0x330117BFFFFFFA, .brlt 17 30 (-6)), (0x340117BFFFFFFA, .brge 17 30 (-6)), (0x350117BFFFFFFA, .brltu 17 30 (-6)),
     (0x360117BFFFFFFA, .brgeu 17 30 (-6)), (0x37011000000000, .jr 17), (0x3800003FFFFFFA, .call (-6)),
     (0x390D103FFFFFFA, .brlc ⟨3, 17, -6⟩), (0x3A01100000FFFF, .loop 17 65535), (0x3B0110000703FF, .loopm 17 7 1023),
     (0x3C000000000000, .lexit)] : List (Nat × Instr)).all
      (fun e => decodeOpt .sc e.1 == some e.2 && e.2.wf) = true := by decide +kernel
theorem test_words_controlForms :
    ([(0x40151000000000, .qpush 5 17), (0x410C5000000000, .qpop 3 5), (0x420C5000000000, .qpeek 3 5),
     (0x430D4000000011, .fset ⟨.rel, .core⟩ 3 20), (0x44F51780000015, .finc ⟨.rel, .pod⟩ 61 17 30), (0x45503540000000, .fwait 20 3 21),
     (0x46000000000000, .rdv), (0x4700000000FFFE, .safept 65534), (0x480C2000000000, .gbar 3 2), (0x490C2789000008, .gred 8 3 2 30 9),
     (0x4A0C2000000000, .gstep 3 2), (0x4B0D1780000000, .launch ⟨3, 17, 30⟩), (0x4C0C0000000000, .mwait 3),
     (0x500C2780000000, .fork 3 2 30), (0x510D1000000000, .sreward ⟨3, 17⟩), (0x520C2000000000, .sgwait 3 2),
     (0x530C2780000000, .sgcancel 3 2 30), (0x540C2000000001, .sginfo 3 2 1), (0x550D1000000000, .tscore ⟨3, 17⟩),
     (0x56000000000000, .tyield), (0x570D1000000000, .tgrow ⟨3, 17⟩), (0x580C0000000002, .tinfo 3 2), (0x600C0000000000, .klease 3),
     (0x610C0000000000, .krel 3), (0x620D1000000000, .kstart ⟨3, 17⟩), (0x630D1040000000, .cstart ⟨3, 17⟩ 1),
     (0x640C2000000000, .estop 3 2), (0x650C1000000000, .estat 3 1), (0x660D1180000000, .flueld ⟨3, 17⟩ 6),
     (0x700C0000000011, .rds 3 0x11), (0x71011000000018, .wrs 0x18 17), (0x720000000000A5, .trap 0xA5), (0x73000000000000, .resume),
     (0x74000000000000, .halt), (0x750C0000000003, .icinv 3 .die), (0x760D1780000000, .iclock ⟨3, 17, 30⟩),
     (0x77011780000000, .icunlk 17 30), (0x7800000000001B, .split 27), (0x79000000000000, .genbump), (0x7A0000000000A5, .bkpt 0xA5)] : List (Nat × Instr)).all
      (fun e => decodeOpt .sc e.1 == some e.2 && e.2.wf) = true := by decide +kernel
theorem test_words_memoryForms :
    ([(0x0, .mcNop), (0x10D17977FFFFA, .ldb ⟨3, ⟨17, 30, .acq, .die, .nb, -6⟩⟩), (0x20D17977FFFFA, .ldbu ⟨3, ⟨17, 30, .acq, .die, .nb, -6⟩⟩),
     (0x30D17977FFFFA, .ldh ⟨3, ⟨17, 30, .acq, .die, .nb, -6⟩⟩), (0x40D17977FFFFA, .ldhu ⟨3, ⟨17, 30, .acq, .die, .nb, -6⟩⟩),
     (0x50D17977FFFFA, .ldw ⟨3, ⟨17, 30, .acq, .die, .nb, -6⟩⟩), (0x60D17977FFFFA, .ldwu ⟨3, ⟨17, 30, .acq, .die, .nb, -6⟩⟩),
     (0x70D17977FFFFA, .ldd ⟨3, ⟨17, 30, .acq, .die, .nb, -6⟩⟩), (0x80D17ACFFFFFA, .stb ⟨3, ⟨17, 30, .rel, .sys, .sp, -6⟩⟩),
     (0x90D17ACFFFFFA, .sth ⟨3, ⟨17, 30, .rel, .sys, .sp, -6⟩⟩), (0xA0D17ACFFFFFA, .stw ⟨3, ⟨17, 30, .rel, .sys, .sp, -6⟩⟩),
     (0xB0D17ACFFFFFA, .std ⟨3, ⟨17, 30, .rel, .sys, .sp, -6⟩⟩), (0xC1517927FFFFA, .ldq 5 ⟨17, 30, .acq, .core, .g, -6⟩),
     (0xD0517807FFFFA, .pref true 17 30 (-6)), (0x10F51794FFFFFA, .ldv 61 ⟨17, 30, .acq, .clu, .sp, -6⟩),
     (0x11F517A97FFFFA, .stv 61 ⟨17, 30, .rel, .mod, .nb, -6⟩), (0x1235179A7FFFFA, .ldp 13 ⟨17, 30, .acq, .pod, .g, -6⟩),
     (0x133517A6FFFFFA, .stp 13 ⟨17, 30, .rel, .die, .sp, -6⟩), (0x14094016000040, .bind false 2 ⟨20, 0, .acq, .die, .g, 0x40⟩),
     (0x148917A77FFFFA, .bind true 2 ⟨17, 30, .rel, .die, .nb, -6⟩), (0x15080000000000, .unbind 2), (0x160C2000000000, .spstat 3 2),
     (0x200D17BC7FFFFA, .aadd ⟨3, ⟨17, 30, .ar, .sys, .g, -6⟩⟩), (0x210D17BC7FFFFA, .aand ⟨3, ⟨17, 30, .ar, .sys, .g, -6⟩⟩),
     (0x220D17BC7FFFFA, .aor ⟨3, ⟨17, 30, .ar, .sys, .g, -6⟩⟩), (0x230D17BC7FFFFA, .axor ⟨3, ⟨17, 30, .ar, .sys, .g, -6⟩⟩),
     (0x240D17BC7FFFFA, .amin ⟨3, ⟨17, 30, .ar, .sys, .g, -6⟩⟩), (0x250D17BC7FFFFA, .amax ⟨3, ⟨17, 30, .ar, .sys, .g, -6⟩⟩),
     (0x260D17BC7FFFFA, .aminu ⟨3, ⟨17, 30, .ar, .sys, .g, -6⟩⟩), (0x270D17BC7FFFFA, .amaxu ⟨3, ⟨17, 30, .ar, .sys, .g, -6⟩⟩),
     (0x280D17BC7FFFFA, .aswap ⟨3, ⟨17, 30, .ar, .sys, .g, -6⟩⟩), (0x290D17BC7FFFFA, .acas ⟨3, ⟨17, 30, .ar, .sys, .g, -6⟩⟩),
     (0x2A0D17BC7FFFFA, .afadd ⟨3, ⟨17, 30, .ar, .sys, .g, -6⟩⟩), (0x2B0D17BC7FFFFA, .afmax ⟨3, ⟨17, 30, .ar, .sys, .g, -6⟩⟩),
     (0x30000038000000, .fence ⟨.ar, .mod⟩), (0x3100003A000000, .syncg .pod), (0x32000000000000, .rcfence),
     (0x330117847FFFFA, .cinv .clu 17 30 (-6))] : List (Nat × Instr)).all
      (fun e => decodeOpt .mc e.1 == some e.2 && e.2.wf) = true := by decide +kernel
theorem test_words_floatForms :
    ([(0x0, .vnop), (0x17B1657F96600, .vadd ⟨.fp32, .rup, .v 61, .va 1, .vb 2, .none, 9⟩),
     (0x27B1657F96600, .vsub ⟨.fp32, .rup, .v 61, .va 1, .vb 2, .none, 9⟩),
     (0x37B1657F96600, .vmul ⟨.fp32, .rup, .v 61, .va 1, .vb 2, .none, 9⟩),
     (0xB7B1657F96600, .vdiv ⟨.fp32, .rup, .v 61, .va 1, .vb 2, .none, 9⟩),
     (0x47B1656D98600, .vfma ⟨.bf16, .rup, .v 61, .va 1, .vb 2, .x 14, 9⟩),
     (0x57B1656D98600, .vfms ⟨.bf16, .rup, .v 61, .va 1, .vb 2, .x 14, 9⟩),
     (0x67B1656D98600, .vfnma ⟨.bf16, .rup, .v 61, .va 1, .vb 2, .x 14, 9⟩),
     (0x77B1657F97000, .vmin ⟨.fp16, .rne, .v 61, .va 1, .vb 2, .none, 9⟩),
     (0x87B1657F97000, .vmax ⟨.fp16, .rne, .v 61, .va 1, .vb 2, .none, 9⟩),
     (0x97B17FFF96000, .vabs ⟨.fp32, .rne, .v 61, .va 1, .none, .none, 9⟩),
     (0xA7B17FFF96000, .vneg ⟨.fp32, .rne, .v 61, .va 1, .none, .none, 9⟩),
     (0x147B17FFF96000, .vclass ⟨.fp32, .rne, .v 61, .va 1, .none, .none, 9⟩),
     (0xD7B17FFF96000, .vrcp ⟨.fp32, .rne, .v 61, .va 1, .none, .none, 9⟩),
     (0xE7B17FFF96000, .vrsq ⟨.fp32, .rne, .v 61, .va 1, .none, .none, 9⟩),
     (0xF7B17FFF96000, .vexp2 ⟨.fp32, .rne, .v 61, .va 1, .none, .none, 9⟩),
     (0x107B17FFF96000, .vlog2 ⟨.fp32, .rne, .v 61, .va 1, .none, .none, 9⟩),
     (0x117B17FFF96000, .vtanh ⟨.fp32, .rne, .v 61, .va 1, .none, .none, 9⟩),
     (0x127B17FFF96000, .vsigm ⟨.fp32, .rne, .v 61, .va 1, .none, .none, 9⟩),
     (0xC7B17FFF96C00, .vsqrt ⟨.fp32, .dyn, .v 61, .va 1, .none, .none, 9⟩),
     (0x137B17FFF96C00, .vrnd ⟨.fp32, .dyn, .v 61, .va 1, .none, .none, 9⟩)] : List (Nat × Instr)).all
      (fun e => decodeOpt .vc e.1 == some e.2 && e.2.wf) = true := by decide +kernel
theorem test_words_vectorForms1 :
    ([(0x207B1657F93000, .viadd ⟨.uint16, .rne, .v 61, .va 1, .vb 2, .none, 9⟩),
     (0x217B1657F93000, .visub ⟨.uint16, .rne, .v 61, .va 1, .vb 2, .none, 9⟩),
     (0x227B1657F93000, .vimul24 ⟨.uint16, .rne, .v 61, .va 1, .vb 2, .none, 9⟩),
     (0x237B1657F93000, .vimulh24 ⟨.uint16, .rne, .v 61, .va 1, .vb 2, .none, 9⟩),
     (0x277B1657F93000, .vimin ⟨.uint16, .rne, .v 61, .va 1, .vb 2, .none, 9⟩),
     (0x287B1657F93000, .vimax ⟨.uint16, .rne, .v 61, .va 1, .vb 2, .none, 9⟩),
     (0x2A7B1657F93000, .vand ⟨.uint16, .rne, .v 61, .va 1, .vb 2, .none, 9⟩),
     (0x2B7B1657F93000, .vor ⟨.uint16, .rne, .v 61, .va 1, .vb 2, .none, 9⟩),
     (0x2C7B1657F93000, .vxor ⟨.uint16, .rne, .v 61, .va 1, .vb 2, .none, 9⟩),
     (0x2D7B1657F93000, .vshl ⟨.uint16, .rne, .v 61, .va 1, .vb 2, .none, 9⟩),
     (0x2E7B1657F93000, .vshr ⟨.uint16, .rne, .v 61, .va 1, .vb 2, .none, 9⟩),
     (0x2F7B1657F93000, .vsra ⟨.uint16, .rne, .v 61, .va 1, .vb 2, .none, 9⟩),
     (0x327B1657F93000, .viadds ⟨.uint16, .rne, .v 61, .va 1, .vb 2, .none, 9⟩),
     (0x417B1657F93000, .vsel ⟨.uint16, .rne, .v 61, .va 1, .vb 2, .none, 9⟩),
     (0x677B1657F93000, .vgath ⟨.uint16, .rne, .v 61, .va 1, .vb 2, .none, 9⟩),
     (0x247B1657F95000, .vimul32 ⟨.uint32, .rne, .v 61, .va 1, .vb 2, .none, 9⟩),
     (0x257B1657F95000, .vimulh32 ⟨.uint32, .rne, .v 61, .va 1, .vb 2, .none, 9⟩),
     (0x267B1656D94000, .vimac24 ⟨.int32, .rne, .v 61, .va 1, .vb 2, .x 14, 9⟩),
     (0x297B17FFF92000, .viabs ⟨.int16, .rne, .v 61, .va 1, .none, .none, 9⟩),
     (0x607B17FFF90000, .vmov ⟨.int8, .rne, .v 61, .va 1, .none, .none, 9⟩),
     (0x302D136FF04000, .vrshr ⟨.int32, .rne, .v 22, .va 0, .x 14, .none, 0⟩),
     (0x317B17FFF94002, .vsat ⟨.int32, .rne, .v 61, .va 1, .none, .none, 9⟩ .int16),
     (0x401B1657F96007, .vcmp 13 .ord ⟨.fp32, .rne, .none, .va 1, .vb 2, .none, 9⟩), (0x421A184FF00000, .pand 13 6 9),
     (0x431A184FF00000, .por 13 6 9), (0x441A184FF00000, .pxor 13 6 9), (0x451A1BFFF00000, .pnot 13 6),
     (0x507B17FFF9460D, .vcvt ⟨.int32, .rup, .v 61, .va 1, .none, .none, 9⟩ .e8m0),
     (0x517B1657F06607, .vpack ⟨.fp32, .rup, .v 61, .va 1, .vb 2, .none, 0⟩ .fp16),
     (0x527B17FFF0A018, .vunpk ⟨.e5m2, .rne, .v 61, .va 1, .none, .none, 0⟩ true .bf16),
     (0x537B150FF0760C, .vqmx ⟨.fp16, .rup, .v 61, .va 1, .v 33, .none, 0⟩ .lns6),
     (0x547B1657F9B606, .vdqmx ⟨.e2m1, .rup, .v 61, .va 1, .vb 2, .none, 9⟩ .fp32),
     (0x617B17FFF02129, .vbrd ⟨.int16, .rne, .v 61, .va 1, .none, .none, 0⟩ true 41),
     (0x627B17FFF96600, .vredr ⟨.fp32, .rup, .v 61, .va 1, .none, .none, 9⟩ .add),
     (0x637B17FFF90002, .vredc ⟨.int8, .rne, .v 61, .va 1, .none, .none, 9⟩ .min),
     (0x647B17FFF04000, .vtrn ⟨.int32, .rne, .v 61, .va 1, .none, .none, 0⟩),
     (0x657B17FFF041FF, .vrotc ⟨.int32, .rne, .v 61, .va 1, .none, .none, 0⟩ 511),
     (0x667B1657F0412C, .vshc ⟨.int32, .rne, .v 61, .va 1, .vb 2, .none, 0⟩ 300), (0x68FFBFFFF00000, .vsetsh 16),
     (0x697BFFFFF91000, .viota ⟨.uint8, .rne, .v 61, .none, .none, .none, 9⟩)] : List (Nat × Instr)).all
      (fun e => decodeOpt .vc e.1 == some e.2 && e.2.wf) = true := by decide +kernel
theorem test_words_vectorForms2 :
    ([(0x18742BFF06000, .vadd ⟨.fp32, .rne, .s 3, .const .zero, .const .maxf, .none, 0⟩)] : List (Nat × Instr)).all
      (fun e => decodeOpt .vc e.1 == some e.2 && e.2.wf) = true := by decide +kernel
theorem test_words_copyWords :
    ([(0x9, .cnop 9), (0x417FFFA0009, .csetl ⟨11, -6, 9⟩), (0xC17FFFA0009, .cadv ⟨11, -6, 9⟩), (0x4017FFFA0001, .cloop ⟨11, -6, 1⟩),
     (0x81700000009, .cseth ⟨11, 0x10000, 9⟩), (0x115600000001, .cshape ⟨⟨.acq, .clu⟩, 11, 0, 1⟩),
     (0x1797FFFA0009, .cmove ⟨⟨.ar, .mod⟩, 11, -6, 9⟩), (0x1B97FFFA0009, .cbox ⟨⟨.ar, .mod⟩, 11, -6, 9⟩),
     (0x1F97FFFA0009, .cgath ⟨⟨.ar, .mod⟩, 11, -6, 9⟩), (0x2397FFFA0009, .cscat ⟨⟨.ar, .mod⟩, 11, -6, 9⟩),
     (0x26B7FFFA0009, .cfill ⟨⟨.rel, .pod⟩, 11, -6, 9⟩), (0x2BD600050009, .cred ⟨⟨.ar, .sys⟩, 11, 5, 9⟩),
     (0x2E7600050009, .csend ⟨⟨.rel, .die⟩, 11, 5, 9⟩), (0x317600050009, .crecv ⟨⟨.acq, .die⟩, 11, 5, 9⟩),
     (0x3620003D0009, .csig ⟨.rel, .core⟩ 61 9), (0x3936003D0001, .cwait ⟨.acq, .core⟩ 11 61 1),
     (0x3F2000010001, .csync ⟨.ar, .core⟩ true 1), (0x440000000001, .cend 1)] : List (Nat × Instr)).all
      (fun e => decodeOpt .copy e.1 == some e.2 && e.2.wf) = true := by decide +kernel
theorem test_words_kilnWords :
    ([(0x9, .knop 9), (0x40600180001, .ksetl ⟨3, 0x18, 1⟩), (0x80700000001, .kseth ⟨3, 0x10000, 1⟩), (0xC0000880001, .kfmt 0x88 1),
     (0x101600000001, .ktile 11 1), (0x140000000001, .kzero 1), (0x197600010001, .kldc ⟨⟨.acq, .die⟩, 11, 1, 1⟩),
     (0x1C0000000004, .kmma ⟨0, 0, 4⟩), (0x200800080001, .kdrain ⟨4, 8, 1⟩), (0x240000000001, .kswap 1),
     (0x2A20003D0009, .ksig ⟨.rel, .core⟩ 61 9), (0x2D36003D0001, .kwait ⟨.acq, .core⟩ 11 61 1),
     (0x3336000C0001, .ksync ⟨⟨.ar, .core⟩, 11, 12, 1⟩), (0x3417FFFA0001, .kloop ⟨11, -6, 1⟩), (0x380000000001, .kend 1)] : List (Nat × Instr)).all
      (fun e => decodeOpt .kiln e.1 == some e.2 && e.2.wf) = true := by decide +kernel
theorem test_words_flueWords :
    ([(0x0, .fnop), (0xA80002A, .fld 5 10 2), (0x10840000, .fadd ⟨1, 0, 8⟩), (0x1ACF0000, .fmul ⟨5, 9, 14⟩), (0x2ACF0000, .fmax ⟨5, 9, 14⟩),
     (0x32CF0000, .fmin ⟨5, 9, 14⟩), (0x22CF1800, .ffma ⟨5, 9, 14, 3⟩), (0x3ACF1800, .fbias ⟨5, 9, 14, 3⟩),
     (0x52CF1800, .fclamp ⟨5, 9, 14, 3⟩), (0x42CF18FA, .fscale ⟨5, 9, 14, 3⟩ 0xFA), (0x4ACF0006, .fact ⟨5, 9, 14⟩ 6),
     (0x5A98004B, .fq 5 3 4 11), (0x607005CA, .fst 14 2 3 4 10), (0x6EA80002, .fstat 13 5 2), (0x70000000, .fend)] : List (Nat × Instr)).all
      (fun e => decodeOpt .flue e.1 == some e.2 && e.2.wf) = true := by decide +kernel

/-! Ill-formed terms, one for each check of WellFormed -/

theorem test_wf_scalar : ([.bfx ⟨3, 1⟩ false 32 32, .bfi ⟨3, 1, 2⟩ 63 1, .fset ⟨.acq, .core⟩ 3 1, .fset ⟨.none, .core⟩ 3 1, .finc ⟨.ar, .core⟩ 3 1 2,
    .safept 65535, .gred 9 3 1 2 4, .estop 3 3, .estat 3 3, .icinv 3 .ctx, .split 28] : List Instr).all (fun i => !i.wf) = true := by decide
theorem test_wf_memory : ([.ldb ⟨3, ⟨1, 2, .rel, .die, .g, 0⟩⟩, .ldd ⟨3, ⟨1, 2, .none, .die, .g, 0⟩⟩, .stb ⟨3, ⟨1, 2, .acq, .die, .g, 0⟩⟩,
    .ldq 3 ⟨1, 2, .ar, .die, .g, 0⟩, .ldv 3 ⟨1, 2, .rel, .die, .g, 0⟩, .stv 3 ⟨1, 2, .acq, .die, .g, 0⟩, .stp 3 ⟨1, 2, .ar, .die, .g, 0⟩,
    .ldp 0 ⟨1, 2, .acq, .die, .g, 0⟩, .ldp 1 ⟨1, 2, .rel, .die, .g, 0⟩, .bind true 1 ⟨1, 2, .acq, .die, .g, 0⟩,
    .bind false 1 ⟨1, 2, .rel, .die, .g, 0⟩, .aadd ⟨3, ⟨1, 2, .none, .sys, .g, 0⟩⟩, .fence ⟨.none, .ctx⟩, .cinv .ctx 1 2 0,
    .cinv .sys 1 2 0] : List Instr).all (fun i => !i.wf) = true := by decide
theorem test_wf_vector :
    let o (f : Fmt) (r : RndK) (d : VDst) (a b c : VSrc) (p : BitVec 4) : VOp := ⟨f, r, d, a, b, c, p⟩
    ([.vadd (o .int8 .rne (.v 1) (.v 2) (.v 3) .none 0), .vadd (o .fp32 .rne (.v 1) (.v 2) .none .none 0),
    .vadd (o .fp32 .rne (.v 1) (.v 2) (.v 3) (.v 4) 0), .vadd (o .fp32 .rne (.v 1) (.x 0) (.v 3) .none 0),
    .vfma (o .fp32 .rne (.v 1) (.v 2) (.v 3) .none 0), .vmin (o .fp32 .rz (.v 1) (.v 2) (.v 3) .none 0),
    .vabs (o .int8 .rne (.v 1) (.v 2) .none .none 0), .vsqrt (o .e4m3 .rne (.v 1) (.v 2) .none .none 0),
    .vrcp (o .fp32 .rz (.v 1) (.v 2) .none .none 0), .viadd (o .fp32 .rne (.v 1) (.v 2) (.v 3) .none 0),
    .vimul32 (o .int16 .rne (.v 1) (.v 2) (.v 3) .none 0), .vimac24 (o .int32 .rz (.v 1) (.v 2) (.v 3) (.v 4) 0),
    .viabs (o .fp16 .rne (.v 1) (.v 2) .none .none 0), .vrshr (o .int32 .sr (.v 1) (.v 2) (.v 3) .none 0),
    .vrshr (o .int32 .dyn (.v 1) (.v 2) (.v 3) .none 0), .vsat (o .int32 .rne (.v 1) (.v 2) .none .none 0) .fp32,
    .vcmp 0 .eq (o .fp32 .rne .none (.v 2) (.v 3) .none 0), .vcmp 1 .un (o .int8 .rne .none (.v 2) (.v 3) .none 0),
    .vcmp 1 .eq (o .fp32 .rne (.v 1) (.v 2) (.v 3) .none 0), .vsel (o .fp32 .rne (.v 1) (.v 2) (.v 3) .none 0),
    .pand 0 1 2, .pnot 0 1, .vcvt (o .stored .rne (.v 1) (.v 2) .none .none 0) .int8,
    .vpack (o .fp32 .rne (.v 1) (.v 2) (.v 3) .none 0) .int8, .vpack (o .fp32 .rne (.v 1) (.v 2) (.v 3) .none 1) .fp16,
    .vunpk (o .int8 .rne (.v 1) (.v 2) .none .none 0) false .int32, .vqmx (o .fp32 .rne (.v 1) (.v 2) (.v 1) .none 0) .e4m3,
    .vqmx (o .fp32 .rne (.v 1) (.v 2) (.va 0) .none 0) .e4m3, .vqmx (o .fp32 .rne (.v 1) (.v 2) (.v 3) .none 0) .int8,
    .vdqmx (o .fp32 .rne (.v 1) (.v 2) (.v 3) .none 0) .fp32, .vdqmx (o .e4m3 .rne (.v 1) (.v 2) (.v 3) .none 0) .int8] : List Instr).all
      (fun i => !i.wf) = true := by decide
theorem test_wf_movement :
    let o (f : Fmt) (r : RndK) (a b : VSrc) (p : BitVec 4) : VOp := ⟨f, r, .v 1, a, b, .none, p⟩
    ([.vmov (o .fp32 .rne (.v 2) .none 0), .vbrd (o .int8 .rne (.v 2) .none 1) false 0, .vtrn (o .int8 .rne (.v 2) .none 1),
    .vrotc (o .int8 .rz (.v 2) .none 0) 1, .vshc (o .int8 .rne (.v 2) .none 0) 1, .vgath (o .fp16 .rne (.v 2) (.v 3) 0),
    .vredr (o .fp32 .sr (.v 2) .none 0) .add, .vredc (o .int8 .rz (.v 2) .none 0) .add, .vredr (o .fp32 .rz (.v 2) .none 0) .max, .vsetsh 0,
    .viota (o .int8 .rne (.v 2) .none 0)] : List Instr).all (fun i => !i.wf) = true := by decide
theorem test_wf_engine :
    let w (d : OrdK) (r : BitVec 4) (v : BitVec 17) (n : BitVec 16) : EWO := ⟨⟨d, if d = .none then .ctx else .die⟩, r, v, n⟩
    ([.cseth ⟨1, 0x10001, 1⟩, .cshape (w .rel 1 0 1), .cshape (w .acq 1 1 1), .cshape (w .acq 1 0 2), .cmove (w .none 14 0 1),
    .cmove ⟨⟨.none, .die⟩, 1, 0, 1⟩, .cbox (w .none 13 0 1), .cgath (w .none 13 0 1), .cscat (w .none 13 0 1), .cfill (w .acq 1 0 1),
    .cfill (w .rel 15 0 1), .cred (w .ar 14 0 1), .cred (w .ar 1 8 1), .csend (w .acq 1 0 1), .csend (w .rel 1 8 1), .crecv (w .rel 1 0 1),
    .crecv (w .acq 14 0 1), .csig ⟨.acq, .die⟩ 1 1, .cwait ⟨.rel, .die⟩ 1 1 1, .cwait ⟨.acq, .die⟩ 1 1 2, .csync ⟨.none, .die⟩ true 1,
    .csync ⟨.ar, .die⟩ true 2, .cloop ⟨1, 0, 2⟩, .cend 2, .kseth ⟨1, 0x10001, 1⟩, .kfmt 0x88 2, .kfmt 0x02 1, .kfmt 0x20 1, .kfmt 0x97 1,
    .ktile 14 1, .ktile 1 2, .kzero 2, .kldc (w .rel 1 0 1), .kldc (w .acq 15 0 1), .kldc (w .acq 1 2 1), .kldc (w .acq 1 0 2),
    .kmma ⟨15, 0, 1⟩, .kmma ⟨1, 2, 1⟩, .kdrain ⟨11, 0, 1⟩, .kdrain ⟨1, 128, 1⟩, .kdrain ⟨1, 0, 2⟩, .kswap 2, .ksig ⟨.acq, .die⟩ 1 1,
    .kwait ⟨.rel, .die⟩ 1 1 1, .kwait ⟨.acq, .die⟩ 1 1 2, .ksync (w .ar 1 16 1), .ksync (w .ar 1 8 1), .ksync (w .ar 1 4 2), .kloop ⟨1, 0, 2⟩,
    .kend 2] : List Instr).all (fun i => !i.wf) = true := by decide
theorem test_wf_flue : ([.fld 8 6 0, .fld 0 11 0, .fadd ⟨8, 0, 0⟩, .ffma ⟨12, 0, 0, 0⟩, .fscale ⟨8, 0, 0, 0⟩ 0, .fact ⟨0, 1, 0⟩ 7, .fact ⟨0, 1, 1⟩ 5,
    .fact ⟨8, 1, 0⟩ 0, .fq 8 0 0 9, .fq 0 8 0 9, .fq 0 0 6 9, .fq 0 0 0 6, .fst 0 3 0 0 6, .fst 0 0 0 5 6, .fst 0 0 0 0 13, .fst 0 2 0 0 6,
    .fst 12 0 0 0 6, .fst 12 2 0 0 11, .fstat 0 0 0, .fstat 12 8 0] : List Instr).all (fun i => !i.wf) = true := by decide

/-! Single steps; the results are those of the spec's tables, worked by hand -/

/-- What a step leaves, seen through a function. -/
def after {α : Type} (r : Res) (f : State → α) : Option α := match r with | .next t => some (f t) | _ => none
/-- R250, R271: the parcel issues, the next one lies 16 bytes on, and the ADD is in flight with its operands and one cycle to go. -/
theorem test_parcel_issues : after (step { State.reset with cores := [(0, padd)], script := [.parcel 0 0 false] })
    (fun t => ((t.core 0).cl.pc, (t.core 0).cl.delay, (t.core 0).flights.map (fun f => (f.ops, f.remain)))) = some (0x1010, 1, [([5, 7], 1)]) := by
  decide +kernel
/-- R111: one clock edge later the result has landed. -/
theorem test_result_lands : after ((State.doAct · (.cycle 0)) { State.reset with
      cores := [(0, { padd with flights := [{ op (st 0 padd) (.add ⟨3, 1, 2⟩) with ops := [5, 7], remain := 1 }] })] })
    (fun t => ((t.core 0).cl.rx 3, (t.core 0).scyc, (t.core 0).flights)) = some (12, 1, []) := by decide +kernel
/-- R191, R204: the edge takes a TRAP stop and its DETAIL. -/
theorem test_trap_stops : after (exec .coreStop (ev 0 0 { core [] with raises := [⟨2, 0, 0, 0xA5, 0, 0xFFFF, false⟩] }))
    (fun t => (t.core 0).stop.map (fun x => (x.r.cause, x.r.detail))) = some (some (2, 0xA5)) := by decide +kernel
/-- Table 17-6: FADD e1, e0, b0 of 1.0 and 2.0 is 3.0, run as the next instruction of a drain. -/
theorem test_fetched_word_runs : after (step ({ State.reset with kilns := [(0, {
      b0 := { st := 2, shape := 0x10001 }, reg := [(0, { vals := [(0, 0x3F800000)] }), (8, { vals := [(0, 0x40000000)] })] })] }.withFetchWord 32 0x10840000))
    (fun t => mget 0 (mget {} (t.kiln 0).reg 1).vals 0) = some 0x40400000 := by decide +kernel
/-- R277: the signed quotient of -2^63 and -1, and the remainder by 0. -/
theorem test_divide_corners : after (exec (.div ⟨3, 1, 2⟩) (st 0 (core [(1, BitVec.ofInt 64 (-2 ^ 63)), (2, BitVec.allOnes 64)])))
      (fun t => t.me.flights.map (·.data)) = some [2 ^ 63]
    ∧ after (exec (.remu ⟨3, 1, 2⟩) (st 0 (core [(1, 7)]))) (fun t => t.me.flights.map (·.data)) = some [7] := by decide +kernel
/-- R290: FSET takes the low 32 bits of its register. -/
theorem test_fset_operand : after (exec (.fset ⟨.none, .ctx⟩ 3 20) (st 0 (core [(20, 0x123456789)]))) (fun t => t.me.flights.map (·.ops))
    = some [[0x23456789]] := by decide +kernel
/-- Table 9-2: FP32 1.0 to BF16 and E4M3, and 449 to E4M3 saturates to 448 (Table 9-4). -/
theorem test_conversions : (cvtElem .fp32 .bf16 .rne false false 0 0x3F800000).1 = 0x3F80
    ∧ (cvtElem .fp32 .e4m3 .rne false false 0 0x3F800000).1 = 0x38 := by decide +kernel
/-- R12: a cycle of a module in RESET is a hub cycle. -/
theorem test_reset_cycle : after (step State.reset) (fun t => t.script) = some [.hub] := by decide +kernel

end Sys2Proof.Tests
end

section
/-! SUPPORT. The scalar and control family (14_isa_scalar_control.md): what the shared shapes of scalar syllables do at issue and on
landing, and the statements on shifts and fields, branches and BRLC settled from them. -/

namespace Sys2Proof.Machine

/-! Operations of fixed latency -/

/-- The operation that `flyFixed` puts in flight. -/
def fixedFlight (s : State) (i : Instr) (lat : Nat) (ops : List Word) : Flight := { blankFlight s i with remain := lat, ops := ops }

theorem flyFixed_eq_fly (s : State) (i : Instr) (lat : Nat) (ops : List Word) :
    flyFixed s i lat ops = fly s (fixedFlight s i lat ops) := rfl

/-- What an operation of fixed latency yields is what its landing writes to scalar registers. -/
theorem yields_of_flyFixed {s : State} {i : Instr} {lat : Nat} {ops : List Word} {ws : List (XReg × Word)}
    (he : exec i s = .next (flyFixed s i lat ops))
    (hland : ∀ k : Core, k.land (fixedFlight s i lat ops) = (k.dropFlight (fixedFlight s i lat ops)).putX s.cur.src ws) :
    s.yields i lat ws :=
  ⟨fixedFlight s i lat ops, he, rfl, rfl, rfl, rfl, rfl, rfl, hland⟩

/-- A well-formed register form yields what its landing writes from the two sources read at issue. -/
theorem yields_sc3 {s : State} {i : Instr} {o : R3} {ws : List (XReg × Word)} (hs : s.cur.src ≤ 2) (hw : i.wf = true)
    (he : exec i s = sc3 i o s)
    (hland : ∀ k : Core, let f := fixedFlight s i (i.fixedLat 1) [s.my.rx o.xa, s.my.rx o.xb]
      k.land f = (k.dropFlight f).putX s.cur.src ws) :
    s.yields i (i.fixedLat 1) ws :=
  yields_of_flyFixed (he.trans (issue_wf hs hw)) hland

/-- The same for a form with one register source. -/
theorem yields_sc1 {s : State} {i : Instr} {xa : XReg} {ws : List (XReg × Word)} (hs : s.cur.src ≤ 2) (hw : i.wf = true)
    (he : exec i s = sc1 i xa s)
    (hland : ∀ k : Core, let f := fixedFlight s i (i.fixedLat 1) [s.my.rx xa]
      k.land f = (k.dropFlight f).putX s.cur.src ws) :
    s.yields i (i.fixedLat 1) ws :=
  yields_of_flyFixed (he.trans (issue_wf hs hw)) hland

/-- An ill-formed instruction of a bundle context is an ILLEGAL stop (R269). -/
theorem issue_of_not_wf {s : State} {i : Instr} {f : State → State} (hs : s.cur.src ≤ 2) (hw : ¬ i.wf = true) :
    issue i s f = .next (raiseAt s 4 0 0) := by
  rw [issue_eq hs, if_neg hw, illegal]

theorem wf_bfx {q : R2} {sx : Bool} {pos len1 : BitVec 6} :
    (Instr.bfx q sx pos len1).wf = true ↔ pos.toNat + len1.toNat + 1 ≤ 64 := decide_eq_true_iff
theorem wf_bfi {o : R3} {pos len1 : BitVec 6} :
    (Instr.bfi o pos len1).wf = true ↔ pos.toNat + len1.toNat + 1 ≤ 64 := decide_eq_true_iff

/-! What each shift, count and field form writes -/

section
variable {s : State} (hs : s.cur.src ≤ 2)
include hs

theorem yields_shl (o : R3) : s.yields (.shl o) 1 [(o.xd, s.my.rx o.xa <<< ((s.my.rx o.xb).toNat % 64))] :=
  yields_sc3 hs rfl rfl fun _ => rfl
theorem yields_shr (o : R3) : s.yields (.shr o) 1 [(o.xd, s.my.rx o.xa >>> ((s.my.rx o.xb).toNat % 64))] :=
  yields_sc3 hs rfl rfl fun _ => rfl
theorem yields_sra (o : R3) : s.yields (.sra o) 1 [(o.xd, (s.my.rx o.xa).sshiftRight ((s.my.rx o.xb).toNat % 64))] :=
  yields_sc3 hs rfl rfl fun _ => rfl
theorem yields_rotr (o : R3) : s.yields (.rotr o) 1 [(o.xd, (s.my.rx o.xa).rotateRight ((s.my.rx o.xb).toNat % 64))] :=
  yields_sc3 hs rfl rfl fun _ => rfl
theorem yields_shli (h : Sh) : s.yields (.shli h) 1 [(h.xd, s.my.rx h.xa <<< h.n.toNat)] := yields_sc1 hs rfl rfl fun _ => rfl
theorem yields_shri (h : Sh) : s.yields (.shri h) 1 [(h.xd, s.my.rx h.xa >>> h.n.toNat)] := yields_sc1 hs rfl rfl fun _ => rfl
theorem yields_srai (h : Sh) : s.yields (.srai h) 1 [(h.xd, (s.my.rx h.xa).sshiftRight h.n.toNat)] :=
  yields_sc1 hs rfl rfl fun _ => rfl
theorem yields_clz (q : R2) : s.yields (.clz q) 1 [(q.xd, clzW (s.my.rx q.xa))] := yields_sc1 hs rfl rfl fun _ => rfl
theorem yields_ctz (q : R2) : s.yields (.ctz q) 1 [(q.xd, ctzW (s.my.rx q.xa))] := yields_sc1 hs rfl rfl fun _ => rfl
theorem yields_popc (q : R2) : s.yields (.popc q) 1 [(q.xd, popW (s.my.rx q.xa))] := yields_sc1 hs rfl rfl fun _ => rfl
theorem yields_bfx (q : R2) (sx : Bool) {pos len1 : BitVec 6} (h : pos.toNat + len1.toNat + 1 ≤ 64) :
    s.yields (.bfx q sx pos len1) 1 [(q.xd, bfxW sx pos.toNat (len1.toNat + 1) (s.my.rx q.xa))] :=
  yields_sc1 hs (wf_bfx.mpr h) rfl fun _ => rfl
theorem yields_bfi (o : R3) {pos len1 : BitVec 6} (h : pos.toNat + len1.toNat + 1 ≤ 64) :
    s.yields (.bfi o pos len1) 1 [(o.xd, bfiW pos.toNat (len1.toNat + 1) (s.my.rx o.xa) (s.my.rx o.xb))] :=
  yields_sc3 hs (wf_bfi.mpr h) rfl fun _ => rfl

/-- A field that reaches above bit 63 is an ILLEGAL stop (R278). -/
theorem stops_bfx (q : R2) (sx : Bool) {pos len1 : BitVec 6} (h : 64 < pos.toNat + len1.toNat + 1) :
    s.stops (.bfx q sx pos len1) 4 0 0 :=
  (issue_of_not_wf hs (mt wf_bfx.mp (Nat.not_le.mpr h)) : sc1 _ q.xa s = _)
theorem stops_bfi (o : R3) {pos len1 : BitVec 6} (h : 64 < pos.toNat + len1.toNat + 1) : s.stops (.bfi o pos len1) 4 0 0 :=
  (issue_of_not_wf hs (mt wf_bfi.mp (Nat.not_le.mpr h)) : sc3 _ o s = _)

end

/-! Their results bit by bit -/

theorem getLsbD_shl (a : Word) (n : Nat) {j : Nat} (hj : j < 64) :
    (a <<< n).getLsbD j = (decide (n ≤ j) && a.getLsbD (j - n)) := by
  rw [BitVec.getLsbD_shiftLeft, decide_eq_true hj, Bool.true_and, ← decide_not, decide_eq_decide.mpr Nat.not_lt]

theorem getLsbD_shr (a : Word) (n j : Nat) : (a >>> n).getLsbD j = a.getLsbD (j + n) := by
  rw [BitVec.getLsbD_ushiftRight, Nat.add_comm]

theorem getLsbD_sra (a : Word) (n : Nat) {j : Nat} (hj : j < 64) :
    (a.sshiftRight n).getLsbD j = if j + n < 64 then a.getLsbD (j + n) else a.getLsbD 63 := by
  rw [BitVec.getLsbD_sshiftRight, Nat.add_comm n j, BitVec.msb_eq_getLsbD_last, decide_eq_false (Nat.not_le.mpr hj)]
  rfl

theorem getLsbD_rotr (a : Word) {n : Nat} (hn : n < 64) {j : Nat} (hj : j < 64) :
    (a.rotateRight n).getLsbD j = a.getLsbD ((j + n) % 64) := by
  rw [BitVec.getLsbD_rotateRight, Nat.mod_eq_of_lt hn, Bool.cond_decide]
  by_cases h : j < 64 - n
  · rw [if_pos h, Nat.mod_eq_of_lt (by omega), Nat.add_comm]
  · rw [if_neg h, decide_eq_true hj, Bool.true_and]
    congr 1
    omega

theorem lt_two_pow_bitlen (n : Nat) : n < 2 ^ bitlen n := by
  rw [bitlen]
  split
  · omega
  · exact Nat.lt_log2_self

theorem two_pow_bitlen_le {n : Nat} (h : n ≠ 0) : 2 ^ (bitlen n - 1) ≤ n := by
  rw [bitlen, if_neg h, Nat.add_sub_cancel]
  exact Nat.log2_self_le h

theorem bitlen_le {n m : Nat} (h : n < 2 ^ m) : bitlen n ≤ m := by
  rw [bitlen]
  split
  · exact Nat.zero_le m
  · next h0 => exact (Nat.log2_lt h0).mpr h

/-- CLZ's count (Table 14-1). -/
theorem clzW_spec (c : Word) : ∃ z : Nat, clzW c = BitVec.ofNat 64 z ∧ z ≤ 64 ∧ c.toNat < 2 ^ (64 - z)
    ∧ (z < 64 → 2 ^ (63 - z) ≤ c.toNat) := by
  have hle : bitlen c.toNat ≤ 64 := bitlen_le c.isLt
  refine ⟨64 - bitlen c.toNat, rfl, Nat.sub_le _ _, ?_, fun hz => ?_⟩
  · rw [Nat.sub_sub_self hle]
    exact lt_two_pow_bitlen _
  · have h0 : c.toNat ≠ 0 := fun h => by simp [h, bitlen] at hz
    rw [show 63 - (64 - bitlen c.toNat) = bitlen c.toNat - 1 by omega]
    exact two_pow_bitlen_le h0

/-- `ctzGo v k` is the number of zeros below the first set bit of `v`, at most `k`. -/
theorem ctzGo_spec (v k : Nat) :
    ctzGo v k ≤ k ∧ (∀ j < ctzGo v k, v.testBit j = false) ∧ (ctzGo v k < k → v.testBit (ctzGo v k) = true) := by
  induction k generalizing v with
  | zero => simp [ctzGo]
  | succ k ih =>
    obtain ⟨hle, hlow, hset⟩ := ih (v / 2)
    rw [ctzGo]
    split
    · next h => simp [h]
    · next h =>
      rw [Nat.add_comm 1]
      refine ⟨Nat.succ_le_succ hle, fun j hj => ?_, fun hk => ?_⟩
      · cases j with
        | zero => simpa using h
        | succ j => rw [Nat.testBit_succ]; exact hlow j (Nat.lt_of_succ_lt_succ hj)
      · rw [Nat.testBit_succ]; exact hset (Nat.lt_of_succ_lt_succ hk)

/-- `popGo v k` counts the set bits of `v` below bit `k`. -/
theorem popGo_eq (v k : Nat) : popGo v k = ((List.range k).filter (fun j => v.testBit j)).length := by
  induction k generalizing v with
  | zero => rfl
  | succ k ih =>
    have hshift : (fun j => v.testBit j) ∘ Nat.succ = fun j => (v / 2).testBit j := funext fun j => Nat.testBit_succ v j
    rw [popGo, ih, List.range_succ_eq_map, List.filter_cons, List.filter_map, hshift]
    rcases Nat.mod_two_eq_zero_or_one v with h | h <;> simp [h, Nat.add_comm]

/-- The value of the low `n` bits as a signed number is that of a word of `n` bits. -/
theorem sextN_eq_toInt (n v : Nat) : sextN n v = (BitVec.ofNat n v).toInt := by
  rw [BitVec.toInt_eq_toNat_cond, BitVec.toNat_ofNat]
  rfl

theorem testBit_bits (v lo len j : Nat) : (bits v lo len).testBit j = (decide (j < len) && v.testBit (lo + j)) := by
  rw [bits, Nat.testBit_mod_two_pow, Nat.testBit_div_two_pow, Nat.add_comm]

/-- BFX's field: LEN bits from POS, and above them its sign or zero. -/
theorem getLsbD_bfxW (sx : Bool) (p l1 : Nat) (a : Word) {j : Nat} (hj : j < 64) :
    (bfxW sx p (l1 + 1) a).getLsbD j
      = if j < l1 + 1 then a.getLsbD (p + j) else (sx && a.getLsbD (p + (l1 + 1) - 1)) := by
  cases sx with
  | false =>
    rw [bfxW, if_neg Bool.false_ne_true, BitVec.getLsbD_ofNat, testBit_bits, BitVec.testBit_toNat, decide_eq_true hj]
    split <;> simp [*]
  | true =>
    have hbit (i : Nat) (hi : i < l1 + 1) : (BitVec.ofNat (l1 + 1) (bits a.toNat p (l1 + 1))).getLsbD i = a.getLsbD (p + i) := by
      rw [BitVec.getLsbD_ofNat, testBit_bits, BitVec.testBit_toNat, decide_eq_true hi, Bool.true_and, Bool.true_and]
    have hsign : bfxW true p (l1 + 1) a = (BitVec.ofNat (l1 + 1) (bits a.toNat p (l1 + 1))).signExtend 64 := by
      rw [bfxW, if_pos rfl, sextN_eq_toInt]
      rfl
    rw [hsign, BitVec.getLsbD_signExtend, decide_eq_true hj, Bool.true_and, Bool.true_and, BitVec.msb_eq_getLsbD_last,
      Nat.add_sub_cancel, hbit l1 (Nat.lt_succ_self l1)]
    split
    · next h => exact hbit j h
    · rfl

theorem testBit_setBits (v lo len x j : Nat) :
    (setBits v lo len x).testBit j = if lo ≤ j ∧ j < lo + len then x.testBit (j - lo) else v.testBit j := by
  have hlow : v % 2 ^ lo < 2 ^ lo := Nat.mod_lt _ (Nat.two_pow_pos lo)
  have hmid : x % 2 ^ len < 2 ^ len := Nat.mod_lt _ (Nat.two_pow_pos len)
  have hfield : 2 ^ lo * (x % 2 ^ len) + v % 2 ^ lo < 2 ^ (lo + len) := by
    rw [Nat.pow_add]
    calc 2 ^ lo * (x % 2 ^ len) + v % 2 ^ lo < 2 ^ lo * (x % 2 ^ len + 1) := by rw [Nat.mul_add, Nat.mul_one]; omega
      _ ≤ 2 ^ lo * 2 ^ len := Nat.mul_le_mul_left _ hmid
  have hsum : setBits v lo len x = 2 ^ (lo + len) * (v / 2 ^ (lo + len)) + (2 ^ lo * (x % 2 ^ len) + v % 2 ^ lo) := by
    rw [setBits, Nat.mul_comm (x % _), Nat.mul_comm (v / _)]
    omega
  rw [hsum, Nat.testBit_two_pow_mul_add _ hfield, Nat.testBit_two_pow_mul_add _ hlow]
  by_cases hhi : j < lo + len
  · by_cases hlo : j < lo
    · rw [if_pos hhi, if_pos hlo, if_neg (by omega), Nat.testBit_mod_two_pow, decide_eq_true hlo, Bool.true_and]
    · rw [if_pos hhi, if_neg hlo, if_pos ⟨Nat.not_lt.mp hlo, hhi⟩, Nat.testBit_mod_two_pow,
        decide_eq_true (by omega), Bool.true_and]
  · rw [if_neg hhi, if_neg fun h => hhi h.2, Nat.testBit_div_two_pow, Nat.sub_add_cancel (Nat.not_lt.mp hhi)]

/-- BFI's result: the field's bits are those of `a`, the others those of `b`. -/
theorem getLsbD_bfiW (p l : Nat) (a b : Word) {j : Nat} (hj : j < 64) :
    (bfiW p l a b).getLsbD j = if p ≤ j ∧ j < p + l then a.getLsbD (j - p) else b.getLsbD j := by
  rw [bfiW, BitVec.getLsbD_ofNat, decide_eq_true hj, Bool.true_and, testBit_setBits, BitVec.testBit_toNat, BitVec.testBit_toNat]

/-! Words of scalar syllables -/

theorem encode_sc {i : Instr} {f : ScF} (hw : i.wf = true) (he : encSC i = some f) : encode i = some (.sc, f.pack) := by
  rw [encode, if_pos hw, encodeFields, he]

theorem bit_eq_toNat (b : Bool) : bit b = b.toNat := by cases b <;> rfl

theorem pack_bfx (xd xa pos len1 : Nat) (sx : Bool) :
    ScF.pack ⟨0x1e, xd, xa, 0, bit sx * 4096 + pos * 64 + len1⟩
      = 0x1E * 2 ^ 48 + xd * 2 ^ 42 + xa * 2 ^ 36 + sx.toNat * 2 ^ 12 + pos * 2 ^ 6 + len1 := by
  simp only [ScF.pack, bit_eq_toNat]
  omega

theorem pack_bfi (xd xa xb pos len1 : Nat) :
    ScF.pack ⟨0x1f, xd, xa, xb, pos * 64 + len1⟩
      = 0x1F * 2 ^ 48 + xd * 2 ^ 42 + xa * 2 ^ 36 + xb * 2 ^ 30 + pos * 2 ^ 6 + len1 := by
  simp only [ScF.pack]
  omega

theorem encode_bfx (q : R2) (sx : Bool) {pos len1 : BitVec 6} (h : pos.toNat + len1.toNat + 1 ≤ 64) :
    encode (.bfx q sx pos len1) = some (.sc, 0x1E * 2 ^ 48 + q.xd.toNat * 2 ^ 42 + q.xa.toNat * 2 ^ 36 + sx.toNat * 2 ^ 12
      + pos.toNat * 2 ^ 6 + len1.toNat) := by
  rw [encode_sc (wf_bfx.mpr h) rfl, pack_bfx]

theorem encode_bfi (o : R3) {pos len1 : BitVec 6} (h : pos.toNat + len1.toNat + 1 ≤ 64) :
    encode (.bfi o pos len1) = some (.sc, 0x1F * 2 ^ 48 + o.xd.toNat * 2 ^ 42 + o.xa.toNat * 2 ^ 36 + o.xb.toNat * 2 ^ 30
      + pos.toNat * 2 ^ 6 + len1.toNat) := by
  rw [encode_sc (wf_bfi.mpr h) rfl, pack_bfi]

theorem need_of_not {α : Type} {p : Prop} [Decidable p] (h : ¬ p) (x : Option α) : need p x = none := if_neg h

/-- The decoder of SC syllables at a given opcode. -/
theorem decodeOpt_sc {w op : Nat} (h : Cls.sc.opcode w = op) :
    decodeOpt .sc w = decSC ⟨op, fldN w 42 6, fldN w 36 6, fldN w 30 6, fldN w 0 30⟩ := by
  subst h
  rfl

/-- Where the field of bits [29:lo] is not zero, the low 30 bits are at least 2^lo. -/
theorem low_ge_of_fldN_ne {w lo len : Nat} (hlen : lo + len = 30) (h : fldN w lo len ≠ 0) : 2 ^ lo ≤ fldN w 0 30 := by
  rw [fldN, Nat.pow_zero, Nat.div_one, ← hlen, ← Nat.not_lt]
  intro hlt
  apply h
  rw [fldN, ← Nat.mod_mul_right_div_self, ← Nat.pow_add, Nat.div_eq_of_lt hlt]

theorem decodeOpt_bfx_reserved {w : Nat} (hop : Cls.sc.opcode w = 0x1E) (h : fldN w 13 17 ≠ 0 ∨ fldN w 30 6 ≠ 0) :
    decodeOpt .sc w = none := by
  rw [decodeOpt_sc hop, Laws.decSC_1e]
  by_cases hxb : fldN w 30 6 = 0
  · have hlow : 2 ^ 13 ≤ fldN w 0 30 := low_ge_of_fldN_ne rfl (h.resolve_right (not_not_intro hxb))
    rw [need_of_not (p := fldN w 0 30 < 8192) (Nat.not_lt.mpr hlow), need, ite_self]
  · exact need_of_not hxb _

theorem decodeOpt_bfi_reserved {w : Nat} (hop : Cls.sc.opcode w = 0x1F) (h : fldN w 12 18 ≠ 0) : decodeOpt .sc w = none := by
  have hlow : 2 ^ 12 ≤ fldN w 0 30 := low_ge_of_fldN_ne rfl h
  rw [decodeOpt_sc hop, Laws.decSC_1f]
  exact need_of_not (Nat.not_lt.mpr hlow) _

/-- Settles O2: each form yields the model's own word, whose bits the lemmas above give. -/
theorem shiftsCountsAndFieldsByBits : Obligations.shiftsCountsAndFieldsByBits := by
  unfold Obligations.shiftsCountsAndFieldsByBits
  refine ⟨fun s o q h sx pos len1 hs hfit => ?_, fun s o q sx pos len1 hs hbig => ⟨stops_bfx hs q sx hbig, stops_bfi hs o hbig⟩,
    fun o q sx pos len1 hfit => ⟨encode_bfx q sx hfit, encode_bfi o hfit⟩,
    fun w => ⟨decodeOpt_bfx_reserved, decodeOpt_bfi_reserved⟩⟩
  have hn : (s.my.rx o.xb).toNat % 64 < 64 := Nat.mod_lt _ (by decide)
  refine ⟨⟨_, yields_shl hs o, fun j hj => getLsbD_shl _ _ hj⟩, ⟨_, yields_shr hs o, fun j _ => getLsbD_shr _ _ j⟩,
    ⟨_, yields_sra hs o, fun j hj => getLsbD_sra _ _ hj⟩, ⟨_, yields_rotr hs o, fun j hj => getLsbD_rotr _ hn hj⟩,
    ⟨_, yields_shli hs h, fun j hj => getLsbD_shl _ _ hj⟩, ⟨_, yields_shri hs h, fun j _ => getLsbD_shr _ _ j⟩,
    ⟨_, yields_srai hs h, fun j hj => getLsbD_sra _ _ hj⟩, ?clz, ?ctz, ?popc,
    ⟨_, yields_bfx hs q sx hfit, fun j hj => getLsbD_bfxW sx _ _ _ hj⟩,
    ⟨_, yields_bfi hs o hfit, fun j hj => getLsbD_bfiW _ _ _ _ hj⟩⟩
  case clz =>
    obtain ⟨z, hz, hspec⟩ := clzW_spec (s.my.rx q.xa)
    exact ⟨z, hz ▸ yields_clz hs q, hspec⟩
  case ctz => exact ⟨_, yields_ctz hs q, ctzGo_spec _ 64⟩
  case popc => exact popGo_eq _ 64 ▸ yields_popc hs q

/-! Transfers -/

theorem parcelBytes_dvd (x : Nat) : parcelBytes x ∣ 2 ^ 64 := by
  unfold parcelBytes
  split <;> decide

/-- PC + offset * u, computed in the integers (R280). -/
theorem target_eq (s : State) (off : BitVec 30) :
    target s off = BitVec.ofInt 64 (s.cur.pc.toNat + off.toInt * (parcelBytes s.cur.src : Nat)) := by
  rw [BitVec.ofInt_add, BitVec.ofInt_mul, BitVec.ofInt_natCast, BitVec.ofInt_natCast, BitVec.ofNat_toNat, BitVec.setWidth_eq]
  rfl

/-- The target of a parcel at a boundary is a parcel boundary. -/
theorem target_aligned {s : State} (h : s.issuing) (off : BitVec 30) : (target s off).toNat % parcelBytes s.cur.src = 0 := by
  have hpc : parcelBytes s.cur.src ∣ s.cur.pc.toNat := Nat.dvd_of_mod_eq_zero h.2
  have hu : parcelBytes s.cur.src ∣ (BitVec.ofNat 64 (parcelBytes s.cur.src)).toNat := by
    rw [BitVec.toNat_ofNat]
    exact (Nat.dvd_mod_iff (parcelBytes_dvd _)).mpr (Nat.dvd_refl _)
  rw [target, BitVec.toNat_add, Nat.mod_mod_of_dvd _ (parcelBytes_dvd _), BitVec.toNat_mul]
  refine Nat.mod_eq_zero_of_dvd (Nat.dvd_add hpc ?_)
  exact (Nat.dvd_mod_iff (parcelBytes_dvd _)).mpr (Nat.dvd_mul_left_of_dvd hu _)

theorem transfer_aligned {s : State} {a : Word} (h : a.toNat % parcelBytes s.cur.src = 0) : transfer s a = s.goes a true :=
  if_neg (not_not_intro h)
theorem transfer_misaligned {s : State} {a : Word} (h : a.toNat % parcelBytes s.cur.src ≠ 0) : transfer s a = raiseAt s 8 0 a :=
  if_pos h

/-! Each branch is the shared rule under its own condition. -/

theorem exec_br (off : BitVec 30) (s : State) : exec (.br off) s = branch (.br off) off (fun _ => true) s := rfl
theorem exec_brz (xa : XReg) (off : BitVec 30) (s : State) :
    exec (.brz xa off) s = branch (.brz xa off) off (fun s => s.my.rx xa == 0) s := rfl
theorem exec_brnz (xa : XReg) (off : BitVec 30) (s : State) :
    exec (.brnz xa off) s = branch (.brnz xa off) off (fun s => s.my.rx xa != 0) s := rfl
theorem exec_brlt (xa xb : XReg) (off : BitVec 30) (s : State) :
    exec (.brlt xa xb off) s = branch (.brlt xa xb off) off (fun s => (s.my.rx xa).slt (s.my.rx xb)) s := rfl
theorem exec_brge (xa xb : XReg) (off : BitVec 30) (s : State) :
    exec (.brge xa xb off) s = branch (.brge xa xb off) off (fun s => !(s.my.rx xa).slt (s.my.rx xb)) s := rfl
theorem exec_brltu (xa xb : XReg) (off : BitVec 30) (s : State) :
    exec (.brltu xa xb off) s = branch (.brltu xa xb off) off (fun s => s.my.rx xa < s.my.rx xb) s := rfl
theorem exec_brgeu (xa xb : XReg) (off : BitVec 30) (s : State) :
    exec (.brgeu xa xb off) s = branch (.brgeu xa xb off) off (fun s => !(s.my.rx xa < s.my.rx xb : Bool)) s := rfl

section
variable {s : State} (hi : s.issuing) (hq : s.my.seq = none)
include hi hq

/-- With no LOOPM active a branch is taken exactly on its condition, to its target (R280). -/
theorem branch_eq {i : Instr} {off : BitVec 30} {taken : State → Bool} {c : Prop} [Decidable c] (hw : i.wf = true)
    (hc : taken s = true ↔ c) :
    branch i off taken s = .next (if c then s.goes (target s off) true else s) := by
  rw [branch, issue_wf hi.1 hw, if_neg (by simp [hq]), transfer_aligned (target_aligned hi off)]
  by_cases h : c
  · rw [if_pos h, if_pos (hc.mpr h)]
  · rw [if_neg h, if_neg (mt hc.mp h)]

theorem exec_jr_aligned {xa : XReg} (h : (s.my.rx xa).toNat % parcelBytes s.cur.src = 0) :
    exec (.jr xa) s = .next (s.goes (s.my.rx xa) true) := by
  refine (issue_wf (i := .jr xa) hi.1 rfl : execJr xa s = _).trans ?_
  rw [if_neg (by simp [hq]), transfer_aligned h]
theorem stops_jr_misaligned {xa : XReg} (h : (s.my.rx xa).toNat % parcelBytes s.cur.src ≠ 0) :
    s.stops (.jr xa) 8 0 (s.my.rx xa) := by
  refine (issue_wf (i := .jr xa) hi.1 rfl : execJr xa s = _).trans ?_
  rw [if_neg (by simp [hq]), transfer_misaligned h]

theorem exec_call (off : BitVec 30) :
    exec (.call off) s = .next ((fly s (fixedFlight s (.call off) 1 [])).goes (target s off) true) := by
  refine (issue_wf (i := .call off) hi.1 rfl : execCall off s = _).trans ?_
  rw [if_neg (by simp [hq]), transfer_aligned (s := flyFixed s (.call off) 1 []) (target_aligned hi off), flyFixed_eq_fly]

end

/-! LOOPFORM under an active LOOPM -/

section
variable {s : State} (hs : s.cur.src ≤ 2) (hq : s.my.seq.isSome = true)
include hs hq

/-- A transfer under an active LOOPM is a LOOPFORM stop, taken or not (R280, R285). -/
theorem issue_loopform {i : Instr} {f : State → State} (hw : i.wf = true) :
    issue i s (fun s => if s.my.seq.isSome then loopform s else f s) = .next (raiseAt s 10 0 0) := by
  rw [issue_wf hs hw, if_pos hq, loopform]

theorem branch_loopform {i : Instr} {off : BitVec 30} {taken : State → Bool} (hw : i.wf = true) :
    branch i off taken s = .next (raiseAt s 10 0 0) := issue_loopform hs hq hw

theorem stops_of_loopm_active (xa xb : XReg) (off : BitVec 30) :
    ∀ i ∈ [Instr.br off, .brz xa off, .brnz xa off, .brlt xa xb off, .brge xa xb off, .brltu xa xb off, .brgeu xa xb off,
      .jr xa, .call off], s.stops i 10 0 0 := by
  simp only [List.forall_mem_cons, List.not_mem_nil, false_implies, implies_true, and_true]
  exact ⟨(exec_br off s).trans (branch_loopform hs hq rfl), (exec_brz xa off s).trans (branch_loopform hs hq rfl),
    (exec_brnz xa off s).trans (branch_loopform hs hq rfl), (exec_brlt xa xb off s).trans (branch_loopform hs hq rfl),
    (exec_brge xa xb off s).trans (branch_loopform hs hq rfl), (exec_brltu xa xb off s).trans (branch_loopform hs hq rfl),
    (exec_brgeu xa xb off s).trans (branch_loopform hs hq rfl), (issue_loopform hs hq rfl : execJr xa s = _),
    (issue_loopform hs hq rfl : execCall off s = _)⟩

theorem stops_brlc (o : I2) : s.stops (.brlc o) 10 0 0 := (issue_loopform hs hq rfl : execBrlc o s = _)

end

/-! The branches' words -/

/-- A branch form whose used fields are `a`, `b` and the offset. -/
theorem encode_branch {i : Instr} {op : Nat} {a b : XReg} {off : BitVec 30} (hw : i.wf = true)
    (he : encSC i = some ⟨op, 0, a.toNat, b.toNat, off.toNat⟩) :
    encode i = some (.sc, op * 2 ^ 48 + a.toNat * 2 ^ 36 + b.toNat * 2 ^ 30 + off.toNat) := by
  rw [encode_sc hw he, ScF.pack, Nat.zero_mul, Nat.add_zero]

/-- A branch opcode whose xd, or an omitted xa or xb, is not zero is no instruction. -/
theorem decodeOpt_branch_reserved {w : Nat} (hlo : 0x30 ≤ Cls.sc.opcode w) (hhi : Cls.sc.opcode w ≤ 0x36)
    (h : fldN w 42 6 ≠ 0 ∨ (Cls.sc.opcode w = 0x30 ∧ fldN w 36 6 ≠ 0) ∨ (Cls.sc.opcode w ≤ 0x32 ∧ fldN w 30 6 ≠ 0)) :
    decodeOpt .sc w = none := by
  rw [decodeOpt_sc rfl]
  generalize Cls.sc.opcode w = op at *
  have hop : op = 0x30 ∨ op = 0x31 ∨ op = 0x32 ∨ op = 0x33 ∨ op = 0x34 ∨ op = 0x35 ∨ op = 0x36 := by omega
  rcases hop with rfl | rfl | rfl | rfl | rfl | rfl | rfl
  · rw [Laws.decSC_30]; exact need_of_not (by omega) _
  · rw [Laws.decSC_31]; exact need_of_not (by omega) _
  · rw [Laws.decSC_32]; exact need_of_not (by omega) _
  · rw [Laws.decSC_33]; exact need_of_not (by omega) _
  · rw [Laws.decSC_34]; exact need_of_not (by omega) _
  · rw [Laws.decSC_35]; exact need_of_not (by omega) _
  · rw [Laws.decSC_36]; exact need_of_not (by omega) _

/-- Settles O6: one rule for the seven branches, and the transfer and stop rules for JR and CALL. -/
theorem branchesTransferWhenTaken : Obligations.branchesTransferWhenTaken := by
  unfold Obligations.branchesTransferWhenTaken
  refine ⟨fun s xa xb off hi => ?_, fun xa xb off => ⟨encode_branch rfl rfl, encode_branch rfl rfl, encode_branch rfl rfl,
    encode_branch rfl rfl, encode_branch rfl rfl, encode_branch rfl rfl, encode_branch rfl rfl,
    fun w hlo hhi h => decodeOpt_branch_reserved hlo hhi h⟩⟩
  intro u a b t dst
  refine ⟨fun hq => ?_, fun hq => stops_of_loopm_active hi.1 hq xa xb off⟩
  have hbranch {i : Instr} {taken : State → Bool} {c : Prop} [Decidable c] (hw : i.wf = true)
      (he : exec i s = branch i off taken s) (hc : taken s = true ↔ c) : dst c i := by
    show exec i s = .next (if c then s.goes t true else s)
    rw [he, branch_eq hi hq hw hc, target_eq]
    rfl
  refine ⟨hbranch rfl (exec_br off s) (iff_true_intro rfl), hbranch rfl (exec_brz xa off s) beq_iff_eq,
    hbranch rfl (exec_brnz xa off s) bne_iff_ne, hbranch rfl (exec_brlt xa xb off s) BitVec.slt_iff_toInt_lt,
    hbranch rfl (exec_brge xa xb off s) ?brge, hbranch rfl (exec_brltu xa xb off s) decide_eq_true_iff,
    hbranch rfl (exec_brgeu xa xb off s) ?brgeu, exec_jr_aligned hi hq, stops_jr_misaligned hi hq,
    fixedFlight s (.call off) 1 [], ?call, rfl, rfl, rfl, rfl, rfl, fun _ => rfl⟩
  case brge => simp [BitVec.slt_eq_decide, a, b]
  case brgeu => simp [BitVec.lt_def, a, b]
  case call =>
    rw [exec_call hi hq, target_eq]
    rfl

/-! BRLC and rotation -/

/-- With no LOOPM active BRLC puts its count in flight, asks for the rotation in K, and goes on by the count's sign (R285). -/
theorem exec_brlc {s : State} (hi : s.issuing) (hq : s.my.seq = none) (o : I2) :
    exec (.brlc o) s = .next { fly s (fixedFlight s (.brlc o) 1 [s.my.rx o.xa]) with cur := { s.cur with
      brlc := decide (s.cur.src = 1),
      jump := if 0 < (s.my.rx o.xa - 1).toInt then some (target s o.imm) else s.cur.jump,
      late := !decide (0 < (s.my.rx o.xa - 1).toInt) } } := by
  refine (issue_wf (i := .brlc o) hi.1 rfl : execBrlc o s = _).trans ?_
  rw [if_neg (by simp [hq])]
  by_cases hv : 0 < (s.my.rx o.xa - 1).toInt
  · have hslt : (0 : Word).slt (s.my.rx o.xa - 1) = true := BitVec.slt_iff_toInt_lt.mpr hv
    simp only [hslt, if_pos hv, decide_eq_true hv]
    rw [transfer_aligned]
    · rfl
    · exact target_aligned hi o.imm
  · have hslt : ¬ (0 : Word).slt (s.my.rx o.xa - 1) = true := mt BitVec.slt_iff_toInt_lt.mp hv
    simp only [if_neg hslt, if_neg hv, decide_eq_false hv]
    rfl

/-- A parcel outside a LOOPM keeps the bases, and asks for a rotation when it holds a BRLC of K. -/
theorem nextParcel_sys_rot (k : Core) (x : Nat) (c : Cur) (h : (k.ctx x).seq = none) :
    (k.nextParcel x c).sys = k.sys ∧ (k.nextParcel x c).rot = (c.brlc || k.rot) := by
  have hasks : ∀ b : Bool, (if b then { k with rot := true } else k).sys = k.sys
      ∧ (if b then { k with rot := true } else k).rot = (b || k.rot) := by rintro (_ | _) <;> exact ⟨rfl, rfl⟩
  rw [Core.nextParcel, h]
  cases c.jump with
  | none => simpa using hasks c.brlc
  | some a => cases c.skip <;> simpa using hasks c.brlc

theorem rotDue_of_not_rot {k : Core} (h : k.rot = false) : k.rotDue = k := by
  rw [Core.rotDue, if_neg (by simp [h])]
theorem rotDue_of_rot {k : Core} (h : k.rot = true) : k.rotDue = { k.rotate with rot := false } := if_pos h

@[simp] theorem Core.rotate_rrb (k : Core) : k.rotate.sys.rrb = (k.sys.rrb + 47) % 48 := rfl
@[simp] theorem Core.rotate_prb (k : Core) : k.rotate.sys.prb = (k.sys.prb + 7) % 8 := rfl

/-- After a rotation a rotating vector register is named one higher (R258, R285). -/
theorem vphys_rotate_succ (k : Core) {n : Nat} (hlo : 16 ≤ n) (hhi : n < 63) : k.rotate.vphys (n + 1) = k.vphys n := by
  rw [Core.vphys, if_neg (by omega), Core.vphys, if_neg (by omega), Core.rotate_rrb]
  omega
/-- The same for a rotating predicate. -/
theorem pphys_rotate_succ (k : Core) {n : Nat} (hlo : 8 ≤ n) (hhi : n < 15) : k.rotate.pphys (n + 1) = k.pphys n := by
  rw [Core.pphys, if_neg (by omega), Core.pphys, if_neg (by omega), Core.rotate_prb]
  omega

/-- Settles O7: BRLC's step, the request it leaves with its parcel, and the rotation that the request makes. -/
theorem brlcCountsDownAndRotates : Obligations.brlcCountsDownAndRotates := by
  unfold Obligations.brlcCountsDownAndRotates
  refine ⟨fun s o hi hq => ?_, fun s o hs hq => stops_brlc hs hq o, nextParcel_sys_rot, fun k => ⟨rotDue_of_not_rot, fun h => ?_⟩⟩
  · refine ⟨fixedFlight s (.brlc o) 1 [s.my.rx o.xa], _, exec_brlc hi hq o, rfl, rfl, rfl, rfl, rfl, rfl, fun _ => rfl, ?_⟩
    rw [target_eq]
    rfl
  · rw [rotDue_of_rot h]
    exact ⟨rfl, rfl, rfl, fun _ _ => ⟨fun _ => vphys_rotate_succ k, fun _ => pphys_rotate_succ k⟩⟩

end Sys2Proof.Machine
end
